-- ==== Sys2Proof/Word.lean ====
section
/-! DEFINITION. The words of the RWC-32: the bytes of telegrams and of the configuration image, and the
16-bit counts of the capture timer (R25). Everything else that the manual counts is a `Nat`. -/

namespace Sys2Proof

/-- A byte of a telegram body or of the configuration image (chapter 12). -/
abbrev Byte := BitVec 8

/-- A value of the capture timer: centiseconds, wrapping from 65535 to 0 (R25). -/
abbrev Stamp := BitVec 16

end Sys2Proof
end

