-- ==== Sys2Proof/Config.lean ====
section
/-! DEFINITION. What an installation fixes: the vocabulary of chapter 0 (roles, required states, refusal
reasons, fault kinds) and the contents of an accepted configuration image (R1, R89, R140, R158, R201).
It also declares the free value of the model: a byte that the manual leaves unstated. -/

namespace Sys2Proof

/-- The free values of the model (log entry 4). The manual gives some fields of a telegram no value (the
index of an answer that names no requirement, an absent capture in a report). Such a field takes
`Config.freeByte n`, where `n` is the model's own counter `State.fresh`; nothing can be proved of it. -/
opaque Config.freeByte : Nat → Byte

/-- The line bit rates of R66. -/
inductive BitRate where
  | kbit62
  | kbit125
  | kbit250
  deriving DecidableEq, Repr

/-- The position of a point (section 6.1 of the opening file). -/
inductive Position where
  | normal
  | reverse
  deriving DecidableEq, Repr

/-- The required state of a requirement (section 5 of the opening file; codes in section 12.2). -/
inductive Required where
  | clear
  | normal
  | reverse
  | stop
  | out
  deriving DecidableEq, Repr

/-- The role of a requirement (section 1.3; codes in section 12.2, where `flank` is code 5). -/
inductive Role where
  | path
  | overlap
  | entry
  | opposing
  | exit
  | flank
  deriving DecidableEq, Repr

/-- The kinds of block of section 1.6. -/
inductive BlockKind where
  | noRoute
  | noMove
  deriving DecidableEq, Repr

/-- The refusal reasons of section 6.4 of the opening file, in its order. -/
inductive Reason where
  | notInService
  | notReady
  | notPermitted
  | unknownRoute
  | unknownElement
  | entryBusy
  | routeInUse
  | locked
  | claimed
  | occupied
  | blocked
  | failed
  | notProven
  | tableFull
  | claimsFull
  | duplicate
  | peerAbsent
  | directionRefused
  | contended
  | queueFull
  | badTelegram
  deriving DecidableEq, Repr

/-- The reasons of a LAPSE (section 12.2). -/
inductive LapseReason where
  | detection
  | lamp
  | failed
  deriving DecidableEq, Repr

/-- The fifteen fault kinds, in the order of the table of section 10.3. -/
inductive FaultKind where
  | pointNoDetection
  | pointDetectionLost
  | pointDetectionConflict
  | pointOvercurrent
  | lampProceedFail
  | lampStopFail
  | sequenceFault
  | signalOverrun
  | unexpectedEntry
  | handoverUnconfirmed
  | handoverMismatch
  | peerBreak
  | lineError
  | undelivered
  | configClamped
  deriving DecidableEq, Repr

/-- A route reference: station and route number (section 6.1 of the opening file). -/
structure RouteRef where
  station : Nat
  route : Nat
  deriving DecidableEq, Repr

/-- A local element: its kind and its index (R2). -/
inductive Elem where
  | track (i : Fin 16)
  | points (i : Fin 8)
  | signal (i : Fin 8)
  | boundary (i : Fin 4)
  deriving DecidableEq, Repr

/-- A section of this or another station. Station 0 names this controller, as in the image (R201). -/
structure SectionRef where
  station : Nat
  index : Nat
  deriving DecidableEq, Repr

/-- A requirement of a route record. Station 0 names this controller. `belongs` is the route index of the
path section it belongs to, or 0 (R89, R201). -/
structure RouteReq where
  station : Nat
  elem : Nat
  role : Role
  state : Required
  belongs : Nat
  deriving DecidableEq, Repr

/-- A flank requirement: an element of this station (0) or another, with its required state (R140). -/
structure FlankReq where
  station : Nat
  elem : Nat
  state : Required
  deriving DecidableEq, Repr

/-- A flank entry of a route record (R140). -/
structure FlankEntry where
  primary : FlankReq
  protects : Nat
  substitute : Option FlankReq
  deriving DecidableEq, Repr

/-- The exit of a route (R89). -/
inductive RouteExit where
  | localSignal (i : Fin 8)
  | remoteSignal (station elem : Nat)
  | boundary (i : Fin 4)
  deriving DecidableEq, Repr

/-- A route record (R89, R116, R140): L_d in metres, `decel` in cm/s², the times in seconds. -/
structure RouteRecord where
  number : Nat
  entry : Fin 8
  exit : RouteExit
  path : List RouteReq
  overlap : List RouteReq
  flank : List FlankEntry
  distant : SectionRef
  approach : Fin 16
  distantLength : Nat
  decel : Nat
  margin : Nat
  tMin : Nat
  tMax : Nat
  tOverlap : Nat
  deriving DecidableEq, Repr

/-- The configuration of a section (R20, R11): the clear delay in steps of 100 ms. -/
structure SectionCfg where
  samples : Nat
  clearDelay : Nat
  watchers : List Nat
  deriving DecidableEq, Repr

/-- The configuration of a point (R6, R38, R41, R43): the times in units of 10 ms. -/
structure PointCfg where
  track : Fin 16
  deadInterval : Nat
  throwTime : Nat
  overCurrentTime : Nat
  deriving DecidableEq, Repr

/-- The configuration of a signal (R53, R11): the lamp proving time in units of 10 ms. -/
structure SignalCfg where
  provingTime : Nat
  watchers : List Nat
  deriving DecidableEq, Repr

/-- The configuration part of a boundary record (R158). -/
structure BoundaryCfg where
  neighbour : Nat
  neighbourIndex : Nat
  edge : Fin 16
  receiving : Nat
  deriving DecidableEq, Repr

/-- The role of a peer (R83). -/
inductive PeerRole where
  | neighbour
  | desk
  deriving DecidableEq, Repr

/-- A distinct remote section that the route records name, with its watched mark (R32). -/
structure RemoteCfg where
  station : Nat
  index : Nat
  watched : Bool
  deriving DecidableEq, Repr

/-- What the image gives the controller once it is accepted. A slot without a record is unequipped (R2,
R201). The six controller-wide times are in units of 10 ms. -/
structure AreaConfig where
  answerTimeout : Nat
  presencePeriod : Nat
  settingLimit : Nat
  orphanTime : Nat
  confirmWait : Nat
  startHold : Nat
  sections : Vector (Option SectionCfg) 16
  points : Vector (Option PointCfg) 8
  signals : Vector (Option SignalCfg) 8
  boundaries : Vector (Option BoundaryCfg) 4
  peers : List (Nat × PeerRole)
  routes : List RouteRecord
  remotes : List RemoteCfg
  deriving DecidableEq, Repr

/-- No image accepted: every slot counts as unequipped and the peer table is empty (R2, R88). The presence
period of 500 ms is the one CONFIG_FAULT takes (R66). -/
def AreaConfig.empty : AreaConfig where
  answerTimeout := 0
  presencePeriod := 50
  settingLimit := 0
  orphanTime := 0
  confirmWait := 0
  startHold := 0
  sections := Vector.replicate 16 none
  points := Vector.replicate 8 none
  signals := Vector.replicate 8 none
  boundaries := Vector.replicate 4 none
  peers := []
  routes := []
  remotes := []

end Sys2Proof
end

