-- ==== Sys2Proof/Syntax.lean ====
section
/-! DEFINITION. The commands of the block: one constructor of `Instr` for each row of
spec/opcode_table.json, with the operands that the outside world gives the event. A telegram row
(`reserve` … `withdraw`, `unknownKind`, `commandAnswerReceived`) has no operand: it takes the telegram at
the front of the receive queue (R75; log entry 3). -/

namespace Sys2Proof

/-- The service states (chapter 11), as PRESENCE also carries them (R82). -/
inductive ServiceState where
  | loading
  | configFault
  | joining
  | outOfService
  | inService
  deriving DecidableEq, Repr

/-- The two lamps of a signal (R53). -/
inductive Lamp where
  | stop
  | proceed
  deriving DecidableEq, Repr

/-- An entry capture: of a local section, or the converted capture of a remote one (R26). -/
inductive CaptureRef where
  | track (i : Fin 16)
  | remote (station index : Nat)
  deriving DecidableEq, Repr

/-- The levels on the field port and the keyswitch at the event of image acceptance (R192), bit i for
point or signal i: the two detection contacts made (R35), the current sense active (R43), the two lamp
proving inputs active (R55), and the key ON (R195). -/
structure FieldInputs where
  contactN : BitVec 8
  contactR : BitVec 8
  sense : BitVec 8
  stopProving : BitVec 8
  proceedProving : BitVec 8
  key : Bool
  deriving DecidableEq, Repr

/-- The commands: each constructor is a row of spec/opcode_table.json, in the table's order. -/
inductive Instr where
  /-- START: power-on or release of the reset input, with the straps read (R187, R188). -/
  | start (straps : BitVec 5)
  /-- IMAGE_CHECK: the end of reading the configuration memory, from its first byte (R189). -/
  | imageCheck (memory : List Byte) (inputs : FieldInputs)
  /-- START_HOLD_EXPIRY (R193). -/
  | startHoldExpiry
  /-- KEY_STATE_CHANGE: five consecutive readings of the local release input (R195). -/
  | keyStateChange (readings : BitVec 5)
  /-- SECTION_SAMPLE: a sample of the input of section i (R20 to R23). -/
  | sectionSample (i : Fin 16) (occupied : Bool)
  /-- CLEAR_TIMER_EXPIRY of section i (R22, R23). -/
  | clearTimerExpiry (i : Fin 16)
  /-- STALE_MARK: 60000 cs have passed since the value of the capture (R26). -/
  | staleMark (capture : CaptureRef)
  /-- DETECTION_CHANGE of point p: the N and the R contact as now read (R35). -/
  | detectionChange (p : Fin 8) (contactN contactR : Bool)
  /-- CURRENT_SENSE_CHANGE of point p (R43). -/
  | currentSenseChange (p : Fin 8) (active : Bool)
  /-- OVER_CURRENT_EXPIRY of point p (R43). -/
  | overCurrentExpiry (p : Fin 8)
  /-- THROW_TIMER_EXPIRY of point p (R44, R45). -/
  | throwTimerExpiry (p : Fin 8)
  /-- REVERSAL_LOCK_EXPIRY of point p (R38, R41). -/
  | reversalLockExpiry (p : Fin 8)
  /-- LAMP_PROVING_INPUT_CHANGE of a lamp of signal g (R55). -/
  | lampProvingInputChange (g : Fin 8) (lamp : Lamp) (active : Bool)
  /-- LAMP_PROVING_TIMER_EXPIRY of signal g (R55). -/
  | lampProvingTimerExpiry (g : Fin 8)
  /-- CONTENTION: the idle count that the station has read and the levels it reads in the 18 header bits,
  recessive as 1, the first bit as bit 17 (R68, R69). -/
  | contention (idle : Nat) (levels : BitVec 18)
  /-- ABORT_MARK: a line error at the sender, in the frame being sent (R70). -/
  | abortMark
  /-- ACKNOWLEDGEMENT_SLOT of the frame being sent, as read (R72). -/
  | acknowledgementSlot (dominant : Bool)
  /-- FRAME_RECEIVE: the idle count at the start bit, and the levels read from the start bit to the last
  bit of the check, stuff bits included, recessive as true (R67, R68, R71). -/
  | frameReceive (idle : Nat) (levels : List Bool)
  /-- PRESENCE: the well-formed PRESENCE of a station (R83, R84); in `view` bit a − 1 stands for station a. -/
  | presence (source : Nat) (service : ServiceState) (blocking : Nat) (view : BitVec 24)
  /-- PRESENCE_PERIOD (R82). -/
  | presencePeriod
  /-- SILENCE_TIMER_EXPIRY of a peer (R84). -/
  | silenceTimerExpiry (peer : Nat)
  /-- ANSWER_DEADLINE of the pending request with this tag (R79). -/
  | answerDeadline (tag : Byte)
  | reserve
  | release
  | flankClaim
  | flankRelease
  | directionRequest
  | offer
  | confirm
  | stateNotice
  | proven
  | lapse
  | reserveAnswer
  | flankAnswer
  | directionAnswer
  | offerAnswer
  | set
  | cancel
  | emergencyRelease
  | block
  | unblock
  | pointMove
  | describe
  | erase
  | handoverClear
  | status
  | faultFetch
  | rearm
  | admitCommand
  | withdraw
  /-- SETTING_LIMIT_EXPIRY of the route instance on signal g (R111). -/
  | settingLimitExpiry (g : Fin 8)
  /-- APPROACH_RELEASE_EXPIRY of the route instance on signal g (R129). -/
  | approachReleaseExpiry (g : Fin 8)
  /-- OVERLAP_TIMER_EXPIRY of the route instance on signal g (R125). -/
  | overlapTimerExpiry (g : Fin 8)
  /-- EMERGENCY_TIMER_EXPIRY of the route instance on signal g (R135). -/
  | emergencyTimerExpiry (g : Fin 8)
  /-- ORPHAN_TIMER_EXPIRY of a reservation (R139). -/
  | orphanTimerExpiry (ref : RouteRef)
  /-- CLAIM_ORPHAN_EXPIRY of a Claim Register entry (R156). -/
  | claimOrphanExpiry (ref : RouteRef)
  /-- CONFIRM_TIMER_EXPIRY of the outbound record of boundary b that holds this tag (R171). -/
  | confirmTimerExpiry (b : Fin 4) (tag : Byte)
  | reportDrain
  /-- RESET_ASSERTED: the reset input is asserted (R187). -/
  | resetAsserted
  | unknownKind
  | commandAnswerReceived
  deriving DecidableEq, Repr

end Sys2Proof
end

