-- ==== Sys2Proof/WellFormed.lean ====
section
/-! DEFINITION. Which commands can arise at all: the bounds that the manual sets on an operand and that
the operand's type does not. `exec` gives every command a meaning, well-formed or not. -/

namespace Sys2Proof

/-- The longest frame from the start bit to the check: 27 bits of start, header and length, 64 body bytes
and 16 check bits (R67), with a stuff bit after the first six bits and, as it begins a new run, after every further
five (R66). -/
def WellFormed.maxLevels : Nat := 27 + 8 * 64 + 16 + (27 + 8 * 64 + 16 - 1) / 5

/-- A station address is 1 to 24 (section 6.1 of the opening file). -/
def WellFormed.station (a : Nat) : Bool := decide (1 ≤ a ∧ a ≤ 24)

/-- A route number is 1 to 24 (R89). -/
def WellFormed.route (n : Nat) : Bool := decide (1 ≤ n ∧ n ≤ 24)

/-- The operand checks: the memory is at most the 65535 bytes its length field can name (R201); a level
list fits a frame (R67); a station, a route and a remote section index lie in their ranges; a blocking
count is at most 8 (R200). -/
def Instr.wellFormed : Instr → Bool
  | .imageCheck memory _ => decide (memory.length ≤ 65535)
  | .frameReceive _ levels => decide (levels.length ≤ WellFormed.maxLevels)
  | .staleMark (.remote station index) => WellFormed.station station && decide (index < 16)
  | .presence source _ blocking _ => WellFormed.station source && decide (blocking ≤ 8)
  | .silenceTimerExpiry peer => WellFormed.station peer
  | .orphanTimerExpiry ref => WellFormed.station ref.station && WellFormed.route ref.route
  | .claimOrphanExpiry ref => WellFormed.station ref.station && WellFormed.route ref.route
  | _ => true

end Sys2Proof
end

