-- ==== Sys2Proof/Decode.lean ====
section
/-! DEFINITION. `decodeTableWord`: the command that a word spells by the bits of spec/opcode_table.json.
No row of the table gives bits (every "fields" is empty and no row has a match), so no word spells a
command. The telegrams and frames that the manual does encode are read and written in
Sys2Proof/Machine/Telegram.lean. -/

namespace Sys2Proof

/-- No row of the table has bits, so no word spells a command. -/
def decodeTableWord (_nbits _w : Nat) : Option Instr := none

end Sys2Proof
end

