-- ==== Sys2Proof/Machine/State.lean ====
section
/-! DEFINITION. The state of the RWC-32: everything the manual gives each of its eight blocks, as plain
data, with its values after reset. INVENTORY.md lists each field with its rule. A field that the manual
names and that another field determines is a view: see Sys2Proof/Machine/Ops.lean (log entry 7). -/

namespace Sys2Proof.Machine

/-! ## The Element Table and the Field Interface (chapters 1 to 4) -/

/-- A route lock (section 1.3): the position is stored for points. -/
structure RouteLock where
  ref : RouteRef
  role : Role
  position : Option Position
  releasePending : Bool
  deriving DecidableEq, Repr

/-- An entry of a flank claim list (R10). -/
structure ClaimEntry where
  claimant : RouteRef
  state : Required
  uses : Nat
  deriving DecidableEq, Repr

/-- The filter state of a section (section 2.1). -/
inductive FilterState where
  | undecided
  | clear
  | occupied
  deriving DecidableEq, Repr

/-- An entry capture with its stale mark (R26). -/
structure Capture where
  value : Stamp
  stale : Bool
  deriving DecidableEq, Repr

/-- A train record (R5, R165): speed 0 means unmeasured. -/
structure TrainRecord where
  number : Nat
  speed : Nat
  deriving DecidableEq, Repr

/-- A section record with its occupancy filter (R5, section 2.1). Timers are in units of 10 ms. -/
structure SectionRec where
  filter : FilterState
  occupiedRun : Nat
  clearTimer : Option Nat
  entryCapture : Option Capture
  sequenceFault : Bool
  train : Option TrainRecord
  lock : Option RouteLock
  deriving DecidableEq, Repr

/-- What a point does when it leaves DEAD (section 3.2). -/
inductive NextDrive where
  | throw
  | swingBack
  deriving DecidableEq, Repr

/-- The drive state, with the drive target and the next drive where they are present (section 3.2). -/
inductive Drive where
  | rest
  | dead (target : Position) (next : NextDrive)
  | throwing (target : Position)
  | swingBack (target : Position)
  | failed
  deriving DecidableEq, Repr

/-- The results of a move (R48), with NONE. -/
inductive MoveResult where
  | none
  | achieved
  | notAchieved
  | failed
  | superseded
  deriving DecidableEq, Repr

/-- An entry of a point's requester list (R39). -/
inductive Requester where
  | holder (ref : RouteRef)
  | claimant (ref : RouteRef)
  | desk
  deriving DecidableEq, Repr

/-- A point record with its drive machine (R6, section 3.2) and the levels last sampled at its inputs. -/
structure PointRec where
  commanded : Option Position
  contactN : Bool
  contactR : Bool
  drive : Drive
  returnPosition : Option Position
  returnPending : Bool
  throwTimer : Option Nat
  overCurrentTimer : Option Nat
  senseActive : Bool
  reversalLock : Option (Position × Nat)
  requesters : List Requester
  lastResult : MoveResult
  lock : Option RouteLock
  claims : List ClaimEntry
  deriving DecidableEq, Repr

/-- The aspects of a signal (R53). -/
inductive Aspect where
  | stop
  | proceed
  deriving DecidableEq, Repr

/-- The states of a lamp (R53). -/
inductive LampState where
  | dark
  | awaiting
  | lit
  | interrupted
  | out
  deriving DecidableEq, Repr

/-- A signal record with its lamp machines (R7, section 4.1) and the levels last sampled at its proving
inputs. -/
structure SignalRec where
  aspect : Aspect
  stopLamp : LampState
  proceedLamp : LampState
  provingTimer : Option Nat
  exitProof : Bool
  clearingRoute : Option RouteRef
  stopInput : Bool
  proceedInput : Bool
  lock : Option RouteLock
  claims : List ClaimEntry
  deriving DecidableEq, Repr

/-! ## The Handover Unit (chapter 9) -/

/-- The previous direction of an ASKING boundary (R158). -/
inductive PreviousDirection where
  | neutral
  | into
  deriving DecidableEq, Repr

/-- The direction of traffic; ASKING holds the previous direction (R158). -/
inductive Direction where
  | neutral
  | out
  | into
  | asking (previous : PreviousDirection)
  deriving DecidableEq, Repr

/-- The state of an outbound record (R168). -/
inductive OutboundState where
  | offered
  | accepted
  | unanswered (reason : Option Reason)
  deriving DecidableEq, Repr

/-- An outbound record (R168). -/
structure OutboundRec where
  train : Nat
  speed : Nat
  tag : Byte
  state : OutboundState
  confirmTimer : Option Nat
  deriving DecidableEq, Repr

/-- An inbound record; its state is always EXPECTED (R172). -/
structure InboundRec where
  train : Nat
  speed : Nat
  tag : Byte
  deriving DecidableEq, Repr

/-- The state part of a boundary record (R158). Routes are local route numbers. -/
structure BoundaryRec where
  direction : Direction
  claims : List Nat
  waiting : List Nat
  outbound : List OutboundRec
  inbound : List InboundRec
  offersLost : Nat
  lastConfirm : Option (Nat × Byte)
  deriving DecidableEq, Repr

/-! ## The Route Engine and the Flank Manager (chapters 6 to 8) -/

/-- The image of a remote section (section 2.6). -/
inductive SectionImage where
  | unknown
  | clear
  | occupied
  deriving DecidableEq, Repr

/-- An entry of the remote section table (section 2.6). -/
structure RemoteEntry where
  station : Nat
  index : Nat
  watched : Bool
  image : SectionImage
  capture : Option Capture
  heldBy : List Nat
  deriving DecidableEq, Repr

/-- The states of a route instance (R90). -/
inductive RouteState where
  | setting
  | positioning
  | open
  | held
  | cancelling
  | entered
  | emergency
  deriving DecidableEq, Repr

/-- The progress of a path section (R116). -/
inductive Progress where
  | notReached
  | occupied
  | released
  deriving DecidableEq, Repr

/-- The states of a remote portion (R90); LAPSED holds the last lapse reason. -/
inductive PortionState where
  | none
  | pending
  | granted
  | proven
  | lapsed (reason : LapseReason)
  | void
  deriving DecidableEq, Repr

/-- A remote portion of a route instance (R89, R90): the route indices of its requirements, and the tag of
its RESERVE once one is placed. -/
structure Portion where
  owner : Nat
  indices : List Nat
  state : PortionState
  tag : Option Byte
  deriving DecidableEq, Repr

/-- The requirement of a flank portion that is in use (R141). -/
inductive InUse where
  | primary
  | substitute
  deriving DecidableEq, Repr

/-- The states of a flank portion (R141). -/
inductive FlankState where
  | none
  | pending
  | granted
  | proven
  | lapsed
  | refused
  | void
  deriving DecidableEq, Repr

/-- The last refusal or lapse reason of a flank portion (R141). -/
inductive FlankReason where
  | refusal (reason : Reason)
  | lapse (reason : LapseReason)
  deriving DecidableEq, Repr

/-- A flank portion of a route instance (R141). Owner 0 is this station. -/
structure FlankPortion where
  inUse : InUse
  owner : Nat
  state : FlankState
  tag : Option Byte
  reason : Option FlankReason
  deriving DecidableEq, Repr

/-- A timer that keeps the fact of its expiry (R116). -/
inductive Timer where
  | stopped
  | running (left : Nat)
  | expired
  deriving DecidableEq, Repr

/-- A refusal or failure reason with the route index it names. -/
structure Failure where
  reason : Reason
  index : Nat
  deriving DecidableEq, Repr

/-- A route instance (R90, R116). `progress` has one entry for each path section, `faultMarks` and
`released` hold route indices. D is in seconds, timers in units of 10 ms. -/
structure RouteInst where
  route : Nat
  state : RouteState
  inStep : Bool
  awaitingDirection : Bool
  directionHeld : Bool
  progress : List Progress
  faultMarks : List Nat
  released : List Nat
  portions : List Portion
  flank : List FlankPortion
  settingTimer : Option Nat
  approachTimer : Option Nat
  overlapTimer : Timer
  emergencyTimer : Timer
  delay : Option Nat
  speedUsed : Option Nat
  lastFailure : Option Failure
  deriving DecidableEq, Repr

/-- The last ended field of an entry signal (R180). -/
structure Ended where
  route : Nat
  failure : Option Failure
  deriving DecidableEq, Repr

/-- ACTIVE, or ORPHANED with its orphan timer (R99, R138, R148, R155); the timer is absent once expired. -/
inductive EntryState where
  | active
  | orphaned (timer : Option Nat)
  deriving DecidableEq, Repr

/-- A proof mark (R98, R148). -/
inductive ProofMark where
  | none
  | proven
  | lapsed
  deriving DecidableEq, Repr

/-- An element on a Reservation List entry (R98). -/
structure ReservedElem where
  elem : Elem
  role : Role
  state : Required
  deriving DecidableEq, Repr

/-- A Reservation List entry (R98). -/
structure Reservation where
  ref : RouteRef
  tag : Byte
  elems : List ReservedElem
  exitSignal : Option (Fin 8)
  mark : ProofMark
  state : EntryState
  deriving DecidableEq, Repr

/-- An element on a Claim Register entry (R148). -/
structure ClaimedElem where
  elem : Elem
  state : Required
  tag : Byte
  mark : ProofMark
  deriving DecidableEq, Repr

/-- A Claim Register entry (R148). -/
structure RegisterEntry where
  ref : RouteRef
  state : EntryState
  elems : List ClaimedElem
  deriving DecidableEq, Repr

/-! ## Telegrams and the Line Controller (chapters 5 and 12) -/

/-- A requirement as a telegram carries it (section 12.2). -/
structure WireReq where
  elem : Nat
  role : Role
  state : Required
  deriving DecidableEq, Repr

/-- The desk commands with their operands (section 12.3); operand bytes as received. -/
inductive Command where
  | set (route : Nat)
  | cancel (route : Nat)
  | emergencyRelease (route : Nat)
  | block (elem : Nat) (kind : BlockKind)
  | unblock (elem : Nat)
  | pointMove (elem target : Nat)
  | describe (elem train : Nat)
  | erase (elem : Nat)
  | handoverClear (elem : Nat)
  | status (subject : Nat)
  | faultFetch
  | rearm
  | admission
  | withdraw
  deriving DecidableEq, Repr

/-- The bodies of the telegrams (R200). A verdict or reason `none` is GRANTED, ACCEPT or ACCEPTED. The
subject of PROVEN and LAPSE is `none` for a reservation and the element of a flank claim otherwise. -/
inductive Body where
  | reserveAnswer (tag : Byte) (ref : RouteRef) (reason : Option Reason) (index : Nat) (granted : List Nat)
  | proven (tag : Byte) (ref : RouteRef) (subject : Option Nat)
  | lapse (tag : Byte) (ref : RouteRef) (subject : Option Nat) (reason : LapseReason)
  | flankAnswer (tag : Byte) (ref : RouteRef) (reason : Option Reason) (index : Nat)
      (verdicts : List (Nat × Option Reason))
  | directionAnswer (tag : Byte) (boundary : Nat) (reason : Option Reason)
  | reserve (tag : Byte) (ref : RouteRef) (reqs : List WireReq)
  | release (tag : Byte) (ref : RouteRef) (elems : List Nat)
  | flankClaim (tag : Byte) (ref : RouteRef) (reqs : List WireReq)
  | flankRelease (tag : Byte) (ref : RouteRef) (elems : List Nat)
  | directionRequest (tag : Byte) (boundary : Nat)
  | stateNotice (elem : Nat) (bit0 bit1 bit2 refresh : Bool) (age : Nat)
  | offer (tag : Byte) (boundary train speed receiving : Nat)
  | offerAnswer (tag : Byte) (boundary : Nat) (reason : Option Reason)
  | confirm (tag : Byte) (boundary train : Nat)
  | command (tag : Byte) (command : Command)
  | commandAnswer (tag : Byte) (code : Nat) (reason : Option Reason) (index : Nat) (contents : List Byte)
  | alert (contents : List Byte)
  | presence (service : ServiceState) (blocking : Nat) (view : BitVec 24)
  | report (subject : Nat) (stamp : Stamp) (contents : List Byte)
  deriving DecidableEq, Repr

/-- A telegram to be sent: the source is this station's address. Destination 0 is a broadcast. -/
structure Telegram where
  dest : Nat
  body : Body
  deriving DecidableEq, Repr

/-- A telegram as received: the header's class, source and kind code, and the body bytes (R67). -/
structure RawTelegram where
  cls : Nat
  source : Nat
  kind : Nat
  bytes : List Byte
  deriving DecidableEq, Repr

/-- An entry of the send queue (R73, R74): the telegram, its attempts so far (an entry with attempts is
the next frame), whether it is to be removed once the attempt on the line ends (R80, R87), the peers whose muting
mark was set after it was placed (R86), and whether its pending entry has gone with its outbound record, so that it
stays for its delivery alone (R170, R171, R174). -/
structure SendEntry where
  telegram : Telegram
  attempts : Nat
  doomed : Bool
  mutedLater : List Nat
  settled : Bool
  deriving DecidableEq, Repr

/-- The subject of a pending request (R78): a route instance by entry signal and route number, with the
element numbers that a FLANK CLAIM lists; or a boundary. -/
inductive RequestSubject where
  | portion (g : Fin 8) (route : Nat)
  | flank (g : Fin 8) (route : Nat) (elems : List Nat)
  | direction (b : Fin 4)
  | offer (b : Fin 4)
  deriving DecidableEq, Repr

/-- The state of a pending request (R78, R79). -/
inductive RequestState where
  | queued
  | waiting (left : Nat)
  deriving DecidableEq, Repr

/-- An entry of the pending request table (R78); its kind is its subject's. -/
structure Request where
  tag : Byte
  dest : Nat
  subject : RequestSubject
  state : RequestState
  deriving DecidableEq, Repr

/-- Peer states (R83). -/
inductive PeerState where
  | unknown
  | present
  | half
  | lost
  deriving DecidableEq, Repr

/-- The muting mark (R86). -/
inductive Muting where
  | absent
  | pending
  | announced
  deriving DecidableEq, Repr

/-- A peer table entry (R81, R83). -/
structure PeerEntry where
  address : Nat
  role : PeerRole
  state : PeerState
  silence : Option Nat
  lastRequest : Option (Byte × Nat)
  muting : Muting
  deriving DecidableEq, Repr

/-! ## The Report Unit and the Configuration Loader (chapters 10 and 11) -/

/-- The 45 subjects of section 10.1. -/
inductive Subject where
  | elem (e : Elem)
  | route (g : Fin 8)
  | controller
  deriving DecidableEq, Repr

/-- The first-fault record (R182). -/
structure FaultRecord where
  kind : FaultKind
  subject : Subject
  station : Option Nat
  stamp : Stamp
  deriving DecidableEq, Repr

/-- The load results of R187 to R189. -/
inductive LoadResult where
  | none
  | format
  | crc
  | address
  | capacity
  | reference
  deriving DecidableEq, Repr

/-! ## What one block tells another (section 3 of the opening file) -/

/-- What a point's holders are told (R49). -/
inductive ProofTold where
  | regained
  | lost (reason : LapseReason)
  deriving DecidableEq, Repr

/-- The outcomes that the Handover Unit tells a waiting route (R93). -/
inductive DirectionTold where
  | granted
  | refused
  | contended
  | failed
  | broken
  deriving DecidableEq, Repr

/-- What one block tells another within an event. The tasks of an event are taken in order,
each with all that it leads to before the next (log entry 6). -/
inductive Task where
  /-- A point tells a requester the result of a move (R48). -/
  | result (p : Fin 8) (who : Requester) (result : MoveResult)
  /-- A point tells its route lock holder of a change of proof (R49). -/
  | proofToHolder (p : Fin 8) (ref : RouteRef) (told : ProofTold)
  /-- A point tells a flank claimant of a change of proof (R49). -/
  | proofToClaimant (p : Fin 8) (ref : RouteRef) (told : ProofTold)
  /-- A signal tells a local exit user of a change of exit proof (R61). -/
  | exitToRoute (g user : Fin 8) (present : Bool)
  /-- A signal tells a reservation of a change of exit proof (R61). -/
  | exitToReservation (g : Fin 8) (ref : RouteRef) (present : Bool)
  /-- The PROCEED lamp has proven (R58). -/
  | cleared (g : Fin 8) (ref : RouteRef)
  /-- The signal tells its route that clearing was refused, with the number of the first failing condition
  (R57). -/
  | clearRefused (g : Fin 8) (number : Nat)
  /-- The PROCEED lamp has failed (R59). -/
  | lampFailed (ref : RouteRef)
  /-- The signal is withdrawn by flank (R62). -/
  | withdrawnByFlank (ref : RouteRef)
  /-- The claim list of an ENTRY locked signal has become empty (R62). -/
  | entryFree (g : Fin 8)
  /-- The route on g goes on to its next remote portion, or to POSITIONING (R92, R94, R95). -/
  | goOn (g : Fin 8)
  /-- The route on g enters POSITIONING (R105). -/
  | position (g : Fin 8)
  /-- The proof of the route on g is assessed (R105). -/
  | assess (g : Fin 8)
  /-- The route on g is rolled back (R112). -/
  | rollback (g : Fin 8) (failure : Option Failure)
  /-- A section of the route on g has become OCCUPIED (R117 to R123); the section's station is 0 if local. -/
  | routeOccupied (g : Fin 8) (x : SectionRef)
  /-- A section of the route on g has become CLEAR (R120). -/
  | routeCleared (g : Fin 8) (x : SectionRef)
  /-- A remote section of the route on g has become known (R33). -/
  | routeKnown (g : Fin 8) (x : SectionRef)
  /-- The proof of a reservation is assessed (R100). -/
  | assessReservation (ref : RouteRef)
  /-- The proof of an element of a Claim Register entry is assessed (R149). -/
  | assessClaim (ref : RouteRef) (e : Elem)
  /-- A class 0 telegram to a station could not be delivered (R86). -/
  | forceBreak (station : Nat)
  /-- A break with a station (R87). -/
  | breakWith (station : Nat)
  /-- A break with a station reaches the route on g (R114, R136, R154). -/
  | breakRoute (g : Fin 8) (station : Nat)
  /-- A break with its neighbour reaches a boundary (R164, R175). -/
  | breakBoundary (b : Fin 4) (station : Nat)
  /-- The Report Unit records a break (R87). -/
  | recordBreak (station : Nat)
  /-- A request fails at its owner, as timed out (R79). -/
  | requestFailed (q : Request)
  /-- The Handover Unit tells a route the outcome of its wait (R93). -/
  | directionTold (route : Nat) (b : Fin 4) (told : DirectionTold)
  /-- A withdrawal takes the route on g by its state (R197). -/
  | withdrawRoute (g : Fin 8)
  deriving DecidableEq, Repr

/-- The state of the controller. -/
structure State where
  /-- Commands waiting, first in, first out: the host's queue. -/
  pending : List Instr
  /-- The reset input is asserted (R187). -/
  resetHeld : Bool
  service : ServiceState
  loadResult : LoadResult
  /-- The station address of the straps, unset until R188 gives it. -/
  address : Option Nat
  startHoldTimer : Option Nat
  admission : Bool
  keyOn : Bool
  captureTimer : Stamp
  /-- The accepted image (R192). -/
  cfg : AreaConfig
  sections : Vector SectionRec 16
  points : Vector PointRec 8
  signals : Vector SignalRec 8
  boundaries : Vector BoundaryRec 4
  blocking : List (Elem × BlockKind)
  remote : List RemoteEntry
  instances : Vector (Option RouteInst) 8
  lastEnded : Vector (Option Ended) 8
  reservations : List Reservation
  register : List RegisterEntry
  bitRate : BitRate
  idleCount : Nat
  /-- The station waits out its yield gap (R68). -/
  yieldGap : Bool
  /-- The levels of the frame being sent, from the start bit to the check (R67). -/
  sending : Option (List Bool)
  /-- Whether the station drove the last acknowledgement slot dominant (R71). -/
  slotDriven : Bool
  recvQueue : List RawTelegram
  sendQueue : List SendEntry
  tagCounter : Byte
  requests : List Request
  peers : List PeerEntry
  presenceTimer : Option Nat
  reports : List Subject
  firstFault : Option FaultRecord
  counts : Vector Nat 15
  alertArmed : Bool
  /-- The model's own counter of free values (log entry 4). -/
  fresh : Nat
  /-- The model's own: consequences of an event that its bound has left over (log entry 6). -/
  agenda : List Task
  deriving DecidableEq, Repr

/-- The faults of the model: it has none, and none would be safe, since the manual stops the controller at
no command. A type without constructors says so. -/
inductive Fault where
  deriving DecidableEq, Repr

/-- The refusals of the model. -/
inductive Refusal where
  /-- Raised by `exec` for a command that has no meaning yet: no arm of `exec` does; safe. -/
  | notModelled (mnemonic : String)
  deriving DecidableEq, Repr

/-! ## Values after reset -/

/-- A section record after start (R19, R20). -/
def SectionRec.initial : SectionRec where
  filter := .undecided
  occupiedRun := 0
  clearTimer := none
  entryCapture := none
  sequenceFault := false
  train := none
  lock := none

/-- A point record after start (R19, R36); the input levels are a model's choice until the sampling at
image acceptance (log entry 5). -/
def PointRec.initial : PointRec where
  commanded := none
  contactN := false
  contactR := false
  drive := .rest
  returnPosition := none
  returnPending := false
  throwTimer := none
  overCurrentTimer := none
  senseActive := false
  reversalLock := none
  requesters := []
  lastResult := .none
  lock := none
  claims := []

/-- A signal record after start (R19, R53); the input levels as for points (log entry 5). -/
def SignalRec.initial : SignalRec where
  aspect := .stop
  stopLamp := .dark
  proceedLamp := .dark
  provingTimer := none
  exitProof := false
  clearingRoute := none
  stopInput := false
  proceedInput := false
  lock := none
  claims := []

/-- A boundary record after start (R19, R158). -/
def BoundaryRec.initial : BoundaryRec where
  direction := .neutral
  claims := []
  waiting := []
  outbound := []
  inbound := []
  offersLost := 0
  lastConfirm := none

/-- The machine right after reset: every block at its start values, held by the reset input, so that START
is the first event (R187; log entry 2). The controller subject is in the report queue (R177). -/
def State.reset : State where
  pending := []
  resetHeld := true
  service := .loading
  loadResult := .none
  address := none
  startHoldTimer := none
  admission := false
  keyOn := false
  captureTimer := 0
  cfg := AreaConfig.empty
  sections := Vector.replicate 16 SectionRec.initial
  points := Vector.replicate 8 PointRec.initial
  signals := Vector.replicate 8 SignalRec.initial
  boundaries := Vector.replicate 4 BoundaryRec.initial
  blocking := []
  remote := []
  instances := Vector.replicate 8 none
  lastEnded := Vector.replicate 8 none
  reservations := []
  register := []
  bitRate := .kbit62
  idleCount := 0
  yieldGap := false
  sending := none
  slotDriven := false
  recvQueue := []
  sendQueue := []
  tagCounter := 0
  requests := []
  peers := []
  presenceTimer := none
  reports := [.controller]
  firstFault := none
  counts := Vector.replicate 15 0
  alertArmed := true
  fresh := 0
  agenda := []

end Sys2Proof.Machine
end

