-- ==== Sys2Proof/Machine/Telegram.lean ====
section
/-! DEFINITION. The telegram formats of chapters 5 and 12: kind codes and classes (R199), the codes that
bodies share (section 12.2), every body as bytes both ways (R200, R76), the check (R199) and the frame on
the line, stuffed and unstuffed (R66, R67). -/

namespace Sys2Proof.Machine

/-! ## Bytes and bits -/

/-- A number as one byte. -/
def byte (n : Nat) : Byte := BitVec.ofNat 8 n

/-- A number as two bytes, most significant first. -/
def twoBytes (n : Nat) : List Byte := [byte (n / 256), byte n]

/-- Two bytes as a number, most significant first. -/
def ofTwoBytes (hi lo : Byte) : Nat := hi.toNat * 256 + lo.toNat

/-- The `w` low bits of a number, most significant first (R66). -/
def bitsOf : Nat → Nat → List Bool
  | 0, _ => []
  | w + 1, n => n.testBit w :: bitsOf w n

/-- The number that bits spell, most significant first. -/
def ofBits (bits : List Bool) : Nat := bits.foldl (fun n b => 2 * n + b.toNat) 0

/-- The bits of bytes in the order they are sent (R66). -/
def bitsOfBytes (bytes : List Byte) : List Bool := bytes.flatMap fun b => bitsOf 8 b.toNat

/-- The first `n` bytes that bits spell. -/
def bytesOfBits : Nat → List Bool → List Byte
  | 0, _ => []
  | n + 1, bits => byte (ofBits (bits.take 8)) :: bytesOfBits n (bits.drop 8)

/-! ## Kinds and classes -/

/-- The telegram kinds of R199. -/
inductive Kind where
  | reserveAnswer
  | proven
  | lapse
  | flankAnswer
  | directionAnswer
  | reserve
  | release
  | flankClaim
  | flankRelease
  | directionRequest
  | stateNotice
  | offer
  | offerAnswer
  | confirm
  | command
  | commandAnswer
  | alert
  | presence
  | report
  deriving DecidableEq, Repr

/-- The kind codes of R199. -/
def Kind.code : Kind → Nat
  | .reserveAnswer => 0x01
  | .proven => 0x02
  | .lapse => 0x03
  | .flankAnswer => 0x04
  | .directionAnswer => 0x05
  | .reserve => 0x10
  | .release => 0x11
  | .flankClaim => 0x12
  | .flankRelease => 0x13
  | .directionRequest => 0x14
  | .stateNotice => 0x20
  | .offer => 0x21
  | .offerAnswer => 0x22
  | .confirm => 0x23
  | .command => 0x24
  | .commandAnswer => 0x25
  | .alert => 0x26
  | .presence => 0x30
  | .report => 0x31

/-- The class of a kind: its column in the table of R199 (section 5.4). -/
def Kind.cls (k : Kind) : Nat := k.code / 16

/-- The nineteen kinds. -/
def Kind.all : List Kind :=
  [.reserveAnswer, .proven, .lapse, .flankAnswer, .directionAnswer, .reserve, .release, .flankClaim,
   .flankRelease, .directionRequest, .stateNotice, .offer, .offerAnswer, .confirm, .command,
   .commandAnswer, .alert, .presence, .report]

/-- The kind of a kind code; any other code is unknown (R199). -/
def Kind.ofCode (code : Nat) : Option Kind := Kind.all.find? fun k => k.code == code

/-- The kind of a body. -/
def bodyKind : Body → Kind
  | .reserveAnswer .. => .reserveAnswer
  | .proven .. => .proven
  | .lapse .. => .lapse
  | .flankAnswer .. => .flankAnswer
  | .directionAnswer .. => .directionAnswer
  | .reserve .. => .reserve
  | .release .. => .release
  | .flankClaim .. => .flankClaim
  | .flankRelease .. => .flankRelease
  | .directionRequest .. => .directionRequest
  | .stateNotice .. => .stateNotice
  | .offer .. => .offer
  | .offerAnswer .. => .offerAnswer
  | .confirm .. => .confirm
  | .command .. => .command
  | .commandAnswer .. => .commandAnswer
  | .alert .. => .alert
  | .presence .. => .presence
  | .report .. => .report

/-- The class of a telegram (section 5.4). -/
def telegramClass (t : Telegram) : Nat := (bodyKind t.body).cls

/-- The tagged requests of section 5.4. -/
def Kind.tagged : Kind → Bool
  | .reserve | .flankClaim | .directionRequest | .offer | .command => true
  | _ => false

/-! ## Shared codes (section 12.2) -/

/-- Role codes. -/
def roleCode : Role → Nat
  | .path => 0
  | .overlap => 1
  | .entry => 2
  | .opposing => 3
  | .exit => 4
  | .flank => 5

/-- The role of a code; above 5 there is none. -/
def roleOfCode : Nat → Option Role
  | 0 => some .path
  | 1 => some .overlap
  | 2 => some .entry
  | 3 => some .opposing
  | 4 => some .exit
  | 5 => some .flank
  | _ => none

/-- Required state codes. -/
def requiredCode : Required → Nat
  | .clear => 0
  | .normal => 1
  | .reverse => 2
  | .stop => 3
  | .out => 4

/-- The required state of a code; above 4 there is none. -/
def requiredOfCode : Nat → Option Required
  | 0 => some .clear
  | 1 => some .normal
  | 2 => some .reverse
  | 3 => some .stop
  | 4 => some .out
  | _ => none

/-- The refusal reasons in the order of section 6.4. -/
def allReasons : List Reason :=
  [.notInService, .notReady, .notPermitted, .unknownRoute, .unknownElement, .entryBusy, .routeInUse,
   .locked, .claimed, .occupied, .blocked, .failed, .notProven, .tableFull, .claimsFull, .duplicate,
   .peerAbsent, .directionRefused, .contended, .queueFull, .badTelegram]

/-- The reason numbers 1 to 21. -/
def reasonNumber : Reason → Nat
  | .notInService => 1
  | .notReady => 2
  | .notPermitted => 3
  | .unknownRoute => 4
  | .unknownElement => 5
  | .entryBusy => 6
  | .routeInUse => 7
  | .locked => 8
  | .claimed => 9
  | .occupied => 10
  | .blocked => 11
  | .failed => 12
  | .notProven => 13
  | .tableFull => 14
  | .claimsFull => 15
  | .duplicate => 16
  | .peerAbsent => 17
  | .directionRefused => 18
  | .contended => 19
  | .queueFull => 20
  | .badTelegram => 21

/-- A reason byte: 0 for GRANTED, ACCEPT or ACCEPTED. -/
def reasonCode : Option Reason → Nat
  | none => 0
  | some r => reasonNumber r

/-- The reason of a reason byte; above 21 there is none. -/
def reasonOfCode (n : Nat) : Option (Option Reason) :=
  if n = 0 then some none else (allReasons[n - 1]?).map some

/-- The fault kinds in the order of section 10.3, as an index 0 to 14. -/
def faultIndex : FaultKind → Fin 15
  | .pointNoDetection => 0
  | .pointDetectionLost => 1
  | .pointDetectionConflict => 2
  | .pointOvercurrent => 3
  | .lampProceedFail => 4
  | .lampStopFail => 5
  | .sequenceFault => 6
  | .signalOverrun => 7
  | .unexpectedEntry => 8
  | .handoverUnconfirmed => 9
  | .handoverMismatch => 10
  | .peerBreak => 11
  | .lineError => 12
  | .undelivered => 13
  | .configClamped => 14

/-- A fault kind byte, 1 to 15. -/
def faultCode (k : FaultKind) : Nat := (faultIndex k).val + 1

/-- LAPSE reasons. -/
def lapseCode : LapseReason → Nat
  | .detection => 1
  | .lamp => 2
  | .failed => 3

/-- The LAPSE reason of a code. -/
def lapseOfCode : Nat → Option LapseReason
  | 1 => some .detection
  | 2 => some .lamp
  | 3 => some .failed
  | _ => none

/-- Service states as PRESENCE carries them (R200). -/
def serviceCode : ServiceState → Nat
  | .loading => 0
  | .configFault => 1
  | .joining => 2
  | .outOfService => 3
  | .inService => 4

/-- The service state of a code. -/
def serviceOfCode : Nat → Option ServiceState
  | 0 => some .loading
  | 1 => some .configFault
  | 2 => some .joining
  | 3 => some .outOfService
  | 4 => some .inService
  | _ => none

/-- Block kinds (R200). -/
def blockCode : BlockKind → Nat
  | .noRoute => 1
  | .noMove => 2

/-- The block kind of a code. -/
def blockOfCode : Nat → Option BlockKind
  | 1 => some .noRoute
  | 2 => some .noMove
  | _ => none

/-! ## Element numbers (R2, R200) -/

/-- The local element number of an element: T 0–15, P 16–23, S 24–31, B 32–35. -/
def elemNumber : Elem → Nat
  | .track i => i.val
  | .points i => 16 + i.val
  | .signal i => 24 + i.val
  | .boundary i => 32 + i.val

/-- The element of a local element number; above 35 there is none. -/
def elemOfNumber (n : Nat) : Option Elem :=
  if h : n < 16 then some (.track ⟨n, h⟩)
  else if h : n - 16 < 8 then some (.points ⟨n - 16, h⟩)
  else if h : n - 24 < 8 then some (.signal ⟨n - 24, h⟩)
  else if h : n - 32 < 4 then some (.boundary ⟨n - 32, h⟩)
  else none

/-- A subject as STATUS codes it (section 12.3). -/
def subjectCode : Subject → Nat
  | .elem e => elemNumber e
  | .route g => 64 + g.val
  | .controller => 128

/-! ## Bodies (R200) -/

/-- A requirement as two bytes. -/
def encodeReq (r : WireReq) : List Byte :=
  [byte r.elem, byte (roleCode r.role * 16 + requiredCode r.state)]

/-- A route reference as two bytes. -/
def encodeRef (r : RouteRef) : List Byte := [byte r.station, byte r.route]

/-- A verdict as a pair of element number and reason. -/
def encodeVerdict (v : Nat × Option Reason) : List Byte := [byte v.1, byte (reasonCode v.2)]

/-- The subject and element bytes of PROVEN and LAPSE. -/
def encodeSubject : Option Nat → List Byte
  | none => [0, 255]
  | some e => [1, byte e]

/-- The command codes of section 12.3. -/
def commandCode : Command → Nat
  | .set _ => 1
  | .cancel _ => 2
  | .emergencyRelease _ => 3
  | .block .. => 4
  | .unblock _ => 5
  | .pointMove .. => 6
  | .describe .. => 7
  | .erase _ => 8
  | .handoverClear _ => 9
  | .status _ => 10
  | .faultFetch => 11
  | .rearm => 12
  | .admission => 13
  | .withdraw => 14

/-- The operands of a command. -/
def encodeOperands : Command → List Byte
  | .set n | .cancel n | .emergencyRelease n => [byte n]
  | .block e k => [byte e, byte (blockCode k)]
  | .unblock e | .erase e | .handoverClear e => [byte e]
  | .pointMove e t => [byte e, byte t]
  | .describe e n => byte e :: twoBytes n
  | .status n => [byte n]
  | .faultFetch | .rearm | .admission | .withdraw => []

/-- The state byte of a STATE NOTICE: bits 0, 1, 2 and 7. -/
def noticeByte (bit0 bit1 bit2 refresh : Bool) : Byte :=
  byte (bit0.toNat + 2 * bit1.toNat + 4 * bit2.toNat + 128 * refresh.toNat)

/-- A body as bytes. -/
def encodeBody : Body → List Byte
  | .reserveAnswer tag ref reason index granted =>
    tag :: encodeRef ref ++ [byte (reasonCode reason), byte index, byte granted.length] ++ granted.map byte
  | .proven tag ref subject => tag :: encodeRef ref ++ encodeSubject subject
  | .lapse tag ref subject reason => tag :: encodeRef ref ++ encodeSubject subject ++ [byte (lapseCode reason)]
  | .flankAnswer tag ref reason index verdicts =>
    tag :: encodeRef ref ++ [byte (reasonCode reason), byte index, byte verdicts.length]
      ++ verdicts.flatMap encodeVerdict
  | .directionAnswer tag b reason => [tag, byte b, byte (reasonCode reason)]
  | .reserve tag ref reqs => tag :: encodeRef ref ++ [byte reqs.length] ++ reqs.flatMap encodeReq
  | .release tag ref elems => tag :: encodeRef ref ++ [byte elems.length] ++ elems.map byte
  | .flankClaim tag ref reqs => tag :: encodeRef ref ++ [byte reqs.length] ++ reqs.flatMap encodeReq
  | .flankRelease tag ref elems => tag :: encodeRef ref ++ [byte elems.length] ++ elems.map byte
  | .directionRequest tag b => [tag, byte b]
  | .stateNotice e b0 b1 b2 refresh age => byte e :: noticeByte b0 b1 b2 refresh :: twoBytes age
  | .offer tag b train speed receiving =>
    tag :: byte b :: twoBytes train ++ twoBytes speed ++ [byte receiving]
  | .offerAnswer tag b reason => [tag, byte b, byte (reasonCode reason)]
  | .confirm tag b train => tag :: byte b :: twoBytes train
  | .command tag c => tag :: byte (commandCode c) :: encodeOperands c
  | .commandAnswer tag code reason index contents =>
    [tag, byte code, byte (reasonCode reason), byte index] ++ contents
  | .alert contents => contents
  | .presence service blocking view =>
    [byte (serviceCode service), byte blocking, byte (view.toNat / 65536), byte (view.toNat / 256),
     byte view.toNat]
  | .report subject stamp contents => byte subject :: twoBytes stamp.toNat ++ contents

/-- Requirements from bytes; a role above 5 or a state above 4 is malformed (section 12.2). -/
def decodeReqs : List Byte → Option (List WireReq)
  | [] => some []
  | [_] => none
  | e :: c :: rest =>
    match roleOfCode (c.toNat / 16), requiredOfCode (c.toNat % 16), decodeReqs rest with
    | some role, some state, some reqs => some (⟨e.toNat, role, state⟩ :: reqs)
    | _, _, _ => none

/-- Verdicts from bytes. -/
def decodeVerdicts : List Byte → Option (List (Nat × Option Reason))
  | [] => some []
  | [_] => none
  | e :: r :: rest =>
    match reasonOfCode r.toNat, decodeVerdicts rest with
    | some reason, some vs => some ((e.toNat, reason) :: vs)
    | _, _ => none

/-- The subject of PROVEN and LAPSE from its two bytes: element 255 goes with a reservation. -/
def decodeSubject (s e : Byte) : Option (Option Nat) :=
  if s = 0 then (if e = 255 then some none else none)
  else if s = 1 then some (some e.toNat)
  else none

/-- A boundary index, 0 to 3. -/
def decodeBoundary (b : Byte) : Option Nat := if b.toNat ≤ 3 then some b.toNat else none

/-- A desk command from its code and operands; a wrong length, an unknown code or a block kind other than
1 and 2 is malformed (R76, section 12.3). -/
def decodeCommand (code : Nat) (ops : List Byte) : Option Command :=
  match code, ops with
  | 1, [n] => some (.set n.toNat)
  | 2, [n] => some (.cancel n.toNat)
  | 3, [n] => some (.emergencyRelease n.toNat)
  | 4, [e, k] => (blockOfCode k.toNat).map (.block e.toNat)
  | 5, [e] => some (.unblock e.toNat)
  | 6, [e, t] => some (.pointMove e.toNat t.toNat)
  | 7, [e, hi, lo] => some (.describe e.toNat (ofTwoBytes hi lo))
  | 8, [e] => some (.erase e.toNat)
  | 9, [e] => some (.handoverClear e.toNat)
  | 10, [n] => some (.status n.toNat)
  | 11, [] => some .faultFetch
  | 12, [] => some .rearm
  | 13, [] => some .admission
  | 14, [] => some .withdraw
  | _, _ => none

/-- The body of a RESERVE or FLANK CLAIM: tag, route reference and requirements. -/
def decodeWithReqs : List Byte → Option (Byte × RouteRef × List WireReq)
  | tag :: st :: rt :: n :: rest =>
    if n.toNat ≤ 30 ∧ rest.length = 2 * n.toNat then
      (decodeReqs rest).map fun reqs => (tag, ⟨st.toNat, rt.toNat⟩, reqs)
    else none
  | _ => none

/-- The body of a RELEASE or FLANK RELEASE: tag, route reference and element numbers. -/
def decodeWithElems : List Byte → Option (Byte × RouteRef × List Nat)
  | tag :: st :: rt :: m :: rest =>
    if m.toNat ≤ 30 ∧ rest.length = m.toNat then
      some (tag, ⟨st.toNat, rt.toNat⟩, rest.map (·.toNat))
    else none
  | _ => none

/-- The body of a RESERVE ANSWER. -/
def decodeReserveAnswer : List Byte → Option Body
  | tag :: st :: rt :: r :: i :: m :: rest =>
    match reasonOfCode r.toNat with
    | some reason =>
      if m.toNat ≤ 20 ∧ rest.length = m.toNat then
        some (.reserveAnswer tag ⟨st.toNat, rt.toNat⟩ reason i.toNat (rest.map (·.toNat)))
      else none
    | none => none
  | _ => none

/-- The body of a FLANK ANSWER: a whole-claim reason goes with no verdict. -/
def decodeFlankAnswer : List Byte → Option Body
  | tag :: st :: rt :: r :: i :: k :: rest =>
    match reasonOfCode r.toNat, decodeVerdicts rest with
    | some reason, some vs =>
      if k.toNat ≤ 30 ∧ vs.length = k.toNat ∧ (reason.isSome → k.toNat = 0) then
        some (.flankAnswer tag ⟨st.toNat, rt.toNat⟩ reason i.toNat vs)
      else none
    | _, _ => none
  | _ => none

/-- The body of a STATE NOTICE: elements 0–15 and 24–31; the unused bits of the state byte are 0, bit 2
among them for a section. -/
def decodeStateNotice : List Byte → Option Body
  | [e, st, hi, lo] =>
    if (e.toNat ≤ 15 ∧ !st.getLsbD 2 ∨ 24 ≤ e.toNat ∧ e.toNat ≤ 31) ∧ st &&& 0x78 = 0 then
      some (.stateNotice e.toNat (st.getLsbD 0) (st.getLsbD 1) (st.getLsbD 2) (st.getLsbD 7) (ofTwoBytes hi lo))
    else none
  | _ => none

/-- The body of an OFFER: train 0–65534, speed 0–9999. -/
def decodeOffer : List Byte → Option Body
  | [tag, b, thi, tlo, vhi, vlo, r] =>
    match decodeBoundary b with
    | some i =>
      if ofTwoBytes thi tlo ≤ 65534 ∧ ofTwoBytes vhi vlo ≤ 9999 then
        some (.offer tag i (ofTwoBytes thi tlo) (ofTwoBytes vhi vlo) r.toNat)
      else none
    | none => none
  | _ => none

/-- The body of a PRESENCE: a service state, a blocking count 0–8 and the view. -/
def decodePresence : List Byte → Option Body
  | [s, n, v2, v1, v0] =>
    match serviceOfCode s.toNat with
    | some service => if n.toNat ≤ 8 then some (.presence service n.toNat (v2 ++ v1 ++ v0)) else none
    | none => none
  | _ => none

/-- A body from its kind and bytes; `none` is a body that does not match its kind (R76). REPORT, ALERT and
COMMAND ANSWER are not examined by a controller (R200), so they have no decoding. That a CONFIRM of train 65535 is
well formed is the model's choice (log entry 49). -/
def decodeBody (kind : Kind) (bytes : List Byte) : Option Body :=
  match kind, bytes with
  | .reserve, bs => (decodeWithReqs bs).map fun (t, r, qs) => .reserve t r qs
  | .flankClaim, bs => (decodeWithReqs bs).map fun (t, r, qs) => .flankClaim t r qs
  | .release, bs => (decodeWithElems bs).map fun (t, r, es) => .release t r es
  | .flankRelease, bs => (decodeWithElems bs).map fun (t, r, es) => .flankRelease t r es
  | .reserveAnswer, bs => decodeReserveAnswer bs
  | .flankAnswer, bs => decodeFlankAnswer bs
  | .proven, [t, st, rt, s, e] => (decodeSubject s e).map fun x => .proven t ⟨st.toNat, rt.toNat⟩ x
  | .lapse, [t, st, rt, s, e, r] =>
    match decodeSubject s e, lapseOfCode r.toNat with
    | some x, some reason => some (.lapse t ⟨st.toNat, rt.toNat⟩ x reason)
    | _, _ => none
  | .directionRequest, [t, b] => (decodeBoundary b).map (.directionRequest t)
  | .directionAnswer, [t, b, r] =>
    match decodeBoundary b, reasonOfCode r.toNat with
    | some i, some reason => some (.directionAnswer t i reason)
    | _, _ => none
  | .offer, bs => decodeOffer bs
  | .offerAnswer, [t, b, r] =>
    match decodeBoundary b, reasonOfCode r.toNat with
    | some i, some reason => some (.offerAnswer t i reason)
    | _, _ => none
  | .confirm, [t, b, hi, lo] => (decodeBoundary b).map fun i => .confirm t i (ofTwoBytes hi lo)
  | .stateNotice, bs => decodeStateNotice bs
  | .command, t :: code :: ops => (decodeCommand code.toNat ops).map (.command t)
  | .presence, bs => decodePresence bs
  | _, _ => none

/-! ## The check and the frame (R66, R67, R199) -/

/-- One bit of the check: the register is shifted, and combined with the generator 0x1021 where the bit
and the register's top bit differ (R199). -/
def checkStep (reg : BitVec 16) (b : Bool) : BitVec 16 :=
  if reg.msb != b then (reg <<< 1) ^^^ 0x1021 else reg <<< 1

/-- The check over the header, length and body bits (R199). -/
def checkOf (bits : List Bool) : BitVec 16 := bits.foldl checkStep 0xFFFF

/-- Stuffing after a run: after six equal bits the opposite bit is sent, the first of a new run (R66). Six equal
bits that end with the last bit are followed by none, and a receiver takes one: the model's choice (log entry
31). -/
def stuffFrom (last : Bool) (run : Nat) : List Bool → List Bool
  | [] => []
  | b :: bs =>
    if run = 6 then
      (!last) :: b :: stuffFrom b (if b = !last then 2 else 1) bs
    else b :: stuffFrom b (if b = last then run + 1 else 1) bs

/-- The levels of a bit list, from its first bit on (R66). -/
def stuff : List Bool → List Bool
  | [] => []
  | b :: bs => b :: stuffFrom b 1 bs

/-- Unstuffing after a run: the bits up to the first stuffing violation, and whether there was one (R66). -/
def unstuffFrom (last : Bool) (run : Nat) : List Bool → List Bool × Bool
  | [] => ([], false)
  | x :: xs =>
    if run = 6 then
      if x = last then ([], true) else unstuffFrom x 1 xs
    else
      let r := unstuffFrom x (if x = last then run + 1 else 1) xs
      (x :: r.1, r.2)

/-- The bits of a level list. -/
def unstuff : List Bool → List Bool × Bool
  | [] => ([], false)
  | x :: xs => let r := unstuffFrom x 1 xs; (x :: r.1, r.2)

/-- The 18 header bits: class, source, destination, kind (R199). -/
def headerBits (source : Nat) (t : Telegram) : BitVec 18 :=
  BitVec.ofNat 18 ((((telegramClass t * 32) + source) * 32 + t.dest) * 64 + (bodyKind t.body).code)

/-- The header, length and body bits of a telegram, which the check covers (R199). -/
def coveredBits (source : Nat) (t : Telegram) : List Bool :=
  let bytes := encodeBody t.body
  bitsOf 18 (headerBits source t).toNat ++ bitsOf 8 bytes.length ++ bitsOfBytes bytes

/-- The levels a sender drives from the start bit to the check: dominant is false (R66, R67). -/
def frameLevels (source : Nat) (t : Telegram) : List Bool :=
  let covered := coveredBits source t
  stuff (false :: covered ++ bitsOf 16 (checkOf covered).toNat)

/-- What a receiver finds at the end of the check field (R67, R71). -/
inductive FrameReading where
  /-- No whole frame: broken off, a stuffing violation, or bits left over. -/
  | broken
  /-- The length is above 64. -/
  | tooLong (dest : Nat)
  /-- The check is wrong. -/
  | badCheck (dest : Nat)
  /-- The check is right. -/
  | intact (dest : Nat) (t : RawTelegram)
  deriving DecidableEq, Repr

/-- Reading a frame's levels, from the start bit on (R67, R199). -/
def readFrame (levels : List Bool) : FrameReading :=
  let (bits, violated) := unstuff levels
  match bits with
  | false :: rest =>
    if rest.length < 26 then .broken
    else
      let len := ofBits ((rest.drop 18).take 8)
      let dest := ofBits ((rest.drop 7).take 5)
      if 64 < len then .tooLong dest
      else if violated || rest.length != 26 + 8 * len + 16 then .broken
      else
        let covered := rest.take (26 + 8 * len)
        if ofBits (rest.drop (26 + 8 * len)) = (checkOf covered).toNat then
          .intact dest ⟨ofBits (rest.take 2), ofBits ((rest.drop 2).take 5), ofBits ((rest.drop 12).take 6),
            bytesOfBits len (rest.drop 26)⟩
        else .badCheck dest
  | _ => .broken

end Sys2Proof.Machine
end

