-- ==== Sys2Proof/Machine/Ops.lean ====
section
/-! DEFINITION. The named operations over the state: element numbers and views (R2, R4 to R6), writing a
record, the report queue (R177), faults and the alert (R182, R184), the send queue (R73), tags and
pending requests (R77, R78), and the passing of time (R25). Every other file writes the state through
these. -/

namespace Sys2Proof.Machine

/-! ## Index lists -/

/-- The section indices in order. -/
def allSections : List (Fin 16) := [0, 1, 2, 3, 4, 5, 6, 7, 8, 9, 10, 11, 12, 13, 14, 15]

/-- The point, and the signal, indices in order. -/
def allEight : List (Fin 8) := [0, 1, 2, 3, 4, 5, 6, 7]

/-- The boundary indices in order. -/
def allBoundaries : List (Fin 4) := [0, 1, 2, 3]

/-- The local elements in ascending element number. -/
def allElems : List Elem :=
  allSections.map .track ++ allEight.map .points ++ allEight.map .signal ++ allBoundaries.map .boundary

/-- The elements of a list in ascending order of a key, equal keys in list order. -/
def insertBy {α : Type} (key : α → Nat) (x : α) : List α → List α
  | [] => [x]
  | y :: ys => if key x < key y then x :: y :: ys else y :: insertBy key x ys

/-- A list sorted by a key. -/
def sortBy {α : Type} (key : α → Nat) : List α → List α
  | [] => []
  | x :: xs => insertBy key x (sortBy key xs)

/-- A list without repeats, the first occurrences kept. -/
def distinct {α : Type} [DecidableEq α] (xs : List α) : List α :=
  xs.foldl (fun acc x => if x ∈ acc then acc else acc ++ [x]) []

/-! ## Views of the records -/

/-- The other position. -/
def otherPosition : Position → Position
  | .normal => .reverse
  | .reverse => .normal

/-- A position as a required state. -/
def positionState : Position → Required
  | .normal => .normal
  | .reverse => .reverse

/-- The position that a required state asks for. -/
def requiredPosition : Required → Option Position
  | .normal => some .normal
  | .reverse => some .reverse
  | _ => none

/-- Supervision (R4). -/
inductive Supervision where
  | proven
  | unproven
  | failed
  deriving DecidableEq, Repr

/-- A section's occupancy field: OCCUPIED unless its filter is CLEAR (R19, R21 to R23). -/
def SectionRec.occupied (r : SectionRec) : Bool := r.filter != .clear

/-- A section's supervision: PROVEN once the filter has decided (R4, R23). -/
def SectionRec.supervision (r : SectionRec) : Supervision :=
  if r.filter = .undecided then .unproven else .proven

/-- The detection states of R35. -/
inductive Detection where
  | at (x : Position)
  | none
  | conflict
  deriving DecidableEq, Repr

/-- The detection state of a contact pair (R35). -/
def detectionOf (contactN contactR : Bool) : Detection :=
  match contactN, contactR with
  | true, false => .at .normal
  | false, true => .at .reverse
  | false, false => .none
  | true, true => .conflict

/-- The detected position of a detection state (R35). -/
def Detection.position : Detection → Option Position
  | .at x => some x
  | .none => Option.none
  | .conflict => Option.none

/-- The point's detection state (R35). -/
def PointRec.detection (r : PointRec) : Detection := detectionOf r.contactN r.contactR

/-- The point's detected position (R6). -/
def PointRec.detected (r : PointRec) : Option Position := r.detection.position

/-- A point's supervision follows its drive state (R37). -/
def PointRec.supervision (r : PointRec) : Supervision :=
  match r.drive with
  | .failed => .failed
  | .rest => if r.commanded.isSome && r.commanded == r.detected then .proven else .unproven
  | _ => .unproven

/-- The energised drive output, if any (R37). -/
def PointRec.output (r : PointRec) : Option Position :=
  match r.drive with
  | .throwing target => some target
  | .swingBack _ => r.returnPosition
  | _ => none

/-- A point without route lock and claim (R46). -/
def PointRec.free (r : PointRec) : Bool := r.lock.isNone && r.claims.isEmpty

/-- A lamp's proven field (R53). -/
def LampState.proven : LampState → Bool
  | .lit => true
  | .interrupted => true
  | _ => false

/-- The lamp of the commanded aspect (R53). -/
def SignalRec.litLamp (r : SignalRec) : LampState :=
  match r.aspect with
  | .stop => r.stopLamp
  | .proceed => r.proceedLamp

/-- A signal's supervision (R53). -/
def SignalRec.supervision (r : SignalRec) : Supervision :=
  if r.litLamp.proven then .proven else .unproven

/-- A boundary's supervision is always PROVEN (R4, R19). -/
def BoundaryRec.supervision (_ : BoundaryRec) : Supervision := .proven

/-- Whether a lamp's output is energised: it is off only for a DARK lamp (R53, R54). -/
def LampState.output (l : LampState) : Bool := l != .dark

/-! ## The machine at large -/

/-- This station's address; 0 before R188 gives one. -/
def State.own (s : State) : Nat := s.address.getD 0

/-- The route reference of a local route. -/
def State.ownRef (s : State) (n : Nat) : RouteRef := ⟨s.own, n⟩

/-- Whether an element is equipped (R2). -/
def State.equipped (s : State) : Elem → Bool
  | .track i => s.cfg.sections[i].isSome
  | .points p => s.cfg.points[p].isSome
  | .signal g => s.cfg.signals[g].isSome
  | .boundary b => s.cfg.boundaries[b].isSome

/-- Image accepted and not in reset: the field is sampled (R20, R35, R55, R195). -/
def State.sampling (s : State) : Bool :=
  !s.resetHeld && (s.service == .joining || s.service == .outOfService || s.service == .inService)

/-- The line is in use (R66): not in reset or LOADING, and in CONFIG_FAULT only with valid straps. -/
def State.lineUsed (s : State) : Bool :=
  !s.resetHeld && s.service != .loading && (s.service != .configFault || s.address.isSome)

/-- The IN SERVICE output (R198). -/
def State.inServiceOutput (s : State) : Bool := !s.resetHeld && s.service == .inService

/-- The FAULT output (R183). -/
def State.faultOutput (s : State) : Bool :=
  !s.resetHeld && (s.firstFault.isSome || s.service == .configFault)

/-- The configuration of a section; unequipped sections are never sampled. -/
def State.sectionCfg (s : State) (i : Fin 16) : SectionCfg := s.cfg.sections[i].getD ⟨1, 0, []⟩

/-- The configuration of a point. -/
def State.pointCfg (s : State) (p : Fin 8) : PointCfg := s.cfg.points[p].getD ⟨0, 0, 0, 0⟩

/-- The configuration of a signal. -/
def State.signalCfg (s : State) (g : Fin 8) : SignalCfg := s.cfg.signals[g].getD ⟨0, []⟩

/-- A route record by number. -/
def State.routeRecord (s : State) (n : Nat) : Option RouteRecord := s.cfg.routes.find? (·.number == n)

/-- The block of an element: the record's block field mirrors the blocking table (R12). -/
def State.blockOf (s : State) (e : Elem) : Option BlockKind :=
  (s.blocking.find? (·.1 == e)).map (·.2)

/-- A section counts as OCCUPIED in judgement (R5). -/
def State.countsOccupied (s : State) (i : Fin 16) : Bool :=
  let r := s.sections[i]
  r.occupied || r.supervision != .proven || r.sequenceFault || s.blockOf (.track i) == some .noMove

/-- The occupancy of a point's section (R6). -/
def State.pointOccupied (s : State) (p : Fin 8) : Bool := s.sections[(s.pointCfg p).track].occupied

/-- The supervision of an element (R4). -/
def State.supervision (s : State) : Elem → Supervision
  | .track i => s.sections[i].supervision
  | .points p => s.points[p].supervision
  | .signal g => s.signals[g].supervision
  | .boundary b => s.boundaries[b].supervision

/-- The route lock of an element. -/
def State.lockOf (s : State) : Elem → Option RouteLock
  | .track i => s.sections[i].lock
  | .points p => s.points[p].lock
  | .signal g => s.signals[g].lock
  | .boundary _ => none

/-- The flank claim list of an element; only points and signals keep one (R10). -/
def State.claimsOf (s : State) : Elem → List ClaimEntry
  | .points p => s.points[p].claims
  | .signal g => s.signals[g].claims
  | _ => []

/-- The peer table entry of an address. -/
def State.peer (s : State) (a : Nat) : Option PeerEntry := s.peers.find? (·.address == a)

/-- A station regarded as PRESENT. -/
def State.isPresent (s : State) (a : Nat) : Bool :=
  match s.peer a with
  | some p => p.state == .present
  | none => false

/-- The presence period P in units of 10 ms; 500 ms in CONFIG_FAULT (R66, R82). -/
def State.presencePeriod (s : State) : Nat :=
  if s.service = .configFault then 50 else s.cfg.presencePeriod

/-- The route instance of a local route number, with its entry signal. -/
def State.instanceOf (s : State) (route : Nat) : Option (Fin 8 × RouteInst) :=
  allEight.findSome? fun g =>
    match s.instances[g] with
    | some i => if i.route = route then some (g, i) else none
    | none => none

/-- The Reservation List entry of a route reference. -/
def State.reservation (s : State) (ref : RouteRef) : Option Reservation :=
  s.reservations.find? (·.ref == ref)

/-- The Claim Register entry of a route reference. -/
def State.registered (s : State) (ref : RouteRef) : Option RegisterEntry :=
  s.register.find? (·.ref == ref)

/-! ## Writing records -/

/-- Writes a section record. -/
def State.setSection (s : State) (i : Fin 16) (r : SectionRec) : State :=
  { s with sections := s.sections.set i r }

/-- Writes a point record. -/
def State.setPoint (s : State) (p : Fin 8) (r : PointRec) : State :=
  { s with points := s.points.set p r }

/-- Writes a signal record. -/
def State.setSignal (s : State) (g : Fin 8) (r : SignalRec) : State :=
  { s with signals := s.signals.set g r }

/-- Writes a boundary record. -/
def State.setBoundary (s : State) (b : Fin 4) (r : BoundaryRec) : State :=
  { s with boundaries := s.boundaries.set b r }

/-- Writes, or ends with `none`, the route instance of an entry signal. -/
def State.setInstance (s : State) (g : Fin 8) (i : Option RouteInst) : State :=
  { s with instances := s.instances.set g i }

/-- Changes the route instance of an entry signal, if there is one. -/
def State.changeInstance (s : State) (g : Fin 8) (f : RouteInst → RouteInst) : State :=
  s.setInstance g (s.instances[g].map f)

/-- Changes the peer table entry of an address. -/
def State.changePeer (s : State) (a : Nat) (f : PeerEntry → PeerEntry) : State :=
  { s with peers := s.peers.map fun p => if p.address = a then f p else p }

/-- Changes the Reservation List entry of a route reference. -/
def State.changeReservation (s : State) (ref : RouteRef) (f : Reservation → Reservation) : State :=
  { s with reservations := s.reservations.map fun r => if r.ref = ref then f r else r }

/-- Changes the Claim Register entry of a route reference. -/
def State.changeRegister (s : State) (ref : RouteRef) (f : RegisterEntry → RegisterEntry) : State :=
  { s with register := s.register.map fun r => if r.ref = ref then f r else r }

/-! ## Free values (log entry 4) -/

/-- The free byte that the next unstated field takes. -/
def State.freeByte (s : State) : Nat := (Config.freeByte s.fresh).toNat

/-- Advances the counter of free values past the `n` used. -/
def State.draw (s : State) (n : Nat) : State := { s with fresh := s.fresh + n }

/-! ## The report queue (R177) -/

/-- The subject is one that can be reported: an unequipped element has none (R177). -/
def State.reportable (s : State) : Subject → Bool
  | .elem e => s.equipped e
  | .route g => s.equipped (.signal g)
  | .controller => true

/-- Places a subject in the report queue; one already waiting keeps its place (R177). -/
def State.place (s : State) (x : Subject) : State :=
  if s.reportable x && !s.reports.contains x then { s with reports := s.reports ++ [x] } else s

/-! ## The send queue (R73) -/

/-- The free entries a class requires (R73). -/
def requiredFree : Nat → Nat
  | 0 => 1
  | 1 => 2
  | 2 => 4
  | _ => 8

/-- Whether a telegram of a class finds room (R73). -/
def State.room (s : State) (cls : Nat) : Bool := decide (s.sendQueue.length + requiredFree cls ≤ 32)

/-- Appends a telegram to the send queue. -/
def State.enqueue (s : State) (t : Telegram) : State :=
  { s with sendQueue := s.sendQueue ++ [⟨t, 0, false, [], false⟩] }

/-! ## Faults and the alert (R182, R184) -/

/-- The coded first-fault record as the FAULT_FETCH answer and the controller report carry it: kind,
subject, station, capture (section 12.3); the unstated bytes of an empty record are free values. -/
def State.firstFaultBytes (s : State) : List Byte :=
  match s.firstFault with
  | some f => [byte (faultCode f.kind), byte (subjectCode f.subject), byte (f.station.getD 0)]
      ++ twoBytes f.stamp.toNat
  | none => [0, Config.freeByte s.fresh, 0, Config.freeByte (s.fresh + 1), Config.freeByte (s.fresh + 2)]

/-- Raises the count of a fault and fills an empty first-fault record (R182). -/
def State.countFault (s : State) (k : FaultKind) (subject : Subject) (station : Option Nat) : State :=
  { s with
    counts := s.counts.set (faultIndex k) (min 255 (s.counts[faultIndex k] + 1))
    firstFault := match s.firstFault with
      | some f => some f
      | none => some ⟨k, subject, station, s.captureTimer⟩ }

/-- Sends the alert: an ALERT with the first-fault record, and the mark DISARMED; one that finds no room
is dropped and counts UNDELIVERED (R184). The controller subject is placed (R177). -/
def State.sendAlert (s : State) : State :=
  let t : Telegram := ⟨0, .alert (s.firstFaultBytes ++ twoBytes s.captureTimer.toNat)⟩
  let s := { s with alertArmed := false }.place .controller
  if s.room 2 then s.enqueue t else s.countFault .undelivered .controller (some 0)

/-- Records a fault (R182). -/
def State.recordFault (s : State) (k : FaultKind) (subject : Subject) (station : Option Nat := none) :
    State :=
  let s := s.countFault k subject station
  if s.alertArmed then s.sendAlert else s

/-- Records several faults of one subject in order. -/
def State.recordFaults (s : State) (ks : List FaultKind) (subject : Subject) : State :=
  ks.foldl (fun s k => s.recordFault k subject) s

/-! ## Placing telegrams without an answer (R73) -/

/-- Places a telegram of class 1, 2 or 3 that has no pending entry: one of class 1 to a peer that is not
PRESENT is not placed; one that finds no room is dropped with UNDELIVERED (R73). -/
def State.post (s : State) (dest : Nat) (body : Body) : State :=
  let cls := (bodyKind body).cls
  if cls = 1 && !s.isPresent dest then s
  else if s.room cls then s.enqueue ⟨dest, body⟩
  else s.recordFault .undelivered .controller (some dest)

/-- Removes send queue entries: the one whose attempt is on the line only once that attempt ends (R80,
R87). -/
def State.unsend (s : State) (which : SendEntry → Bool) : State :=
  { s with sendQueue := s.sendQueue.filterMap fun e =>
      if which e then
        if s.sending.isSome && decide (0 < e.attempts) then some { e with doomed := true } else none
      else some e }

/-! ## Tags and pending requests (R77, R78) -/

/-- The next tag from a counter value upward that no pending entry holds. -/
def nextTag (held : List Byte) : Nat → Byte → Byte
  | 0, t => t + 1
  | n + 1, t => if held.contains (t + 1) then nextTag held n (t + 1) else t + 1

/-- The tag that a new request takes (R77). -/
def State.newTag (s : State) : Byte := nextTag (s.requests.map (·.tag)) 256 s.tagCounter

/-- The tag of a telegram body, if it carries one. -/
def bodyTag : Body → Option Byte
  | .reserve t .. | .flankClaim t .. | .directionRequest t _ | .offer t .. => some t
  | _ => none

/-- The tag of the pending entry that a send queue entry has: none where the telegram is no tagged request, or where
its entry has gone (R78, R170). -/
def SendEntry.pendingTag (e : SendEntry) : Option Byte := if e.settled then none else bodyTag e.telegram.body

/-- A send queue entry is the request of a pending entry (R78). -/
def SendEntry.asks (e : SendEntry) (q : Request) : Bool :=
  e.telegram.dest == q.dest && e.pendingTag == some q.tag

/-- Removes a pending entry, and a request still QUEUED from the send queue with it (R80, R112, R161). -/
def State.dropRequest (s : State) (tag : Byte) : State :=
  match s.requests.find? (·.tag == tag) with
  | none => s
  | some q =>
    let s := { s with requests := s.requests.filter (·.tag != tag) }
    if q.state = .queued then
      s.unsend (·.asks q)
    else s

/-- Why a tagged request cannot be placed. -/
inductive Unplaced where
  | absent
  | tableFull
  | noRoom
  deriving DecidableEq, Repr

/-- Whether a tagged request to a station can be placed: the peer of a class 1 request is PRESENT, the
pending request table has an entry free, and the send queue has room (R73, R78). -/
def State.placeable (s : State) (dest cls : Nat) : Option Unplaced :=
  if cls = 1 && !s.isPresent dest then some .absent
  else if 16 ≤ s.requests.length then some .tableFull
  else if !s.room cls then some .noRoom
  else none

/-- Places a tagged request with its pending entry, both or neither; the tag is taken from the counter in
either case (R77, R78, R168; log entry 12). -/
def State.request (s : State) (dest : Nat) (subject : RequestSubject) (body : Byte → Body) :
    State × Byte × Option Unplaced :=
  let tag := s.newTag
  let b := body tag
  let why := s.placeable dest (bodyKind b).cls
  let s := { s with tagCounter := tag }
  match why with
  | some u => (s, tag, some u)
  | none => ({ s.enqueue ⟨dest, b⟩ with requests := s.requests ++ [⟨tag, dest, subject, .queued⟩] }, tag, none)

/-! ## Answers to desks (R200) -/

/-- Places a COMMAND ANSWER. An index that no rule states is a free value (log entry 4). -/
def State.answerDesk (s : State) (dest : Nat) (tag : Byte) (code : Nat) (reason : Option Reason)
    (index : Option Nat := none) : State :=
  (s.post dest (.commandAnswer tag code reason (index.getD s.freeByte) [])).draw 1

/-! ## Presence (R82) -/

/-- This station hears a peer: its silence timer runs and it has no muting mark (R83). -/
def PeerEntry.heard (p : PeerEntry) : Bool := p.silence.isSome && p.muting == .absent

/-- The view: bit a − 1 for each station heard, never its own (R82, R200). -/
def State.view (s : State) : BitVec 24 :=
  s.peers.foldl (fun v p =>
    if p.heard && p.address != s.own then v ||| (BitVec.ofNat 24 (2 ^ (p.address - 1))) else v) 0

/-- The body of a PRESENCE as placed now (R82). -/
def State.presenceBody (s : State) : Body := .presence s.service s.blocking.length s.view

/-- Builds and places a PRESENCE (R82). The presence timer is the command's own to write. -/
def State.announce (s : State) : State := s.post 0 s.presenceBody

/-! ## STATE NOTICEs (R27, R30, R63) -/

/-- The capture age of a local section (R27). -/
def State.captureAge (s : State) (i : Fin 16) : Nat :=
  match s.sections[i].entryCapture with
  | some c => if c.stale then 65535 else (s.captureTimer - c.value).toNat
  | none => 65535

/-- The STATE NOTICE of a section (R30). -/
def State.sectionNotice (s : State) (i : Fin 16) (refresh : Bool) : Body :=
  let r := s.sections[i]
  .stateNotice i.val r.occupied (r.supervision == .proven) false refresh (s.captureAge i)

/-- The STATE NOTICE of a signal (R63). -/
def State.signalNotice (s : State) (g : Fin 8) (refresh : Bool) : Body :=
  let r := s.signals[g]
  .stateNotice (24 + g.val) (r.aspect == .proceed) r.stopLamp.proven r.proceedLamp.proven refresh 65535

/-- Posts one body to several stations, each placement tried on its own (R29). -/
def State.postAll (s : State) (dests : List Nat) (body : Body) : State :=
  dests.foldl (fun s d => s.post d body) s

/-! ## The passing of time (R25; log entry 1) -/

/-- A timer with 10 ms less to run. -/
def lessTime (t : Option Nat) : Option Nat := t.map (· - 1)

/-- A marked timer with 10 ms less to run. -/
def Timer.less : Timer → Timer
  | .running n => .running (n - 1)
  | t => t

/-- An orphan timer with 10 ms less to run. -/
def EntryState.less : EntryState → EntryState
  | .orphaned t => .orphaned (lessTime t)
  | .active => .active

/-- A route instance 10 ms later. -/
def RouteInst.less (i : RouteInst) : RouteInst :=
  { i with
    settingTimer := lessTime i.settingTimer
    approachTimer := lessTime i.approachTimer
    overlapTimer := i.overlapTimer.less
    emergencyTimer := i.emergencyTimer.less }

/-- A pending request 10 ms later. -/
def Request.less (q : Request) : Request :=
  match q.state with
  | .waiting n => { q with state := .waiting (n - 1) }
  | .queued => q

/-- Ten milliseconds without an event: the capture timer advances by one (R25) and every running timer has
one unit less to run. An expiry is an event of its own, a row of the table. In reset nothing runs
(R187). -/
def State.tick (s : State) : State :=
  if s.resetHeld then s
  else
    { s with
      captureTimer := s.captureTimer + 1
      startHoldTimer := lessTime s.startHoldTimer
      sections := s.sections.map fun r => { r with clearTimer := lessTime r.clearTimer }
      points := s.points.map fun r =>
        { r with
          throwTimer := lessTime r.throwTimer
          overCurrentTimer := lessTime r.overCurrentTimer
          reversalLock := r.reversalLock.map fun l => (l.1, l.2 - 1) }
      signals := s.signals.map fun r => { r with provingTimer := lessTime r.provingTimer }
      boundaries := s.boundaries.map fun r =>
        { r with outbound := r.outbound.map fun o => { o with confirmTimer := lessTime o.confirmTimer } }
      instances := s.instances.map (·.map RouteInst.less)
      reservations := s.reservations.map fun r => { r with state := r.state.less }
      register := s.register.map fun r => { r with state := r.state.less }
      requests := s.requests.map Request.less
      peers := s.peers.map fun p => { p with silence := lessTime p.silence }
      presenceTimer := lessTime s.presenceTimer }

/-! ## The work of one event -/

/-- The causes that release flank portions, each with FLANK RELEASE telegrams of its own: a claim that failed or whose
answer comes too late for a portion (R146, R152), and those of R152 and R153. -/
inductive ReleaseCause where
  | failed
  | takeover
  | sectional
  | overlap
  | whole
  | stopped
  deriving DecidableEq, Repr

/-- Flank claims to be returned to their owner: one FLANK RELEASE for each cause, owner and claim tag (R152). -/
structure FlankReturn where
  cause : ReleaseCause
  owner : Nat
  tag : Byte
  ref : RouteRef
  elems : List Nat
  deriving DecidableEq, Repr

/-- The work of an event: the state so far, the tasks that the step under way has given rise to, the
reservations and claims for which the event has already sent a PROVEN or LAPSE (R100, R149), the flank
claims to be returned at its end, behind the RELEASE telegrams (R152), the signals whose aspect it has
changed (R63), and the desk commands, by station, tag and code, that are answered ACCEPTED after its effects
(R197). -/
structure Work where
  st : State
  out : List Task
  said : List (RouteRef × Option Elem)
  returns : List FlankReturn
  turned : List (Fin 8)
  answers : List (Nat × Byte × Nat)
  deriving DecidableEq, Repr

/-- An event begins at a state. -/
def Work.begin (s : State) : Work := ⟨s, [], [], [], [], []⟩

/-- Changes the state of the work. -/
def Work.on (w : Work) (f : State → State) : Work := { w with st := f w.st }

/-- Keeps flank claims to be returned at the end of the event (R152). -/
def Work.giveBack (w : Work) (x : FlankReturn) : Work := { w with returns := w.returns ++ [x] }

/-- Notes that the event changes the aspect of a signal (R63). -/
def Work.turn (w : Work) (g : Fin 8) : Work := { w with turned := w.turned ++ [g] }

/-- Keeps a desk command to be answered ACCEPTED after the effects of the event (R197). -/
def Work.answerLast (w : Work) (dest : Nat) (tag : Byte) (code : Nat) : Work :=
  { w with answers := w.answers ++ [(dest, tag, code)] }

/-- Gives rise to tasks. -/
def Work.emit (w : Work) (ts : List Task) : Work := { w with out := w.out ++ ts }

/-- Places a class 0 telegram; where it finds no room, UNDELIVERED is recorded and a break forced (R73,
R86). -/
def Work.postProof (w : Work) (dest : Nat) (body : Body) : Work :=
  if w.st.room 0 then w.on (·.enqueue ⟨dest, body⟩)
  else (w.on (·.recordFault .undelivered .controller (some dest))).emit [.forceBreak dest]

end Sys2Proof.Machine
end

