-- ==== Sys2Proof/Machine/Points.lean ====
section
/-! DEFINITION. The drive machine of a point (chapter 3): each event at a point as a function of its
record, its configuration and the occupancy of its point section, and the telling of results and proof
changes (R48, R49). -/

namespace Sys2Proof.Machine

/-- What an event at a point makes of it: the record, the results told to its requesters in order (R48),
and the faults recorded in order. -/
structure PointStep where
  point : PointRec
  told : List (Requester × MoveResult)
  faults : List FaultKind
  deriving DecidableEq, Repr

/-- Only the record changes. -/
def PointStep.quiet (r : PointRec) : PointStep := ⟨r, [], []⟩

/-- An energised output goes off: the reversal lock stands in its direction (R38). -/
def PointRec.outputOff (c : PointCfg) (r : PointRec) : PointRec :=
  match r.output with
  | some x => { r with reversalLock := some (x, c.deadInterval) }
  | none => r

/-- The reversal lock holds a direction (R38). -/
def PointRec.lockedToward (r : PointRec) (x : Position) : Bool :=
  match r.reversalLock with
  | some (d, _) => d == x
  | none => false

/-- Every entry of the requester list is told a result, and the list empties (R48). -/
def tellAll (rs : List Requester) (m : MoveResult) : List (Requester × MoveResult) := rs.map (·, m)

/-- The move completes at its target (R42). -/
def PointRec.complete (c : PointCfg) (r : PointRec) : PointStep :=
  let off := r.outputOff c
  { point := { off with
      drive := .rest, returnPosition := none, throwTimer := none, overCurrentTimer := none
      requesters := [], lastResult := .achieved }
    told := tellAll r.requesters .achieved
    faults := [] }

/-- The point enters FAILED (R45). -/
def PointRec.fail (c : PointCfg) (r : PointRec) : PointStep :=
  let off := r.outputOff c
  { point := { off with
      drive := .failed, returnPosition := none, throwTimer := none, overCurrentTimer := none
      requesters := [], lastResult := .failed }
    told := tellAll r.requesters .failed
    faults := [.pointNoDetection] }

/-- The swing-back succeeds: a free point takes the return position as commanded, another keeps its target
with return pending (R45). -/
def PointRec.swungBack (c : PointCfg) (r : PointRec) : PointStep :=
  let off := r.outputOff c
  let rest := { off with
    drive := .rest, throwTimer := none, overCurrentTimer := none, requesters := [], lastResult := .notAchieved }
  { point := if r.free then { rest with commanded := r.returnPosition, returnPosition := none, returnPending := false }
      else { rest with returnPending := true }
    told := tellAll r.requesters .notAchieved
    faults := [] }

/-- The timers of a drive that begins: the throw timer afresh, and the over-current timer if the current
sense is already active (R41, R43). -/
def PointRec.startTimers (c : PointCfg) (r : PointRec) : PointRec :=
  { r with
    throwTimer := some c.throwTime
    overCurrentTimer := if r.senseActive then some c.overCurrentTime else none }

/-- A point in DEAD is tested (R41). -/
def PointRec.deadTest (c : PointCfg) (occupied : Bool) (r : PointRec) : PointStep :=
  match r.drive with
  | .dead target next =>
    if r.detection = .at target then r.complete c
    else
      match next, r.returnPosition with
      | .throw, _ =>
        if !r.lockedToward (otherPosition target) && !occupied then
          .quiet ({ r with drive := .throwing target }.startTimers c)
        else .quiet r
      | .swingBack, some back =>
        if r.detection = .at back then r.swungBack c
        else if !r.lockedToward (otherPosition back) && !occupied then
          .quiet ({ r with drive := .swingBack target }.startTimers c)
        else .quiet r
      | .swingBack, none => .quiet r
  | _ => .quiet r

/-- A new move begins toward `x`, with the return position given (R40). `before` is what the entries of
the old list are told. -/
def PointRec.beginMove (c : PointCfg) (occupied : Bool) (x : Position) (who : Requester)
    (back : Option Position) (before : MoveResult) (r : PointRec) : PointStep :=
  let told := tellAll r.requesters before
  let off := r.outputOff c
  let r' : PointRec := { off with
    commanded := some x, returnPosition := back, returnPending := false, throwTimer := none
    overCurrentTimer := none, requesters := [who]
    lastResult := if before = .none then r.lastResult else before
    drive := .dead x .throw }
  if r'.detection = .at x then
    let done := r'.complete c
    { done with told := told ++ done.told }
  else if r'.lockedToward (otherPosition x) || occupied then ⟨r', told, []⟩
  else ⟨{ r' with drive := .throwing x }.startTimers c, told, []⟩

/-- A requester joins the list, which holds no entry twice (R39). -/
def PointRec.join (who : Requester) (r : PointRec) : PointRec :=
  if r.requesters.contains who then r else { r with requesters := r.requesters ++ [who] }

/-- A move request toward `x` (R40). -/
def PointRec.moveRequest (c : PointCfg) (occupied : Bool) (x : Position) (who : Requester) (r : PointRec) :
    PointStep :=
  match r.drive with
  | .rest =>
    if r.detection = .at x then
      ⟨{ r with commanded := some x, returnPending := false, returnPosition := none, lastResult := .achieved },
        [(who, .achieved)], []⟩
    else r.beginMove c occupied x who r.detected .none
  | .failed => r.beginMove c occupied x who r.detected .none
  | .dead target .throw =>
    if target = x then .quiet (r.join who)
    else r.beginMove c occupied x who r.returnPosition .superseded
  | .throwing target =>
    if target = x then .quiet (r.join who)
    else r.beginMove c occupied x who r.returnPosition .superseded
  | .dead _ .swingBack => r.beginMove c occupied x who r.returnPosition .notAchieved
  | .swingBack _ => r.beginMove c occupied x who r.returnPosition .notAchieved

/-- A lock or claim written in the commanded position joins a move in flight; at REST and in FAILED no one
joins (R39). -/
def PointRec.joinInPosition (who : Requester) (r : PointRec) : PointRec :=
  match r.drive with
  | .rest => r
  | .failed => r
  | _ => r.join who

/-- A throw or a swing-back fails at its throw timer or over-current expiry (R43 to R45). -/
def PointRec.driveFails (c : PointCfg) (r : PointRec) : PointStep :=
  match r.drive with
  | .throwing target =>
    if r.returnPosition = none ∨ r.returnPosition = some target then r.fail c
    else
      let off := r.outputOff c
      .quiet { off with drive := .dead target .swingBack, throwTimer := none, overCurrentTimer := none }
  | .swingBack _ => r.fail c
  | _ => .quiet r

/-- Expiry of the throw timer: nothing where it does not run (R44, R45). -/
def PointRec.throwExpiry (c : PointCfg) (r : PointRec) : PointStep :=
  if r.throwTimer.isSome then r.driveFails c else .quiet r

/-- Expiry of the over-current timer: POINT_OVERCURRENT, then as the throw timer's expiry (R43). -/
def PointRec.overCurrentExpiry (c : PointCfg) (r : PointRec) : PointStep :=
  if r.overCurrentTimer.isSome then
    let failed := r.driveFails c
    { failed with faults := .pointOvercurrent :: failed.faults }
  else .quiet r

/-- The current sense changes: it starts or stops the over-current timer in THROWING and SWING_BACK, and
is only noted in the other drive states (R43). -/
def PointRec.senseChange (c : PointCfg) (active : Bool) (r : PointRec) : PointRec :=
  let noted := { r with senseActive := active }
  match r.drive with
  | .throwing _ | .swingBack _ =>
    if active = r.senseActive then noted
    else { noted with overCurrentTimer := if active then some c.overCurrentTime else none }
  | _ => noted

/-- Expiry of the reversal lock: it becomes clear, and a point in DEAD is tested (R38, R41). -/
def PointRec.reversalExpiry (c : PointCfg) (occupied : Bool) (r : PointRec) : PointStep :=
  if r.reversalLock.isSome then { r with reversalLock := none }.deadTest c occupied else .quiet r

/-- The effect of new contacts on a point at REST (R47, R46). -/
def PointRec.detectedAtRest (before : Option Position) (r : PointRec) : PointStep :=
  if r.commanded.isSome && before == r.commanded && r.detected != r.commanded then
    ⟨r, [], [.pointDetectionLost]⟩
  else if r.commanded.isSome && r.detected == r.commanded then
    .quiet { r with returnPending := false, returnPosition := none }
  else .quiet r

/-- A change of detection state: the contacts are written, a change into CONFLICT is a fault, and the
drive state decides the rest (R35, R41, R42, R45, R47). At REST a change from the commanded position into
CONFLICT gives two faults; POINT_DETECTION_CONFLICT before POINT_DETECTION_LOST is the model's choice (log entry
30). -/
def PointRec.detect (c : PointCfg) (occupied contactN contactR : Bool) (r : PointRec) : PointStep :=
  let r' := { r with contactN := contactN, contactR := contactR }
  if r'.detection = r.detection then .quiet r'
  else
    let conflict := if r'.detection = .conflict then [FaultKind.pointDetectionConflict] else []
    let step : PointStep :=
      match r'.drive with
      | .rest => r'.detectedAtRest r.detected
      | .dead _ _ => r'.deadTest c occupied
      | .throwing target => if r'.detection = .at target then r'.complete c else .quiet r'
      | .swingBack _ =>
        match r'.returnPosition with
        | some back => if r'.detection = .at back then r'.swungBack c else .quiet r'
        | none => .quiet r'
      | .failed => .quiet r'
    { step with faults := conflict ++ step.faults }

/-- The point has become free: a pending return ends, and a point at REST detected in its return position
takes it as commanded (R46). -/
def PointRec.becomeFree (r : PointRec) : PointRec :=
  if r.returnPending then
    if r.drive = .rest ∧ r.returnPosition.isSome ∧ r.detected = r.returnPosition then
      { r with commanded := r.returnPosition, returnPending := false, returnPosition := none }
    else { r with returnPending := false, returnPosition := none }
  else r

/-- A requester that has gone leaves the list (R48). -/
def PointRec.leave (who : Requester) (r : PointRec) : PointRec :=
  { r with requesters := r.requesters.filter (· != who) }

/-- The route lock is removed: its holder leaves the list, and the point may become free (R9, R46, R48). -/
def PointRec.dropLock (r : PointRec) : PointRec :=
  match r.lock with
  | some l =>
    let r' := { r with lock := none }.leave (.holder l.ref)
    if r'.free then r'.becomeFree else r'
  | none => r

/-- One claim of a claimant is freed from a claim list (R10). -/
def freeClaimIn (ref : RouteRef) : List ClaimEntry → List ClaimEntry
  | [] => []
  | e :: es =>
    if e.claimant = ref then (if e.uses ≤ 1 then es else { e with uses := e.uses - 1 } :: es)
    else e :: freeClaimIn ref es

/-- One claim of a claimant is entered in a claim list: its use count rises, or it joins at the end (R10). -/
def addClaimIn (ref : RouteRef) (state : Required) : List ClaimEntry → List ClaimEntry
  | [] => [⟨ref, state, 1⟩]
  | e :: es =>
    if e.claimant = ref then { e with uses := e.uses + 1 } :: es else e :: addClaimIn ref state es

/-- Whether a claimant is on a claim list. -/
def claimed (ref : RouteRef) (cs : List ClaimEntry) : Bool := cs.any (·.claimant == ref)

/-- One claim on the point is freed: a claimant whose entry departs leaves the requester list, and the
point may become free (R10, R46, R48). -/
def PointRec.dropClaim (ref : RouteRef) (r : PointRec) : PointRec :=
  if claimed ref r.claims then
    let r' := { r with claims := freeClaimIn ref r.claims }
    if claimed ref r'.claims then r'
    else
      let r'' := r'.leave (.claimant ref)
      if r''.free then r''.becomeFree else r''
  else r

/-! ## Telling (R48, R49) -/

/-- What the holders are told of a change of supervision (R49). -/
def proofChange (old new : PointRec) : Option ProofTold :=
  if new.supervision = old.supervision then none
  else if new.supervision = .proven then some .regained
  else if new.supervision = .failed then some (.lost .failed)
  else if old.supervision = .proven ∧ new.drive = .rest then some (.lost .detection)
  else none

/-- The holders of a point are told: its route lock holder, then each claimant in list order (R49). -/
def proofTasks (p : Fin 8) (r : PointRec) (told : ProofTold) : List Task :=
  (match r.lock with | some l => [Task.proofToHolder p l.ref told] | none => [])
    ++ r.claims.map fun c => .proofToClaimant p c.claimant told

/-- Takes an event at a point: the record is written, the faults are recorded, then the results are told
in list order and the supervision change after them (R48, R49). -/
def Work.takePoint (w : Work) (p : Fin 8) (step : PointStep) : Work :=
  let old := w.st.points[p]
  let st := (w.st.setPoint p step.point).recordFaults step.faults (.elem (.points p))
  { w with
    st := st
    out := w.out ++ step.told.map (fun t => .result p t.1 t.2)
      ++ (match proofChange old step.point with | some told => proofTasks p step.point told | none => []) }

/-- A move request at a point (R40). -/
def Work.movePoint (w : Work) (p : Fin 8) (x : Position) (who : Requester) : Work :=
  w.takePoint p (w.st.points[p].moveRequest (w.st.pointCfg p) (w.st.pointOccupied p) x who)

/-- A point is movable (R6). -/
def State.movable (s : State) (p : Fin 8) : Bool :=
  let r := s.points[p]
  r.lock.isNone && r.claims.isEmpty && r.supervision != .failed
    && s.blockOf (.points p) != some .noMove && !s.countsOccupied (s.pointCfg p).track

end Sys2Proof.Machine
end

