-- ==== Sys2Proof/Machine/Signals.lean ====
section
/-! DEFINITION. Aspects, lamps and exit proof of a signal (chapter 4): changing the aspect (R54), proving
the lit lamp (R55, R60, R61), clearing (R57) and replacement (R59). -/

namespace Sys2Proof.Machine

/-- The last sampled level at the proving input of a lamp (R55). -/
def SignalRec.input (r : SignalRec) : Aspect → Bool
  | .stop => r.stopInput
  | .proceed => r.proceedInput

/-- Writes the state of the lit lamp (R53). -/
def SignalRec.withLitLamp (r : SignalRec) (l : LampState) : SignalRec :=
  match r.aspect with
  | .stop => { r with stopLamp := l }
  | .proceed => { r with proceedLamp := l }

/-- The exit users of a signal are told of its exit proof: local instances in ascending entry signal, then
Reservation List entries in list order (R61). -/
def State.exitTasks (s : State) (g : Fin 8) (present : Bool) : List Task :=
  let users := allEight.filter fun u =>
    match s.instances[u] with
    | some i => (s.routeRecord i.route).any (·.exit == .localSignal g)
    | none => false
  users.map (.exitToRoute g · present)
    ++ (s.reservations.filter (·.exitSignal == some g)).map (.exitToReservation g ·.ref present)

/-- The lit lamp becomes LIT and its timer stops. From AWAITING or OUT an absent exit proof becomes
present, and a PROCEED lamp proven from AWAITING ends the step into OPEN (R55, R58, R61). That its clearing route
is told before the exit users is the model's choice (log entry 6). -/
def Work.lampLit (w : Work) (g : Fin 8) : Work :=
  let r := w.st.signals[g]
  let lit := { r.withLitLamp .lit with provingTimer := none }
  if r.litLamp = .interrupted then w.on (·.setSignal g lit)
  else
    let w' := w.on (·.setSignal g { lit with exitProof := true })
    let w' := match r.aspect, r.litLamp, r.clearingRoute with
      | .proceed, .awaiting, some ref => w'.emit [.cleared g ref]
      | _, _, _ => w'
    if r.exitProof then w' else w'.emit (w'.st.exitTasks g true)

/-- The commanded aspect changes: the old lamp goes DARK, the new one AWAITING with the lamp proving timer
afresh, and LIT at once where its input is already active (R54, R55). -/
def Work.setAspect (w : Work) (g : Fin 8) (a : Aspect) : Work :=
  let r := w.st.signals[g]
  let r' : SignalRec := { r with
    aspect := a
    stopLamp := if a = .stop then .awaiting else .dark
    proceedLamp := if a = .proceed then .awaiting else .dark
    provingTimer := some (w.st.signalCfg g).provingTime }
  let w' := w.on (·.setSignal g r')
  if r'.input a then w'.lampLit g else w'

/-- A replacement returns a signal from PROCEED to STOP; at STOP it makes no change (R59). -/
def Work.replaceSignal (w : Work) (g : Fin 8) : Work :=
  let r := w.st.signals[g]
  if r.aspect = .proceed then
    ((w.turn g).on (·.setSignal g { r with clearingRoute := none })).setAspect g .stop
  else w

/-- The number of the first condition that a clear request fails; `none` where it is granted (R57). -/
def State.clearRefusal (s : State) (g : Fin 8) (ref : RouteRef) : Option Nat :=
  let r := s.signals[g]
  if s.service ≠ .inService then some 1
  else if !(r.lock.any fun l => l.role == .entry && l.ref == ref) then some 2
  else if r.aspect ≠ .stop then some 3
  else if !r.claims.isEmpty then some 4
  else none

/-- A granted clear request commands PROCEED for the route (R57). -/
def Work.clearSignal (w : Work) (g : Fin 8) (ref : RouteRef) : Work :=
  ((w.turn g).on fun s => s.setSignal g { s.signals[g] with clearingRoute := some ref }).setAspect g .proceed

/-- The STOP lamp fails: it is OUT, LAMP_STOP_FAIL is recorded, and a present exit proof is lost (R60,
R61). -/
def Work.stopLampFails (w : Work) (g : Fin 8) : Work :=
  let r := w.st.signals[g]
  let w' := w.on fun s =>
    (s.setSignal g { r with stopLamp := .out, provingTimer := none, exitProof := false }).recordFault
      .lampStopFail (.elem (.signal g))
  if r.exitProof then w'.emit (w'.st.exitTasks g false) else w'

/-- The PROCEED lamp fails: LAMP_PROCEED_FAIL is recorded, the signal is replaced and its clearing route
told (R59). Where the STOP lamp proves at once, that the exit users are told before the clearing route is the model's
choice (log entry 6). -/
def Work.proceedLampFails (w : Work) (g : Fin 8) : Work :=
  let r := w.st.signals[g]
  let w' := (w.on (·.recordFault .lampProceedFail (.elem (.signal g)))).replaceSignal g
  match r.clearingRoute with
  | some ref => w'.emit [.lampFailed ref]
  | none => w'

/-- Expiry of the lamp proving timer (R55): it acts where the timer runs and the lit lamp is AWAITING or
INTERRUPTED. -/
def Work.lampExpiry (w : Work) (g : Fin 8) : Work :=
  let r := w.st.signals[g]
  if r.provingTimer.isSome && (r.litLamp == .awaiting || r.litLamp == .interrupted) then
    match r.aspect with
    | .stop => w.stopLampFails g
    | .proceed => w.proceedLampFails g
  else w

/-- The aspect whose lamp a lamp is. -/
def lampAspect : Lamp → Aspect
  | .stop => .stop
  | .proceed => .proceed

/-- Notes the level at a lamp's proving input. -/
def SignalRec.withInput (r : SignalRec) (lamp : Lamp) (active : Bool) : SignalRec :=
  match lamp with
  | .stop => { r with stopInput := active }
  | .proceed => { r with proceedInput := active }

/-- A change of a lamp's proving input: it is noted, and acted on for the lit lamp alone (R55). -/
def Work.lampInput (w : Work) (g : Fin 8) (lamp : Lamp) (active : Bool) : Work :=
  let r := w.st.signals[g]
  let noted := r.withInput lamp active
  let w' := w.on (·.setSignal g noted)
  if r.input (lampAspect lamp) = active || r.aspect != lampAspect lamp then w'
  else
    match r.litLamp, active with
    | .awaiting, true => w'.lampLit g
    | .interrupted, true => w'.lampLit g
    | .out, true => w'.lampLit g
    | .lit, false =>
      w'.on (·.setSignal g
        { noted.withLitLamp .interrupted with provingTimer := some (w.st.signalCfg g).provingTime })
    | _, _ => w'

end Sys2Proof.Machine
end

