-- ==== Sys2Proof/Machine/Table.lean ====
section
/-! DEFINITION. The Element Table's judgements and writes (chapter 1): a requirement set for route locks
(R14 to R16), a flank claim (R10, R17), and the freeing of locks and claims (R9, R10) with what it leads
to (R28, R46, R62, R99, R165). -/

namespace Sys2Proof.Machine

/-! ## Judging route locks -/

/-- A requirement of a set as it is judged: its index, the local element number, role and state (R14). -/
structure LockReq where
  index : Nat
  elem : Nat
  role : Role
  state : Required
  deriving DecidableEq, Repr

/-- Role and required state fit the element's kind (check 2 of R14): a requirement on a signal is STOP and one on a
boundary OUT (opening file, Terms), whatever the role; the roles of a boundary are log entry 13's. -/
def fits (e : Elem) (role : Role) (state : Required) : Bool :=
  match e, role with
  | .track _, .path | .track _, .overlap => state == .clear
  | .points _, .path | .points _, .overlap => state == .normal || state == .reverse
  | .signal _, .entry | .signal _, .opposing | .signal _, .exit => state == .stop
  | .boundary _, .path | .boundary _, .exit => state == .out
  | _, _ => false

/-- The required state of a route lock on an element (section 1.3). -/
def lockState (e : Elem) (l : RouteLock) : Option Required :=
  match e with
  | .track _ => some .clear
  | .points _ => l.position.map positionState
  | .signal _ => if l.role = .opposing then some .stop else none
  | .boundary _ => none

/-- The local route ends at a signal (R16). -/
def State.routeEndsAt (s : State) (route : Nat) (g : Fin 8) : Bool :=
  (s.routeRecord route).any (·.exit == .localSignal g)

/-- Overlap takeover (R16): `entry` is the entry signal of the route being set, absent for a RESERVE. -/
def State.takesOver (s : State) (entry : Option (Fin 8)) (e : Elem) (q : LockReq) : Bool :=
  match entry, s.lockOf e with
  | some g, some l =>
    q.role == .path && l.role == .overlap && l.ref.station == s.own
      && (s.instanceOf l.ref.route).isSome && s.routeEndsAt l.ref.route g
      && lockState e l == some q.state
  | _, _ => false

/-- The checks for the kind (R15). -/
def State.kindCheck (s : State) (e : Elem) (q : LockReq) : Option Reason :=
  match e with
  | .track i => if s.countsOccupied i then some .occupied else none
  | .points p =>
    let r := s.points[p]
    if r.supervision = .failed then some .failed
    else if r.commanded = requiredPosition q.state then none
    else if s.blockOf e = some .noMove then some .blocked
    else if !r.claims.isEmpty then some .claimed
    else if s.countsOccupied (s.pointCfg p).track then some .occupied
    else none
  | .signal g =>
    if q.role = .opposing ∧ s.signals[g].aspect ≠ .stop then some .locked else none
  | .boundary _ => none

/-- The checks 1 to 6 of R14 for one requirement; an EXIT requirement on a signal is given checks 1 and 2
only (R15). `seen` holds the elements that appear earlier in the set. -/
def State.judgeOne (s : State) (entry : Option (Fin 8)) (seen : List Elem) (e : Elem) (q : LockReq) :
    Option Reason :=
  if !s.equipped e then some .unknownElement
  else if !fits e q.role q.state || seen.contains e then some .badTelegram
  else
    match e, q.role with
    | .signal _, .exit => none
    | _, _ =>
      if s.blockOf e = some .noRoute || (s.blockOf e).isSome && (match e with | .signal _ | .boundary _ => true | _ => false)
      then some .blocked
      else if (s.lockOf e).isSome && !s.takesOver entry e q then some .locked
      else if q.role != .entry && (s.claimsOf e).any (·.state != q.state) then some .claimed
      else s.kindCheck e q

/-- A requirement set for route locks is judged in index order; the first that fails ends the judgement
with its reason and index (R14). -/
def State.judge (s : State) (entry : Option (Fin 8)) (seen : List Elem) : List LockReq → Option Failure
  | [] => none
  | q :: qs =>
    match elemOfNumber q.elem with
    | none => some ⟨.unknownElement, q.index⟩
    | some e =>
      match s.judgeOne entry seen e q with
      | some r => some ⟨r, q.index⟩
      | none => s.judge entry (e :: seen) qs

/-- Writes one lock: an overlap taken over changes its route and role, and its route's place on the requester list
(R14, R16, R48), and a release-pending mark on it is cleared, which is the model's choice (log entry 39); a point
not in position is called, one in position joins a move in flight (R39). EXIT and the boundary write nothing (R15).
-/
def Work.writeLock (w : Work) (ref : RouteRef) (q : LockReq) : Work :=
  match elemOfNumber q.elem with
  | some (.track i) =>
    w.on fun s => s.setSection i { s.sections[i] with lock := some ⟨ref, q.role, none, false⟩ }
  | some (.points p) =>
    let r := w.st.points[p]
    let renamed := match r.lock with
      | some l => r.requesters.map fun x => if x = .holder l.ref then .holder ref else x
      | none => r.requesters
    let r' := { r with
      lock := some ⟨ref, q.role, requiredPosition q.state, false⟩
      requesters := renamed }
    if r.commanded = requiredPosition q.state then
      w.on (·.setPoint p (r'.joinInPosition (.holder ref)))
    else
      match requiredPosition q.state with
      | some x => (w.on (·.setPoint p r')).movePoint p x (.holder ref)
      | none => w
  | some (.signal g) =>
    if q.role = .exit then w
    else w.on fun s => s.setSignal g { s.signals[g] with lock := some ⟨ref, q.role, none, false⟩ }
  | _ => w

/-- Writes the locks of an admitted set in index order (R14). -/
def Work.writeLocks (w : Work) (ref : RouteRef) (qs : List LockReq) : Work :=
  qs.foldl (fun w q => w.writeLock ref q) w

/-! ## Judging flank claims -/

/-- What refuses a flank claim set before any verdict: an unequipped element, a section or boundary, a
state that does not fit, or an element twice, with its index (R17). -/
def State.claimSetFault (s : State) (seen : List Elem) (index : Nat) : List WireReq → Option Failure
  | [] => none
  | q :: qs =>
    match elemOfNumber q.elem with
    | none => some ⟨.unknownElement, index⟩
    | some e =>
      if !s.equipped e then some ⟨.unknownElement, index⟩
      else
        let fit := match e with
          | .points _ => q.state == .normal || q.state == .reverse
          | .signal _ => q.state == .stop
          | _ => false
        if !fit || seen.contains e then some ⟨.badTelegram, index⟩
        else s.claimSetFault (e :: seen) (index + 1) qs

/-- The signal is the ENTRY of a route instance in OPEN, HELD or CANCELLING (R17). -/
def State.entryInUse (s : State) (g : Fin 8) : Bool :=
  match s.signals[g].lock, s.instances[g] with
  | some l, some i =>
    l.role == .entry && (i.state == .open || i.state == .held || i.state == .cancelling)
  | _, _ => false

/-- The verdict on one flank requirement; `none` is granted (R17). -/
def State.claimVerdict (s : State) (ref : RouteRef) (e : Elem) (state : Required) : Option Reason :=
  let full := !claimed ref (s.claimsOf e) && decide (6 ≤ (s.claimsOf e).length)
  match e with
  | .points p =>
    let r := s.points[p]
    if r.commanded = requiredPosition state then
      if r.lock.any (fun l => l.position != requiredPosition state) then some .locked
      else if r.claims.any (·.state != state) then some .claimed
      else if r.supervision = .failed then some .failed
      else if full then some .claimsFull
      else none
    else if r.lock.isSome then some .locked
    else if !r.claims.isEmpty then some .claimed
    else if r.supervision = .failed then some .failed
    else if s.blockOf e = some .noMove then some .blocked
    else if s.countsOccupied (s.pointCfg p).track then some .occupied
    else none
  | .signal g =>
    if s.entryInUse g then some .locked
    else if full then some .claimsFull
    else none
  | _ => some .badTelegram

/-- Enters a granted claim (R10): a point not in position is called, with the claimant as requester, one
in position is joined (R17, R39); a signal at PROCEED is replaced and its clearing route told (R62). Where its STOP
lamp proves at once, that the exit users are told before the clearing route is the model's choice (log entry 6). -/
def Work.grantClaim (w : Work) (ref : RouteRef) (e : Elem) (state : Required) : Work :=
  match e with
  | .points p =>
    let r := w.st.points[p]
    let r' := { r with claims := addClaimIn ref state r.claims }
    if r.commanded = requiredPosition state then
      w.on (·.setPoint p (r'.joinInPosition (.claimant ref)))
    else
      match requiredPosition state with
      | some x => (w.on (·.setPoint p r')).movePoint p x (.claimant ref)
      | none => w
  | .signal g =>
    let r := w.st.signals[g]
    let w' := w.on (·.setSignal g { r with claims := addClaimIn ref state r.claims })
    if r.aspect = .proceed then
      let w' := w'.replaceSignal g
      match r.clearingRoute with
      | some route => w'.emit [.withdrawnByFlank route]
      | none => w'
    else w'
  | _ => w

/-- Frees one claim of a claimant (R10): a point may become free (R46); an ENTRY locked signal whose list
becomes empty tells its route (R62). -/
def Work.freeClaim (w : Work) (ref : RouteRef) (e : Elem) : Work :=
  match e with
  | .points p => w.on fun s => s.setPoint p (s.points[p].dropClaim ref)
  | .signal g =>
    let r := w.st.signals[g]
    let left := freeClaimIn ref r.claims
    let w' := w.on (·.setSignal g { r with claims := left })
    if !r.claims.isEmpty && left.isEmpty && r.lock.any (·.role == .entry) then w'.emit [.entryFree g] else w'
  | _ => w

/-- An element is proven for flank (R141). -/
def State.provenForFlank (s : State) : Elem → Bool
  | .points p => s.points[p].drive == .rest && s.points[p].supervision == .proven
  | .signal g => s.signals[g].aspect == .stop
  | _ => false

/-! ## Freeing route locks -/

/-- A lock is gone: the fault mark of a local route's section goes with it (R124); a reservation loses the
element, and ends when its list is empty (R99). -/
def State.lockGone (s : State) (ref : RouteRef) (e : Elem) : State :=
  if ref.station = s.own then
    match s.instanceOf ref.route, s.routeRecord ref.route with
    | some (g, _), some route =>
      let here := (route.path.zipIdx 1 ++ route.overlap.zipIdx 17).filter fun x =>
        x.1.station == 0 && x.1.elem == elemNumber e
      s.changeInstance g fun i => { i with faultMarks := i.faultMarks.filter fun k => !here.any (·.2 == k) }
    | _, _ => s
  else
    let rs := s.reservations.map fun r =>
      if r.ref = ref then { r with elems := r.elems.filter (·.elem != e) } else r
    { s with reservations := rs.filter fun r => !(r.ref == ref && r.elems.isEmpty) }

/-- A section record without its lock: its SEQUENCE_FAULT flag is cleared (R28) and its train record erased
(R165). -/
def SectionRec.dropLock (r : SectionRec) : SectionRec :=
  { r with lock := none, sequenceFault := false, train := none }

/-- Frees the lock that a holder has on an element: at once where its section is CLEAR or it is a signal,
else marked release-pending; an ENTRY lock at PROCEED is replaced first (R9, R62). A lock removed is a change
that is reported even where the event writes the same lock anew (R3). -/
def Work.freeLock (w : Work) (ref : RouteRef) (e : Elem) : Work :=
  match w.st.lockOf e with
  | none => w
  | some l =>
    if l.ref ≠ ref then w
    else
      match e with
      | .track i =>
        let r := w.st.sections[i]
        if r.occupied then w.on (·.setSection i { r with lock := some { l with releasePending := true } })
        else w.on fun s => ((s.setSection i r.dropLock).lockGone ref e).place (.elem e)
      | .points p =>
        let r := w.st.points[p]
        if w.st.pointOccupied p then w.on (·.setPoint p { r with lock := some { l with releasePending := true } })
        else w.on fun s => ((s.setPoint p r.dropLock).lockGone ref e).place (.elem e)
      | .signal g =>
        let w := if l.role = .entry then w.replaceSignal g else w
        w.on fun s => ((s.setSignal g { s.signals[g] with lock := none }).lockGone ref e).place (.elem e)
      | .boundary _ => w

/-- The instance has a lock in place on a local element, release-pending or not (R90). -/
def State.holdsLock (s : State) (ref : RouteRef) : Bool :=
  allElems.any fun e => (s.lockOf e).any (·.ref == ref)

/-- The instance holds nothing: no local lock, no remote portion other than VOID, no flank portion other
than VOID or REFUSED, and no direction claim (R90). -/
def State.holdsNothing (s : State) (i : RouteInst) : Bool :=
  !s.holdsLock (s.ownRef i.route) && i.portions.all (·.state == .void)
    && i.flank.all (fun f => f.state == .void || f.state == .refused) && !i.directionHeld

/-- The instance on a signal ends: its route and last failure become the last ended field, and the route
subject is placed (R90, R180). -/
def State.endInstance (s : State) (g : Fin 8) : State :=
  match s.instances[g] with
  | some i =>
    { s.setInstance g none with
      lastEnded := s.lastEnded.set g (some ⟨i.route, i.lastFailure⟩) }.place (.route g)
  | none => s

/-- Ends the instance on a signal if it holds nothing (R90). -/
def State.endIfEmpty (s : State) (g : Fin 8) : State :=
  match s.instances[g] with
  | some i => if s.holdsNothing i then s.endInstance g else s
  | none => s

/-- A section has become CLEAR: the release-pending locks on it and on the points lying in it are removed,
and their holders told, which may then end (R9, R90). That the section's lock goes first and the points' in ascending
index, and that the holding routes end in that order after all removals, is the model's choice (log entry 52). -/
def Work.removePending (w : Work) (i : Fin 16) : Work :=
  let elems := Elem.track i :: (allEight.filter fun p => (w.st.pointCfg p).track == i).map .points
  let due := elems.filterMap fun e =>
    match w.st.lockOf e with
    | some l => if l.releasePending then some (e, l.ref) else none
    | none => none
  let w := due.foldl (fun w x => w.freeLock x.2 x.1) w
  w.on fun s => (due.map (·.2)).foldl (fun s ref =>
    if ref.station = s.own then
      match s.instanceOf ref.route with
      | some (g, _) => s.endIfEmpty g
      | none => s
    else s) s

end Sys2Proof.Machine
end

