-- ==== Sys2Proof/Machine/Routes.lean ====
section
/-! DEFINITION. The geometry of a route record (R14, R89, R140), the remote section table (R32 to R34), a
route's proof (R104), what an instance holds (R116), and the arithmetic of the approach release delay (R130
to R133). Nothing here changes any other block. -/

namespace Sys2Proof.Machine

/-! ## The geometry of a route record -/

/-- The path and overlap requirements with their route indices: 1 to 16 and 17 to 20 (R14). -/
def reqsOf (r : RouteRecord) : List (Nat × RouteReq) :=
  (r.path.zipIdx 1 ++ r.overlap.zipIdx 17).map fun x => (x.2, x.1)

/-- A requirement on a section. -/
def onSection (q : RouteReq) : Bool := decide (q.elem < 16)

/-- The section that a requirement names. -/
def sectionOf (q : RouteReq) : SectionRef := ⟨q.station, q.elem⟩

/-- The local element that a requirement names, if it names one. -/
def localElem (q : RouteReq) : Option Elem := if q.station = 0 then elemOfNumber q.elem else none

/-- The requirement at a route index. -/
def reqAt (r : RouteRecord) (index : Nat) : Option RouteReq := (reqsOf r).lookup index

/-- The sections s1 to sn with their route indices (R89). -/
def pathSections (r : RouteRecord) : List (Nat × RouteReq) :=
  (reqsOf r).filter fun x => decide (x.1 ≤ 16) && onSection x.2

/-- The place of a section among s1 to sn, counted from 0. -/
def pathPlace (r : RouteRecord) (x : SectionRef) : Option Nat :=
  (pathSections r).findIdx? fun y => sectionOf y.2 == x

/-- The route index of an overlap requirement on a section. -/
def overlapIndex (r : RouteRecord) (x : SectionRef) : Option Nat :=
  ((reqsOf r).find? fun y => decide (17 ≤ y.1) && onSection y.2 && sectionOf y.2 == x).map (·.1)

/-- The owners of remote portions, ascending (R89). -/
def ownersOf (r : RouteRecord) : List Nat :=
  sortBy id (distinct (((reqsOf r).map (·.2.station)).filter (· != 0)))

/-- The route indices of an owner's requirements, in order (R89). -/
def ownedIndices (r : RouteRecord) (owner : Nat) : List Nat :=
  ((reqsOf r).filter fun x => x.2.station == owner).map (·.1)

/-- The remote portions of a new instance, in ascending owner address (R90, R92). -/
def newPortions (r : RouteRecord) : List Portion :=
  (ownersOf r).map fun o => ⟨o, ownedIndices r o, .none, none⟩

/-- The requirements that belong to path section k: itself, and the points and OPPOSING signals that name
it (R89, R121). That a path section naming another goes with it, and that the belongs byte of an overlap, EXIT
or boundary requirement is ignored, is the model's choice (log entry 34). -/
def belongingTo (r : RouteRecord) (k : Nat) : List Nat :=
  match (pathSections r)[k]? with
  | some s =>
    ((reqsOf r).filter fun x =>
      decide (x.1 ≤ 16) && (x.1 == s.1 || x.2.role != .exit && x.2.elem < 32 && x.2.belongs == s.1)).map (·.1)
  | none => []

/-- The EXIT requirement and the boundary of the route, which go with sn (R121). -/
def exitIndices (r : RouteRecord) : List Nat :=
  ((reqsOf r).filter fun x => decide (x.1 ≤ 16) && (x.2.role == .exit || decide (32 ≤ x.2.elem))).map (·.1)

/-- What the release of section k frees: what belongs to it, the ENTRY lock (index 0) with s1, and the exit
with sn (R121). -/
def freedWith (r : RouteRecord) (k : Nat) : List Nat :=
  let own := belongingTo r k ++ (if k + 1 = (pathSections r).length then exitIndices r else [])
  sortBy id (distinct ((if k = 0 then [0] else []) ++ own))

/-- The boundary at which a route ends (R89). -/
def exitBoundary (r : RouteRecord) : Option (Fin 4) :=
  match r.exit with
  | .boundary b => some b
  | _ => none

/-- The route index of the boundary requirement; the exit of a route to a boundary is its last. -/
def boundaryIndex (r : RouteRecord) : Nat :=
  match (reqsOf r).find? fun x => x.2.station == 0 && decide (32 ≤ x.2.elem) with
  | some x => x.1
  | none => r.path.length

/-- The route index of a local element. -/
def indexOfElem (r : RouteRecord) (e : Elem) : Nat :=
  match (reqsOf r).find? fun x => localElem x.2 == some e with
  | some x => x.1
  | none => 0

/-- The local part with the ENTRY lock as a requirement set: index 0, then the local requirements with
their numbers (R14). -/
def localPart (r : RouteRecord) : List LockReq :=
  ⟨0, 24 + r.entry.val, .entry, .stop⟩
    :: ((reqsOf r).filter fun x => x.2.station == 0).map fun x => ⟨x.1, x.2.elem, x.2.role, x.2.state⟩

/-! ## Flank entries (R140) -/

/-- The flank requirement of an entry that is in use. -/
def inUseReq (f : FlankEntry) : InUse → FlankReq
  | .primary => f.primary
  | .substitute => f.substitute.getD f.primary

/-- The flank portions of a new instance (R141). -/
def newFlank (r : RouteRecord) : List FlankPortion :=
  r.flank.map fun f => ⟨.primary, f.primary.station, .none, none, none⟩

/-- The flank portion holds a claim (R141). -/
def FlankState.holding : FlankState → Bool
  | .granted | .proven | .lapsed => true
  | _ => false

/-- The portion is held at its owner (R116). -/
def PortionState.holding : PortionState → Bool
  | .granted => true
  | .proven => true
  | .lapsed _ => true
  | _ => false

/-- A route instance at its creation (R92, R116). -/
def newInstance (r : RouteRecord) (settingLimit : Nat) : RouteInst where
  route := r.number
  state := .setting
  inStep := false
  awaitingDirection := false
  directionHeld := false
  progress := (pathSections r).map fun _ => .notReached
  faultMarks := []
  released := []
  portions := newPortions r
  flank := newFlank r
  settingTimer := some settingLimit
  approachTimer := none
  overlapTimer := .stopped
  emergencyTimer := .stopped
  delay := none
  speedUsed := none
  lastFailure := none

/-- The instance on a signal with its route record. -/
def State.running (s : State) (g : Fin 8) : Option (RouteInst × RouteRecord) :=
  match s.instances[g] with
  | some i => (s.routeRecord i.route).map (i, ·)
  | none => none

/-- The route is entered: its s1 progress is not NOT_REACHED (R116). -/
def RouteInst.entered (i : RouteInst) : Bool :=
  match i.progress with
  | p :: _ => p != .notReached
  | [] => false

/-- The progress of path section k. -/
def RouteInst.progressAt (i : RouteInst) (k : Nat) : Progress := i.progress.getD k .notReached

/-- The route is in SETTING or POSITIONING. -/
def RouteInst.beingSet (i : RouteInst) : Bool := i.state == .setting || i.state == .positioning

/-- A requirement is held by the instance: not marked released, and for a remote one its portion GRANTED,
PROVEN or LAPSED (R116). -/
def RouteInst.holds (i : RouteInst) (index : Nat) (q : RouteReq) : Bool :=
  !i.released.contains index
    && (q.station == 0 || i.portions.any fun p => p.indices.contains index && p.state.holding)

/-- The emergency timer runs. -/
def Timer.isRunning : Timer → Bool
  | .running _ => true
  | _ => false

/-! ## The remote section table (R32 to R34) -/

/-- The entry of the remote section table for a section. -/
def State.remoteEntry (s : State) (x : SectionRef) : Option RemoteEntry :=
  s.remote.find? fun e => e.station == x.station && e.index == x.index

/-- Changes the entry for a section. -/
def State.changeRemote (s : State) (x : SectionRef) (f : RemoteEntry → RemoteEntry) : State :=
  { s with remote := s.remote.map fun e => if e.station = x.station ∧ e.index = x.index then f e else e }

/-- What a section shows to the Route Engine: a local section's occupancy field, or a remote section's
image (R32, R119). -/
def State.imageOf (s : State) (x : SectionRef) : SectionImage :=
  if x.station = 0 then
    match elemOfNumber x.index with
    | some (.track i) => if s.sections[i].occupied then .occupied else .clear
    | _ => .unknown
  else (s.remoteEntry x).elim .unknown (·.image)

/-- A capture that is not stale. -/
def freshCapture : Option Capture → Option Stamp
  | some c => if c.stale then none else some c.value
  | none => none

/-- The entry capture of a section, where it may be used for timing (R26, R32). -/
def State.captureOf (s : State) (x : SectionRef) : Option Stamp :=
  if x.station = 0 then
    match elemOfNumber x.index with
    | some (.track i) => freshCapture s.sections[i].entryCapture
    | _ => none
  else freshCapture ((s.remoteEntry x).bind (·.capture))

/-- A GRANTED answer lists sections: an UNKNOWN image becomes CLEAR and the route is a holder (R34). -/
def State.holdImages (s : State) (route station : Nat) (elems : List Nat) : State :=
  { s with remote := s.remote.map fun e =>
      if e.station = station ∧ elems.contains e.index then
        { e with
          image := if e.image = .unknown then .clear else e.image
          heldBy := if e.heldBy.contains route then e.heldBy else e.heldBy ++ [route] }
      else e }

/-- A route leaves the holders of sections: an unwatched entry without holders becomes UNKNOWN (R34). An entry that
does not list the route keeps its image and capture, which is the model's choice (log entry 48). -/
def State.unholdImages (s : State) (route station : Nat) (elems : List Nat) : State :=
  { s with remote := s.remote.map fun e =>
      if e.station = station ∧ elems.contains e.index ∧ e.heldBy.contains route then
        let left := e.heldBy.filter (· != route)
        if !e.watched && left.isEmpty then { e with heldBy := left, image := .unknown, capture := none }
        else { e with heldBy := left }
      else e }

/-- A break with an owner: every entry of its becomes UNKNOWN, without capture and holders (R34). -/
def State.forgetImages (s : State) (station : Nat) : State :=
  { s with remote := s.remote.map fun e =>
      if e.station = station then { e with image := .unknown, capture := none, heldBy := [] } else e }

/-! ## Proof (R104) -/

/-- Index 0: the signal is under this route's ENTRY lock, and its claim list is empty. -/
def State.entryProven (s : State) (g : Fin 8) (i : RouteInst) : Bool :=
  s.signals[g].lock.any (fun l => l.role == .entry && l.ref == s.ownRef i.route) && s.signals[g].claims.isEmpty

/-- A path or overlap requirement is proven. One that the route has lost by takeover never is (R126). -/
def State.reqProven (s : State) (i : RouteInst) (index : Nat) (q : RouteReq) : Bool :=
  !i.released.contains index &&
    match localElem q with
    | some (.track t) =>
      !s.sections[t].occupied && s.sections[t].supervision == .proven && !s.sections[t].sequenceFault
    | some (.points p) =>
      s.points[p].drive == .rest && s.points[p].supervision == .proven
        && s.points[p].commanded == requiredPosition q.state
    | some (.signal g) => if q.role = .exit then s.signals[g].exitProof else s.signals[g].aspect == .stop
    | some (.boundary _) => i.directionHeld
    | none =>
      q.station != 0 && i.portions.any (fun p => p.indices.contains index && p.state == .proven)
        && (!onSection q || s.imageOf (sectionOf q) == .clear)

/-- The index of the first missing proof of the route on a signal; `none` when its proof is complete. -/
def State.firstMissing (s : State) (g : Fin 8) (i : RouteInst) (r : RouteRecord) : Option Nat :=
  if !s.entryProven g i then some 0
  else
    match (reqsOf r).find? fun x => !s.reqProven i x.1 x.2 with
    | some x => some x.1
    | none => ((i.flank.zipIdx 21).find? fun f => f.1.state != .proven).map (·.2)

/-- The index that an expiry of the setting limit reports: in SETTING the boundary's while the route awaits
direction, else the first of the portion still PENDING or NONE (R111). With the proof complete it is 0, the
model's choice (log entry 22). -/
def State.limitIndex (s : State) (g : Fin 8) (i : RouteInst) (r : RouteRecord) : Nat :=
  if i.state = .setting then
    if i.awaitingDirection then boundaryIndex r
    else
      match i.portions.find? fun p => p.state == .none || p.state == .pending with
      | some p => p.indices.headD 0
      | none => (s.firstMissing g i r).getD 0
  else (s.firstMissing g i r).getD 0

/-! ## The approach release delay (R130 to R133) -/

/-- The approach section counts as occupied for CANCEL: a local section OCCUPIED or UNPROVEN, a remote one
OCCUPIED or UNKNOWN (R127). -/
def State.approachOccupied (s : State) (x : SectionRef) : Bool :=
  if x.station = 0 then
    match elemOfNumber x.index with
    | some (.track i) => s.sections[i].occupied || s.sections[i].supervision == .unproven
    | _ => true
  else s.imageOf x != .clear

/-- Stage 1: Δ, where it is valid (R132). -/
def State.validSpan (s : State) (r : RouteRecord) : Option Nat :=
  let a := s.sections[r.approach]
  match freshCapture a.entryCapture, s.captureOf r.distant with
  | some c2, some c1 =>
    let d := (c2 - c1).toNat
    if a.occupied && decide (1 ≤ d ∧ d ≤ 60000) then some d else none
  | _, _ => none

/-- Stage 2: v in cm/s, saturated at 9999 (R133). -/
def spanSpeed (length span : Nat) : Nat := min 9999 (length * 10000 / span)

/-- A quotient rounded up. -/
def divUp (a b : Nat) : Nat := (a + b - 1) / b

/-- Stage 3: t_stop in centiseconds (R133). -/
def stopTime (speed decel : Nat) : Nat := divUp (speed * 100) decel

/-- Stage 4: D in seconds, within T_min and T_max (R133). -/
def delayOf (r : RouteRecord) (speed : Nat) : Nat :=
  min r.tMax (max r.tMin (divUp (stopTime speed r.decel) 100 + r.margin))

/-- The speed from which D is computed: by measurement, else the approach section's record, else none
(R133). -/
def State.delaySpeed (s : State) (r : RouteRecord) : Option Nat :=
  match s.validSpan r with
  | some d => some (spanSpeed r.distantLength d)
  | none =>
    match s.sections[r.approach].train with
    | some t => if t.speed = 0 then none else some t.speed
    | none => none

/-- D and the v used: T_max without a speed (R133). -/
def State.approachDelay (s : State) (r : RouteRecord) : Nat × Option Nat :=
  match s.delaySpeed r with
  | some v => (delayOf r v, some v)
  | none => (r.tMax, none)

/-- The speed measured at the event at which an approach section becomes OCCUPIED: any route that names it
gives its distant section and length, on which all agree (R130, R190). -/
def State.measured (s : State) (i : Fin 16) : Option Nat :=
  match s.cfg.routes.find? (·.approach == i) with
  | some r =>
    if s.imageOf r.distant = .occupied then (s.validSpan r).map (spanSpeed r.distantLength) else none
  | none => none

end Sys2Proof.Machine
end

