-- ==== Sys2Proof/Machine/Flank.lean ====
section
/-! DEFINITION. The Flank Manager (chapter 8): claiming, substitution and release of a route's flank portions
(R142 to R146, R152 to R154), their local proof (R151), and the Claim Register with the claims of other
stations (R147 to R150, R155, R156). -/

namespace Sys2Proof.Machine

/-! ## Flank portions of a route -/

/-- Changes the flank portion at a place of the flank list, counted from 0. -/
def State.changeFlank (s : State) (g : Fin 8) (f : Nat) (h : FlankPortion → FlankPortion) : State :=
  s.changeInstance g fun i => { i with flank := i.flank.modify f h }

/-- The local element of a flank requirement, if it is local. -/
def localFlankElem (q : FlankReq) : Option Elem := if q.station = 0 then elemOfNumber q.elem else none

/-- The flank portions of the route on a signal: place, entry and portion, in flank list order. -/
def State.flankParts (s : State) (g : Fin 8) : List (Nat × FlankEntry × FlankPortion) :=
  match s.running g with
  | some (i, r) => (r.flank.zip i.flank).zipIdx.map fun x => (x.2, x.1.1, x.1.2)
  | none => []

/-- The requirement in use of a flank part. -/
def partReq (x : Nat × FlankEntry × FlankPortion) : FlankReq := inUseReq x.2.1 x.2.2.inUse

/-- A refusal: a primary with a substitute gives way to it, unclaimed; any other refusal is final (R145). -/
def refusedPortion (e : FlankEntry) (reason : Reason) (p : FlankPortion) : FlankPortion :=
  match p.inUse, e.substitute with
  | .primary, some q => ⟨.substitute, q.station, .none, none, some (.refusal reason)⟩
  | _, _ => { p with state := .refused, reason := some (.refusal reason) }

/-- Applies a refusal to the flank portion at a place. -/
def State.refuseFlank (s : State) (g : Fin 8) (f : Nat) (reason : Reason) : State :=
  match (s.flankParts g).find? (·.1 == f) with
  | some x => s.changeFlank g f (refusedPortion x.2.1 reason)
  | none => s

/-- A local flank requirement is claimed as a set of its own (R142). -/
def Work.claimLocal (w : Work) (g : Fin 8) (x : Nat × FlankEntry × FlankPortion) : Work :=
  match localFlankElem (partReq x), w.st.instances[g] with
  | some e, some i =>
    match w.st.claimVerdict (w.st.ownRef i.route) e (partReq x).state with
    | some reason => w.on (·.refuseFlank g x.1 reason)
    | none =>
      let w := w.grantClaim (w.st.ownRef i.route) e (partReq x).state
      w.on fun s => s.changeFlank g x.1 fun p =>
        { p with state := if s.provenForFlank e then .proven else .granted }
  | _, _ => w

/-- Why a FLANK CLAIM that cannot be placed refuses its requirements (R146). -/
def claimFailure : Unplaced → Reason
  | .absent => .peerAbsent
  | _ => .tableFull

/-- One FLANK CLAIM is built for an owner and placed, with the requirements of the flank parts given; one that
cannot be placed refuses them (R143, R146). -/
def Work.placeClaim (w : Work) (g : Fin 8) (owner : Nat) (due : List (Nat × FlankEntry × FlankPortion)) : Work :=
  match w.st.instances[g] with
  | none => w
  | some i =>
    let reqs := due.map fun x => (⟨(partReq x).elem, .flank, (partReq x).state⟩ : WireReq)
    let placed := w.st.request owner (.flank g i.route (reqs.map (·.elem)))
      fun tag => .flankClaim tag (w.st.ownRef i.route) reqs
    let w := w.on fun _ => placed.1
    match placed.2.2 with
    | none =>
      w.on fun s => due.foldl (fun s x => s.changeFlank g x.1 fun p =>
        { p with state := .pending, tag := some placed.2.1 }) s
    | some why => w.on fun s => due.foldl (fun s x => s.refuseFlank g x.1 (claimFailure why)) s

/-- The first portion that is REFUSED, as the flank failure it gives the route (R145). -/
def State.flankFailure (s : State) (g : Fin 8) : Option Failure :=
  (s.flankParts g).findSome? fun x =>
    if x.2.2.state = .refused then
      match x.2.2.reason with
      | some (.refusal reason) => some ⟨reason, 21 + x.1⟩
      | _ => some ⟨.failed, 21 + x.1⟩
    else none

/-- Claiming (R143, R145): local requirements first, in flank list order, then their local substitutes; a
portion REFUSED is a flank failure, and nothing more is claimed; else one FLANK CLAIM for each other owner of
a requirement then unclaimed, in ascending address. The substitutes of the claims that could not be placed
come in rounds after these, with claims of their own. Substitution goes one level, so six rounds reach the
end. -/
def Work.flankRounds (g : Fin 8) : Nat → Work → Work
  | 0, w => w
  | n + 1, w =>
    match w.st.instances[g] with
    | none => w
    | some i =>
      if i.state ≠ .positioning then w
      else
        let due := (w.st.flankParts g).filter fun x => x.2.2.state == .none
        let here := due.filter fun x => x.2.2.owner == 0
        if !here.isEmpty then Work.flankRounds g n (here.foldl (fun w x => w.claimLocal g x) w)
        else
          match w.st.flankFailure g with
          | some failure => w.emit [.rollback g (some failure)]
          | none =>
            if due.isEmpty then w
            else
              let owners := sortBy id (distinct (due.map (·.2.2.owner)))
              Work.flankRounds g n
                (owners.foldl (fun w o => w.placeClaim g o (due.filter (·.2.2.owner == o))) w)

/-- The Flank Manager claims what the route has not claimed yet (R143, R145). -/
def Work.claimFlank (w : Work) (g : Fin 8) : Work := Work.flankRounds g 6 w

/-- Takes one verdict for the portion that awaits it; a granted verdict that no portion awaits is listed to
be returned (R144, R152). -/
def Work.takeVerdict (g : Fin 8) (source : Nat) (tag : Byte) (acc : Work × List Nat)
    (v : Nat × Option Reason) : Work × List Nat :=
  let awaiting := (acc.1.st.flankParts g).find? fun x =>
    x.2.2.state == .pending && x.2.2.tag == some tag && x.2.2.owner == source && (partReq x).elem == v.1
  match awaiting, v.2 with
  | some x, none => (acc.1.on (·.changeFlank g x.1 fun p => { p with state := .granted }), acc.2)
  | some x, some reason => (acc.1.on (·.refuseFlank g x.1 reason), acc.2)
  | none, none => (acc.1, acc.2 ++ [v.1])
  | none, some _ => acc

/-- A FLANK ANSWER that matches its pending entry (R144). A whole-claim reason refuses every requirement of
the claim; granted verdicts that no portion awaits are returned in the event (R152). -/
def Work.flankAnswered (w : Work) (g : Fin 8) (route source : Nat) (tag : Byte) (elems : List Nat)
    (reason : Option Reason) (verdicts : List (Nat × Option Reason)) : Work :=
  let verdicts := if reason.isSome then elems.map fun e => (e, reason) else verdicts
  let taken := verdicts.foldl (Work.takeVerdict g source tag) (w, [])
  let w := taken.1
  let w := if taken.2.isEmpty then w else w.giveBack ⟨.failed, source, tag, w.st.ownRef route, taken.2⟩
  (w.claimFlank g).emit [.assess g]

/-- A FLANK CLAIM has failed as timed out (R146): its requirements count as refused with PEER_ABSENT, and a
FLANK RELEASE lists every element of the claim, at the end of the event (R152). -/
def Work.flankFailed (w : Work) (g : Fin 8) (route dest : Nat) (tag : Byte) (elems : List Nat) : Work :=
  let due := (w.st.flankParts g).filter fun x => x.2.2.state == .pending && x.2.2.tag == some tag
  let w := w.on fun s => due.foldl (fun s x => s.refuseFlank g x.1 .peerAbsent) s
  ((w.giveBack ⟨.failed, dest, tag, w.st.ownRef route, elems⟩).claimFlank g).emit [.assess g]

/-! ## Release of flank portions (R152, R153) -/

/-- The elements of the claim that a pending request carries. -/
def State.claimElems (s : State) (tag : Byte) : List Nat :=
  match s.requests.find? (·.tag == tag) with
  | some ⟨_, _, .flank _ _ elems, _⟩ => elems
  | _ => []

/-- A released portion ends VOID, but for one that is REFUSED. -/
def releasedPortion (p : FlankPortion) : FlankPortion :=
  if p.state = .refused then p else { p with state := .void }

/-- Releases the flank portions of a route that are chosen (R152): local claims are freed, a claim none of
whose portions is PENDING any longer is withdrawn, and what goes back to other owners is kept for the FLANK
RELEASE telegrams of the event, where the elements of one claim stand in flank list order, the model's choice (log
entry 6). -/
def Work.releaseFlank (w : Work) (g : Fin 8) (cause : ReleaseCause)
    (chosen : Nat × FlankEntry × FlankPortion → Bool) : Work :=
  match w.st.instances[g] with
  | none => w
  | some i =>
    let parts := w.st.flankParts g
    let due := parts.filter chosen
    let ref := w.st.ownRef i.route
    let w := due.foldl (fun w x =>
      match localFlankElem (partReq x) with
      | some e => if x.2.2.state.holding then w.freeClaim ref e else w
      | none => w) w
    let held := due.filterMap fun x =>
      match x.2.2.tag with
      | some tag => if x.2.2.state.holding && x.2.2.owner != 0 then
          some (⟨cause, x.2.2.owner, tag, ref, [(partReq x).elem]⟩ : FlankReturn)
        else none
      | none => none
    let waiting := parts.filterMap fun x =>
      if x.2.2.state = .pending ∧ !chosen x then x.2.2.tag else none
    let ended := distinct (due.filterMap fun x =>
      match x.2.2.tag with
      | some tag => if x.2.2.state = .pending ∧ !waiting.contains tag then some (x.2.2.owner, tag) else none
      | none => none)
    let withdrawn := ended.map fun k => (⟨cause, k.1, k.2, ref, w.st.claimElems k.2⟩ : FlankReturn)
    let w := w.on fun s => due.foldl (fun s x => s.changeFlank g x.1 releasedPortion) s
    let w := w.on fun s => ended.foldl (fun s k => s.dropRequest k.2) s
    { w with returns := w.returns ++ held ++ withdrawn }

/-- The place of a cause among the FLANK RELEASE telegrams of one event, which R152 orders within one cause
alone (log entry 6). -/
def ReleaseCause.rank : ReleaseCause → Nat
  | .failed => 0
  | .takeover => 1
  | .sectional => 2
  | .overlap => 3
  | .whole => 4
  | .stopped => 5

/-- What goes back under one claim tag for one cause is one FLANK RELEASE (R152). -/
def mergeReturn (acc : List FlankReturn) (x : FlankReturn) : List FlankReturn :=
  let same := fun y : FlankReturn => y.cause == x.cause && y.owner == x.owner && y.tag == x.tag && y.ref == x.ref
  if acc.any same then acc.map fun y => if same y then { y with elems := y.elems ++ x.elems } else y
  else acc ++ [x]

/-- The FLANK RELEASE telegrams kept are placed, at the end of the event and so behind its RELEASE telegrams:
within one cause in ascending owner address and tag (R152). -/
def Work.returnFlank (w : Work) : Work :=
  let lists := sortBy (fun x : FlankReturn => (x.cause.rank * 256 + x.owner) * 256 + x.tag.toNat)
    (w.returns.foldl mergeReturn [])
  { w with
    st := lists.foldl (fun s x => s.post x.owner (.flankRelease x.tag x.ref x.elems)) w.st
    returns := [] }

/-- The flank claims that protect freed requirements are released (R152). -/
def Work.releaseProtecting (w : Work) (g : Fin 8) (cause : ReleaseCause) (freed : List Nat) : Work :=
  w.releaseFlank g cause fun x => freed.contains x.2.1.protects

/-- The route stops claiming flank: PENDING and NONE portions become VOID (R153). -/
def Work.stopFlank (w : Work) (g : Fin 8) : Work :=
  w.releaseFlank g .stopped fun x => x.2.2.state == .pending || x.2.2.state == .none

/-- A break with a station voids the flank portions claimed there (R154); whether there was one is told. -/
def RouteInst.voidFlank (i : RouteInst) (station : Nat) : RouteInst × Bool :=
  let lost := fun p : FlankPortion => p.owner == station && (p.state == .pending || p.state.holding)
  ({ i with flank := i.flank.map fun p => if lost p then { p with state := .void } else p }, i.flank.any lost)

/-! ## Proof of local flank portions (R151) -/

/-- The holding portions of a route whose requirement in use is a local element. -/
def State.localFlank (s : State) (g : Fin 8) (e : Elem) : List (Nat × FlankEntry × FlankPortion) :=
  (s.flankParts g).filter fun x => x.2.2.state.holding && localFlankElem (partReq x) == some e

/-- Writes the state and reason of flank portions. -/
def State.markFlank (s : State) (g : Fin 8) (parts : List (Nat × FlankEntry × FlankPortion))
    (lapse : Option LapseReason) : State :=
  parts.foldl (fun s x => s.changeFlank g x.1 fun p =>
    match lapse with
    | some reason => { p with state := .lapsed, reason := some (.lapse reason) }
    | none => { p with state := .proven }) s

/-! ## The Claim Register (R147 to R150) -/

/-- An ACTIVE entry of the Claim Register. -/
def State.activeClaims (s : State) (ref : RouteRef) : Option RegisterEntry :=
  (s.registered ref).filter fun r => r.state == .active

/-- Changes an element of a Claim Register entry. -/
def State.changeClaimed (s : State) (ref : RouteRef) (e : Elem) (f : ClaimedElem → ClaimedElem) : State :=
  s.changeRegister ref fun r => { r with elems := r.elems.map fun c => if c.elem = e then f c else c }

/-- Enters a granted element in the Claim Register, whose entry it creates where there is none (R148). -/
def State.registerClaim (s : State) (ref : RouteRef) (e : Elem) (state : Required) (tag : Byte) : State :=
  let c : ClaimedElem := ⟨e, state, tag, .none⟩
  if (s.registered ref).isSome then s.changeRegister ref fun r => { r with elems := r.elems ++ [c] }
  else { s with register := s.register ++ [⟨ref, .active, [c]⟩] }

/-- The claim of a Claim Register entry on an element is freed; the entry ends when its list is empty
(R148, R150). -/
def Work.unregister (w : Work) (ref : RouteRef) (e : Elem) : Work :=
  let w := w.freeClaim ref e
  w.on fun s =>
    let s := s.changeRegister ref fun r => { r with elems := r.elems.filter (·.elem != e) }
    { s with register := s.register.filter fun r => !(r.ref == ref && r.elems.isEmpty) }

/-- The verdict on one requirement of a FLANK CLAIM, written if granted (R147). -/
def Work.judgeClaim (ref : RouteRef) (tag : Byte) (acc : Work × List (Nat × Option Reason)) (q : WireReq) :
    Work × List (Nat × Option Reason) :=
  let w := acc.1
  match elemOfNumber q.elem with
  | none => (w, acc.2 ++ [(q.elem, some .unknownElement)])
  | some e =>
    let listed := ((w.st.activeClaims ref).map (·.elems)).getD []
    match listed.find? (·.elem == e) with
    | some c =>
      if c.state = q.state then
        (w.on (·.changeClaimed ref e fun c => { c with tag := tag, mark := .none }), acc.2 ++ [(q.elem, none)])
      else (w, acc.2 ++ [(q.elem, some .claimed)])
    | none =>
      if 8 ≤ listed.length then (w, acc.2 ++ [(q.elem, some .tableFull)])
      else
        match w.st.claimVerdict ref e q.state with
        | some reason => (w, acc.2 ++ [(q.elem, some reason)])
        | none =>
          ((w.grantClaim ref e q.state).on (·.registerClaim ref e q.state tag), acc.2 ++ [(q.elem, none)])

/-- What refuses a whole FLANK CLAIM: the checks 1 to 6 of R147. -/
def State.claimRefusal (s : State) (source : Nat) (ref : RouteRef) (reqs : List WireReq) : Option Failure :=
  if s.service ≠ .inService then some ⟨.notInService, 0⟩
  else if ref.station ≠ source then some ⟨.notPermitted, 0⟩
  else if reqs.length < 1 ∨ 8 < reqs.length then some ⟨.badTelegram, 0⟩
  else if (s.registered ref).any (·.state != .active) then some ⟨.duplicate, 0⟩
  else if (s.activeClaims ref).isNone && decide (16 ≤ s.register.length) then some ⟨.tableFull, 0⟩
  else s.claimSetFault [] 1 reqs

/-- A FLANK CLAIM is taken (R147): the answer is placed, then the proof of each granted element is assessed.
The index of an answer that refuses nothing as a whole is a free value (log entry 4). That what the grants themselves
lead to (a point that achieves at once, a signal replaced) is told first, in telegram order, and that the granted
elements are then assessed in telegram order, is the model's choice (log entry 52). -/
def Work.takeFlankClaim (w : Work) (source : Nat) (tag : Byte) (ref : RouteRef) (reqs : List WireReq) : Work :=
  match w.st.claimRefusal source ref reqs with
  | some f => w.postProof source (.flankAnswer tag ref (some f.reason) f.index [])
  | none =>
    let judged := reqs.foldl (Work.judgeClaim ref tag) (w, [])
    let w := judged.1
    let w := (w.postProof source (.flankAnswer tag ref none w.st.freeByte judged.2)).on (·.draw 1)
    w.emit ((judged.2.filter (·.2.isNone)).filterMap fun v => (elemOfNumber v.1).map (.assessClaim ref ·))

/-- A FLANK RELEASE is taken (R150): the listed elements that the source's ACTIVE entry holds under its tag
are freed. -/
def Work.takeFlankRelease (w : Work) (source : Nat) (tag : Byte) (ref : RouteRef) (elems : List Nat) : Work :=
  if ref.station ≠ source then w
  else elems.foldl (fun w n =>
    match elemOfNumber n, w.st.activeClaims ref with
    | some e, some r => if r.elems.any fun c => c.elem == e && c.tag == tag then w.unregister ref e else w
    | _, _ => w) w

/-- Sends the PROVEN of a claimed element, at most one telegram for an element in an event (R149). -/
def Work.assessClaim (w : Work) (ref : RouteRef) (e : Elem) : Work :=
  match (w.st.activeClaims ref).bind fun r => r.elems.find? (·.elem == e) with
  | some c =>
    if w.st.provenForFlank e && c.mark != .proven && !w.said.contains (ref, some e) then
      let w := { w with said := (ref, some e) :: w.said }
      (w.on (·.changeClaimed ref e fun c => { c with mark := .proven })).postProof ref.station
        (.proven c.tag ref (some (elemNumber e)))
    else w
  | none => w

/-- Sends the LAPSE of a claimed element: FAILED whatever its mark, DETECTION only from PROVEN (R149). -/
def Work.lapseClaim (w : Work) (ref : RouteRef) (e : Elem) (reason : LapseReason) : Work :=
  match (w.st.activeClaims ref).bind fun r => r.elems.find? (·.elem == e) with
  | some c =>
    if (reason == .failed || c.mark == .proven) && !w.said.contains (ref, some e) then
      let w := { w with said := (ref, some e) :: w.said }
      (w.on (·.changeClaimed ref e fun c => { c with mark := .lapsed })).postProof ref.station
        (.lapse c.tag ref (some (elemNumber e)) reason)
    else w
  | none => w

/-- Expiry of the orphan timer of a Claim Register entry: its claims are freed in list order and it ends
(R156). -/
def Work.claimsExpire (w : Work) (ref : RouteRef) : Work :=
  match w.st.registered ref with
  | some r =>
    match r.state with
    | .orphaned (some _) => r.elems.foldl (fun w c => w.unregister ref c.elem) w
    | _ => w
  | none => w

end Sys2Proof.Machine
end

