-- ==== Sys2Proof/Machine/Handover.lean ====
section
/-! DEFINITION. The Handover Unit (chapter 9): the direction of traffic (R159 to R164), the train describer
(R165, R166), and the queues of trains that leave and arrive (R168 to R175). -/

namespace Sys2Proof.Machine

/-- Changes a boundary record. -/
def State.changeBoundary (s : State) (b : Fin 4) (f : BoundaryRec → BoundaryRec) : State :=
  s.setBoundary b (f s.boundaries[b])

/-- The equipped boundary that an index names (R2). -/
def State.boundaryAt (s : State) (index : Nat) : Option (Fin 4 × BoundaryCfg) :=
  match elemOfNumber (32 + index) with
  | some (.boundary b) => s.cfg.boundaries[b].map (b, ·)
  | _ => none

/-! ## Direction of traffic -/

/-- The direction to which an ASKING boundary returns. -/
def returned : PreviousDirection → Direction
  | .neutral => .neutral
  | .into => .into

/-- A route asks for direction (R160): it is claimed at once in OUT, it joins the wait in ASKING, and from
NEUTRAL or IN the boundary begins asking its neighbour. Where the request cannot be placed the boundary is
ASKING and back in the event, which is reported (R158). -/
def Work.askDirection (w : Work) (b : Fin 4) (route : Nat) : Work :=
  let ask (previous : PreviousDirection) : Work :=
    match w.st.cfg.boundaries[b] with
    | none => w.emit [.directionTold route b .failed]
    | some c =>
      let placed := w.st.request c.neighbour (.direction b) fun tag => .directionRequest tag c.neighbourIndex
      match placed.2.2 with
      | none =>
        w.on fun _ => placed.1.changeBoundary b fun r =>
          { r with direction := .asking previous, waiting := r.waiting ++ [route] }
      | some _ => (w.on fun _ => placed.1.place (.elem (.boundary b))).emit [.directionTold route b .failed]
  match w.st.boundaries[b].direction with
  | .out =>
    (w.on (·.changeBoundary b fun r => { r with claims := r.claims ++ [route] })).emit
      [.directionTold route b .granted]
  | .asking _ => w.on (·.changeBoundary b fun r => { r with waiting := r.waiting ++ [route] })
  | .neutral => ask .neutral
  | .into => ask .into

/-- An ASKING boundary takes a direction, and each waiting route is told (R161, R162, R164); the routes
granted become claims. -/
def Work.settleDirection (w : Work) (b : Fin 4) (direction : Direction) (told : DirectionTold) : Work :=
  let waiting := w.st.boundaries[b].waiting
  (w.on (·.changeBoundary b fun r =>
    { r with
      direction := direction
      waiting := []
      claims := if told = .granted then r.claims ++ waiting else r.claims })).emit
    (waiting.map (.directionTold · b told))

/-- An ASKING boundary returns to its previous direction, and each waiting route is told why (R162, R164). -/
def Work.returnDirection (w : Work) (b : Fin 4) (told : DirectionTold) : Work :=
  match w.st.boundaries[b].direction with
  | .asking previous => w.settleDirection b (returned previous) told
  | _ => w

/-- A DIRECTION ANSWER that matches its pending entry (R162). -/
def Work.directionAnswered (w : Work) (b : Fin 4) (reason : Option Reason) : Work :=
  match w.st.boundaries[b].direction, reason with
  | .asking _, none => w.settleDirection b .out .granted
  | _, some .contended => w.returnDirection b .contended
  | _, _ => w.returnDirection b .refused

/-- What a DIRECTION REQUEST is refused for, or `none` for granted (R161). -/
def State.directionVerdict (s : State) (source index : Nat) : Option Reason :=
  if s.service ≠ .outOfService ∧ s.service ≠ .inService then some .notInService
  else
    match s.boundaryAt index with
    | none => some .unknownElement
    | some (b, c) =>
      let r := s.boundaries[b]
      if c.neighbour ≠ source then some .notPermitted
      else if (s.blockOf (.boundary b)).isSome ∧ r.direction ≠ .into then some .blocked
      else
        match r.direction with
        | .neutral => none
        | .into => none
        | .out =>
          if r.claims.isEmpty && r.outbound.isEmpty && r.inbound.isEmpty then none else some .directionRefused
        | .asking _ => if source < s.own then none else some .contended

/-- A DIRECTION REQUEST is taken (R161): a grant makes the boundary IN; a contending grant withdraws this
station's own request and tells the waiting routes that they have lost. -/
def Work.takeDirectionRequest (w : Work) (source : Nat) (tag : Byte) (index : Nat) : Work :=
  match w.st.directionVerdict source index, w.st.boundaryAt index with
  | none, some (b, _) =>
    let w := match w.st.boundaries[b].direction with
      | .asking _ =>
        let w := match w.st.requests.find? (fun q : Request => q.subject == RequestSubject.direction b) with
          | some q => w.on (·.dropRequest q.tag)
          | none => w
        w.settleDirection b .into .contended
      | _ => w.on (·.changeBoundary b fun r => { r with direction := .into })
    w.postProof source (.directionAnswer tag index none)
  | reason, _ => w.postProof source (.directionAnswer tag index reason)

/-- A route's direction claim is removed (R163). -/
def State.dropDirection (s : State) (b : Fin 4) (route : Nat) : State :=
  s.changeBoundary b fun r => { r with claims := r.claims.filter (· != route) }

/-- A route tells that it no longer waits (R160). -/
def State.dropWaiting (s : State) (b : Fin 4) (route : Nat) : State :=
  s.changeBoundary b fun r => { r with waiting := r.waiting.filter (· != route) }

/-! ## The train describer -/

/-- Writes a section's train record. -/
def State.setTrain (s : State) (i : Fin 16) (t : Option TrainRecord) : State :=
  s.setSection i { s.sections[i] with train := t }

/-- A measured speed is written on a section's record, created with number 0 where there is none (R130). -/
def State.writeSpeed (s : State) (i : Fin 16) (speed : Nat) : State :=
  s.setTrain i (some ⟨(s.sections[i].train.map (·.number)).getD 0, speed⟩)

/-- A record attached to a section; a speed measured in this event stays (R131, R166, R173). -/
def State.attach (s : State) (i : Fin 16) (measured : Option Nat) (t : TrainRecord) : State :=
  s.setTrain i (some ⟨t.number, measured.getD t.speed⟩)

/-- The train entry of a route: s1 becomes OCCUPIED while its progress is NOT_REACHED (R117, R118). -/
def RouteInst.entersAt (i : RouteInst) (r : RouteRecord) (x : SectionRef) : Bool :=
  pathPlace r x == some 0 && !i.entered

/-- The source of a describer step into a local section for one route (R166). -/
def State.stepSource (s : State) (g : Fin 8) (i : Fin 16) : Option (Fin 16) :=
  match s.running g with
  | none => none
  | some (inst, r) =>
    let x : SectionRef := ⟨0, i.val⟩
    if !(s.sections[i].lock.any fun l => l.role == .path && l.ref == s.ownRef inst.route) then none
    else
      match pathPlace r x with
      | none => none
      | some 0 => if inst.entersAt r x then some r.approach else none
      | some (k + 1) =>
        if inst.entered && inst.progressAt k != .notReached then
          match (pathSections r)[k]? with
          | some y =>
            match localElem y.2 with
            | some (.track t) => some t
            | _ => none
          | none => none
        else none

/-- The describer step at the event at which a local section becomes OCCUPIED (R166). -/
def State.describerStep (s : State) (i : Fin 16) (measured : Option Nat) : State :=
  match allEight.findSome? fun g => s.stepSource g i with
  | some source =>
    match s.sections[source].train with
    | some t => s.attach i measured t
    | none => s
  | none => s

/-! ## Trains leaving -/

/-- Removes the pending OFFER entry of an outbound record (R170, R171, R174). An OFFER still in the send queue keeps
its place there until it is delivered or given up (R74; log entry 36). -/
def State.dropOffer (s : State) (b : Fin 4) (tag : Byte) : State :=
  match s.requests.find? fun q => q.tag == tag && q.subject == .offer b with
  | none => s
  | some q =>
    { s with
      requests := s.requests.filter (·.tag != tag)
      sendQueue := s.sendQueue.map fun e => if e.asks q then { e with settled := true } else e }

/-- An outbound record for a train that leaves (R168): OFFERED where its OFFER is placed, else UNANSWERED. -/
def State.offerTrain (s : State) (b : Fin 4) (c : BoundaryCfg) (t : TrainRecord) : State :=
  let body := fun tag => Body.offer tag c.neighbourIndex t.number t.speed c.receiving
  let placed := if s.isPresent c.neighbour then s.request c.neighbour (.offer b) body
    else ({ s with tagCounter := s.newTag }, s.newTag, some .absent)
  let state := if placed.2.2.isNone then OutboundState.offered else .unanswered none
  placed.1.changeBoundary b fun r =>
    { r with outbound := r.outbound ++ [⟨t.number, t.speed, placed.2.1, state, none⟩] }

/-- An edge section becomes OCCUPIED while the boundary is OUT (R168). -/
def State.outbound (s : State) (b : Fin 4) (c : BoundaryCfg) (i : Fin 16) : State :=
  match s.sections[i].train with
  | none => s
  | some t =>
    if 4 ≤ s.boundaries[b].outbound.length then
      s.changeBoundary b fun r => { r with offersLost := min 255 (r.offersLost + 1) }
    else s.offerTrain b c t

/-- Writes the state of the outbound record that awaits an answer under a tag (R169). -/
def State.offerAnswered (s : State) (b : Fin 4) (tag : Byte) (state : OutboundState) : State :=
  s.changeBoundary b fun r =>
    { r with outbound := r.outbound.map fun o =>
        if o.tag = tag ∧ o.state = .offered then { o with state := state } else o }

/-- Removes the first outbound record that passes, with its pending entry; only a record OFFERED still has one
(R168, R169). -/
def State.dropOutbound (s : State) (b : Fin 4) (which : OutboundRec → Bool) : State :=
  match s.boundaries[b].outbound.find? which with
  | some o =>
    (if o.state = .offered then s.dropOffer b o.tag else s).changeBoundary b fun r =>
      { r with outbound := r.outbound.eraseP which }
  | none => s

/-- A CONFIRM is taken (R170). -/
def State.takeConfirm (s : State) (source index train : Nat) (tag : Byte) : State :=
  match s.boundaryAt index with
  | none => s
  | some (b, c) =>
    let r := s.boundaries[b]
    if c.neighbour ≠ source ∨ r.lastConfirm = some (train, tag) then s
    else
      let s := s.changeBoundary b fun r => { r with lastConfirm := some (train, tag) }
      if r.outbound.any (·.train == train) then s.dropOutbound b (·.train == train)
      else if r.outbound.isEmpty then s
      else (s.dropOutbound b fun _ => true).recordFault .handoverMismatch (.elem (.boundary b))

/-- The edge section becomes CLEAR: the confirm timers that have not started are started (R171). -/
def State.startConfirms (s : State) (b : Fin 4) : State :=
  s.changeBoundary b fun r =>
    { r with outbound := r.outbound.map fun o =>
        if o.confirmTimer.isNone then { o with confirmTimer := some s.cfg.confirmWait } else o }

/-- Expiry of the confirm timer of the record that holds a tag (R171). -/
def State.confirmExpires (s : State) (b : Fin 4) (tag : Byte) : State :=
  let due := fun o : OutboundRec => o.tag == tag && o.confirmTimer.isSome
  if s.boundaries[b].outbound.any due then
    (s.dropOutbound b due).recordFault .handoverUnconfirmed (.elem (.boundary b))
  else s

/-! ## Trains arriving -/

/-- What an OFFER is refused for, or `none` for ACCEPT (R172). -/
def State.offerVerdict (s : State) (source index receiving : Nat) : Option Reason :=
  if s.service ≠ .outOfService ∧ s.service ≠ .inService then some .notInService
  else
    match s.boundaryAt index with
    | none => some .unknownElement
    | some (b, c) =>
      if c.neighbour ≠ source then some .notPermitted
      else if receiving ≠ c.edge.val then some .unknownElement
      else if s.boundaries[b].direction ≠ .into then some .directionRefused
      else if 4 ≤ s.boundaries[b].inbound.length then some .queueFull
      else none

/-- An OFFER is taken (R172). -/
def State.takeOffer (s : State) (source : Nat) (tag : Byte) (index train speed receiving : Nat) : State :=
  let reason := s.offerVerdict source index receiving
  let s := match reason, s.boundaryAt index with
    | none, some (b, _) => s.changeBoundary b fun r => { r with inbound := r.inbound ++ [(⟨train, speed, tag⟩ : InboundRec)] }
    | _, _ => s
  s.post source (.offerAnswer tag index reason)

/-- An edge section becomes OCCUPIED while the boundary is IN (R173). -/
def State.arrival (s : State) (b : Fin 4) (c : BoundaryCfg) (i : Fin 16) (measured : Option Nat) : State :=
  match s.boundaries[b].inbound with
  | o :: rest =>
    let s := (s.changeBoundary b fun r => { r with inbound := rest }).attach i measured ⟨o.train, o.speed⟩
    s.post c.neighbour (.confirm o.tag c.neighbourIndex o.train)
  | [] => (s.attach i measured ⟨0, 0⟩).recordFault .unexpectedEntry (.elem (.boundary b))

/-- The boundary work for a section that becomes OCCUPIED (R168, R173). Of two boundaries with one edge section
the lower index is taken first: the model's choice (log entry 37). -/
def State.edgeOccupied (s : State) (i : Fin 16) (measured : Option Nat) : State :=
  allBoundaries.foldl (fun s b =>
    match s.cfg.boundaries[b] with
    | none => s
    | some c =>
      if c.edge ≠ i then s
      else
        match s.boundaries[b].direction with
        | .out => s.outbound b c i
        | .into => s.arrival b c i measured
        | _ => s) s

/-- The boundary work for a section that becomes CLEAR (R171). -/
def State.edgeCleared (s : State) (i : Fin 16) : State :=
  allBoundaries.foldl (fun s b =>
    match s.cfg.boundaries[b] with
    | some c => if c.edge = i then s.startConfirms b else s
    | none => s) s

/-! ## Clearing and breaks -/

/-- An accepted HANDOVER_CLEAR (R174). -/
def State.clearHandover (s : State) (b : Fin 4) : State :=
  let s := (s.boundaries[b].outbound.filter (·.state == .offered)).foldl (fun s o => s.dropOffer b o.tag) s
  s.changeBoundary b fun r =>
    { r with outbound := [], inbound := [], offersLost := 0, lastConfirm := none }

/-- A break with a station reaches a boundary (R164, R175). -/
def Work.boundaryBroken (w : Work) (b : Fin 4) (station : Nat) : Work :=
  match w.st.cfg.boundaries[b] with
  | none => w
  | some c =>
    if c.neighbour ≠ station then w
    else
      let w := w.on (·.changeBoundary b fun r => { r with outbound := [] })
      w.returnDirection b .broken

end Sys2Proof.Machine
end

