-- ==== Sys2Proof/Machine/Release.lean ====
section
/-! DEFINITION. The Route Engine at the route's controller: assessing proof and clearing (R105 to R110),
remote portions (R94 to R96, R102), freeing requirements (R116, R121, R122), rollback and full release (R112,
R113, R128), train entry, overrun and sequence faults (R117 to R124), the overlap (R125, R126), cancelling
and emergency (R127, R134, R135) and breaks (R114, R136, R154). -/

namespace Sys2Proof.Machine

/-! ## Proof and clearing -/

/-- What reaches an ENTERED route is reported, whatever it changes (R117). -/
def Work.reportEntered (w : Work) (g : Fin 8) : Work :=
  if w.st.instances[g].any (·.state == .entered) then w.on (·.place (.route g)) else w

/-- A loss of proof (R107 to R109): OPEN becomes HELD and a route in step leaves the step, with the entry
signal replaced; any other route goes on as it is. -/
def Work.loseProof (w : Work) (g : Fin 8) : Work :=
  match w.st.instances[g] with
  | none => w
  | some i =>
    if i.state = .open then
      (w.replaceSignal g).on (·.changeInstance g fun i => { i with state := .held })
    else if i.inStep then (w.replaceSignal g).on (·.changeInstance g fun i => { i with inStep := false })
    else w

/-- A granted clear request puts the route in step (R105, R110). -/
def Work.stepIntoOpen (w : Work) (g : Fin 8) (ref : RouteRef) : Work :=
  (w.on (·.changeInstance g fun i => { i with inStep := true })).clearSignal g ref

/-- The proof of a route in POSITIONING and not in step is assessed; complete, it asks for PROCEED, and is told
a refusal with its number (R57, R105). -/
def Work.assess (w : Work) (g : Fin 8) : Work :=
  match w.st.running g with
  | none => w
  | some (i, r) =>
    let ref := w.st.ownRef i.route
    if i.state = .positioning ∧ !i.inStep ∧ w.st.firstMissing g i r = none then
      match w.st.clearRefusal g ref with
      | none => w.stepIntoOpen g ref
      | some number => w.emit [.clearRefused g number]
    else w

/-- A route told that clearing was refused, with the number of the condition, goes on waiting: the refusal is
proof still absent (R57, R105). -/
def Work.toldRefused (w : Work) (_g : Fin 8) (_number : Nat) : Work := w

/-- The PROCEED lamp has proven: the route in step enters OPEN (R106). -/
def Work.opened (w : Work) (g : Fin 8) (ref : RouteRef) : Work :=
  match w.st.instances[g] with
  | some i =>
    if i.inStep ∧ ref = w.st.ownRef i.route then
      w.on (·.changeInstance g fun i => { i with state := .open, inStep := false, settingTimer := none })
    else w
  | none => w

/-- The PROCEED lamp of the route has failed: OPEN, or POSITIONING in step, becomes HELD (R107 to R109). -/
def Work.lampHolds (w : Work) (route : Nat) : Work :=
  match w.st.instanceOf route with
  | some (g, i) =>
    if i.state = .open ∨ i.inStep then
      w.on (·.changeInstance g fun i => { i with state := .held, inStep := false, settingTimer := none })
    else w
  | none => w

/-! ## Remote portions -/

/-- Changes the portions of an owner. -/
def State.changePortion (s : State) (g : Fin 8) (owner : Nat) (f : Portion → Portion) : State :=
  s.changeInstance g fun i => { i with portions := i.portions.map fun p => if p.owner = owner then f p else p }

/-- The requirements of a portion as a RESERVE lists them (R94). -/
def wireReqs (r : RouteRecord) (indices : List Nat) : List WireReq :=
  (indices.filterMap (reqAt r)).map fun q => ⟨q.elem, q.role, q.state⟩

/-- The element numbers of requirements. -/
def wireElems (r : RouteRecord) (indices : List Nat) : List Nat := (indices.filterMap (reqAt r)).map (·.elem)

/-- Why a RESERVE that cannot be placed fails its route (R94; log entry 12). -/
def reserveFailure : Unplaced → Reason
  | .absent => .peerAbsent
  | .tableFull => .tableFull
  | .noRoom => .peerAbsent

/-- The first portion not asked for is asked for; without one the route enters POSITIONING (R92, R94, R95). -/
def Work.goOn (w : Work) (g : Fin 8) : Work :=
  match w.st.running g with
  | none => w
  | some (i, r) =>
    if i.state ≠ .setting then w
    else
      match i.portions.find? fun p => p.state == .none with
      | none => w.emit [.position g]
      | some p =>
        let placed := w.st.request p.owner (.portion g i.route) fun tag =>
          .reserve tag (w.st.ownRef i.route) (wireReqs r p.indices)
        let w := w.on fun _ => placed.1
        match placed.2.2 with
        | none => w.on (·.changePortion g p.owner fun p => { p with state := .pending, tag := some placed.2.1 })
        | some why => w.emit [.rollback g (some ⟨reserveFailure why, p.indices.headD 0⟩)]

/-- The route enters POSITIONING: its flank is claimed and its proof assessed (R105). -/
def Work.enterPositioning (w : Work) (g : Fin 8) : Work :=
  match w.st.instances[g] with
  | none => w
  | some i =>
    if i.state ≠ .setting then w
    else ((w.on (·.changeInstance g fun i => { i with state := .positioning })).claimFlank g).emit [.assess g]

/-- A RESERVE ANSWER that matches its pending entry (R95, R96). An owner's index that numbers no requirement
of the portion gives a free index (log entry 4). -/
def Work.reserveAnswered (w : Work) (g : Fin 8) (route source : Nat) (tag : Byte) (reason : Option Reason)
    (index : Nat) (granted : List Nat) : Work :=
  match w.st.running g with
  | none => w
  | some (i, _) =>
    match i.portions.find? fun p => p.owner == source && p.state == .pending && p.tag == some tag with
    | none => w
    | some p =>
      match reason with
      | none =>
        (w.on fun s => (s.changePortion g source fun p => { p with state := .granted }).holdImages route source
          granted).emit [.goOn g]
      | some reason =>
        let place := if index = 0 then none else p.indices[index - 1]?
        let w := w.on (·.changePortion g source fun p => { p with state := .void })
        (w.on (·.draw 1)).emit [.rollback g (some ⟨reason, place.getD w.st.freeByte⟩)]

/-- The portion of a route that a PROVEN or LAPSE for a reservation reaches (R102). -/
def State.portionTold (s : State) (source : Nat) (tag : Byte) (ref : RouteRef) : Option (Fin 8 × RouteInst) :=
  if ref.station ≠ s.own then none
  else (s.instanceOf ref.route).filter fun x =>
    x.2.portions.any fun p => p.owner == source && p.tag == some tag && p.state.holding

/-- A PROVEN for a reservation is taken (R102). -/
def Work.portionProven (w : Work) (source : Nat) (tag : Byte) (ref : RouteRef) : Work :=
  match w.st.portionTold source tag ref with
  | none => w
  | some (g, _) =>
    ((w.on (·.changePortion g source fun p => { p with state := .proven })).reportEntered g).emit [.assess g]

/-- A requirement on a point. -/
def onPoint (q : RouteReq) : Bool := decide (16 ≤ q.elem ∧ q.elem < 24)

/-- The route indices of the points that a remote owner still lists for a route (R99, R100). -/
def listedPoints (r : RouteRecord) (i : RouteInst) (owner : Nat) : List Nat :=
  ((reqsOf r).filter fun x => x.2.station == owner && onPoint x.2 && !i.released.contains x.1).map (·.1)

/-- The route index of the element of a LAPSE(FAILED), which the telegram does not carry (R107): that of a point that
the owner lists, as only a point gives such a lapse (R100); a free value says which of several (log entry 4). -/
def State.lapsedIndex (s : State) (owner : Nat) (i : RouteInst) : Nat :=
  let points := (s.routeRecord i.route).elim [] fun r => listedPoints r i owner
  points.getD (s.freeByte % points.length) s.freeByte

/-- A LAPSE for a reservation is taken (R102): FAILED rolls back a route being set with the index of the element
(R107), and any lapse is a loss of proof. -/
def Work.portionLapsed (w : Work) (source : Nat) (tag : Byte) (ref : RouteRef) (reason : LapseReason) : Work :=
  match w.st.portionTold source tag ref with
  | none => w
  | some (g, i) =>
    let w := (w.on (·.changePortion g source fun p => { p with state := .lapsed reason })).reportEntered g
    if i.beingSet ∧ reason = .failed then
      (w.on (·.draw 1)).emit [.rollback g (some ⟨.failed, w.st.lapsedIndex source i⟩)]
    else w.loseProof g

/-! ## Proof of flank portions (R151) -/

/-- A flank portion has lost its proof: FAILED fails a route in POSITIONING, any other loss is as R107 and
R108 give. -/
def Work.flankLapsed (w : Work) (g : Fin 8) (f : Nat) (lapse : LapseReason) (reason : Reason) : Work :=
  match w.st.instances[g] with
  | some i =>
    if i.state = .positioning ∧ lapse = .failed then w.emit [.rollback g (some ⟨reason, 21 + f⟩)]
    else w.loseProof g
  | none => w

/-- The flank portion of a route that a PROVEN or LAPSE for a flank claim reaches. -/
def State.flankTold (s : State) (source : Nat) (tag : Byte) (ref : RouteRef) (elem : Nat) :
    Option (Fin 8 × (Nat × FlankEntry × FlankPortion)) :=
  if ref.station ≠ s.own then none
  else
    match s.instanceOf ref.route with
    | none => none
    | some (g, _) => ((s.flankParts g).find? fun x =>
        x.2.2.owner == source && (partReq x).elem == elem && x.2.2.tag == some tag && x.2.2.state.holding).map (g, ·)

/-- A PROVEN for a flank claim is taken. -/
def Work.flankProven (w : Work) (source : Nat) (tag : Byte) (ref : RouteRef) (elem : Nat) : Work :=
  match w.st.flankTold source tag ref elem with
  | none => w
  | some (g, x) => ((w.on (·.markFlank g [x] none)).reportEntered g).emit [.assess g]

/-- A LAPSE for a flank claim is taken. -/
def Work.flankLapse (w : Work) (source : Nat) (tag : Byte) (ref : RouteRef) (elem : Nat)
    (reason : LapseReason) : Work :=
  match w.st.flankTold source tag ref elem with
  | none => w
  | some (g, x) => ((w.on (·.markFlank g [x] (some reason))).reportEntered g).flankLapsed g x.1 reason .failed

/-- A local point tells a flank claimant of this station a result or a change of proof. `reason` is the
reason of the flank failure it may give. Of two flank entries that rest on the point the first in flank list
order gives the failure's index: the model's choice (log entry 35). -/
def Work.localFlankTold (w : Work) (route : Nat) (e : Elem) (lapse : Option LapseReason) (reason : Reason) :
    Work :=
  match w.st.instanceOf route with
  | none => w
  | some (g, _) =>
    let parts := w.st.localFlank g e
    let w := (w.on (·.markFlank g parts lapse)).reportEntered g
    match lapse, parts with
    | _, [] => w
    | none, _ => w.emit [.assess g]
    | some l, x :: _ => w.flankLapsed g x.1 l reason

/-! ## Freeing requirements (R116, R121, R122) -/

/-- The local element at a route index; index 0 is the entry signal. -/
def elemAt (r : RouteRecord) (index : Nat) : Option Elem :=
  if index = 0 then some (.signal r.entry) else (reqAt r index).bind localElem

/-- Places the RELEASE of a portion for the requirements given, and takes their images (R34, R77). -/
def State.releasePortion (s : State) (r : RouteRecord) (p : Portion) (indices : List Nat) : State :=
  if indices.isEmpty then s
  else
    (s.post p.owner (.release (p.tag.getD 0) (s.ownRef r.number) (wireElems r indices))).unholdImages r.number
      p.owner (wireElems r indices)

/-- Releases the requirements given at one owner: those not yet released of a held portion; a portion in
PENDING that is wholly among them is withdrawn with its pending entry (R112). -/
def State.releaseAt (s : State) (r : RouteRecord) (i : RouteInst) (freed : List Nat) (p : Portion) : State :=
  if p.state.holding then
    s.releasePortion r p (p.indices.filter fun k => freed.contains k && !i.released.contains k)
  else if p.state = .pending ∧ p.indices.all freed.contains then
    (p.tag.elim s s.dropRequest).releasePortion r p p.indices
  else s

/-- A portion all of whose requirements are released is VOID (R122). -/
def settledPortion (released : List Nat) (p : Portion) : Portion :=
  if (p.state.holding || p.state == .pending) && p.indices.all released.contains then { p with state := .void }
  else p

/-- Marks requirements released: the fault marks of remote ones go with it (R116, R122, R124). -/
def markReleased (r : RouteRecord) (freed : List Nat) (i : RouteInst) : RouteInst :=
  let released := i.released ++ freed.filter fun k => !i.released.contains k
  { i with
    released := released
    faultMarks := i.faultMarks.filter fun k =>
      !(freed.contains k && ((reqAt r k).any fun q => q.station != 0))
    portions := i.portions.map (settledPortion released) }

/-- Frees requirements of the route on a signal: local locks under R9, then one RELEASE for each owner in
ascending address. -/
def Work.freeIndices (w : Work) (g : Fin 8) (freed : List Nat) : Work :=
  match w.st.running g with
  | none => w
  | some (i, r) =>
    let ref := w.st.ownRef i.route
    let w := freed.foldl (fun w k =>
      match elemAt r k with
      | some e => if i.released.contains k then w else w.freeLock ref e
      | none => w) w
    let w := w.on fun s => i.portions.foldl (fun s p => s.releaseAt r i freed p) s
    w.on (·.changeInstance g (markReleased r freed))

/-- The route gives up its direction: a claim is removed, and it waits no longer (R112, R163). -/
def State.leaveDirection (s : State) (g : Fin 8) : State :=
  match s.running g with
  | none => s
  | some (i, r) =>
    match exitBoundary r with
    | none => s
    | some b =>
      let s := if i.directionHeld then s.dropDirection b i.route else s
      let s := if i.awaitingDirection then s.dropWaiting b i.route else s
      s.changeInstance g fun i => { i with directionHeld := false, awaitingDirection := false }

/-- All the requirements of a route. -/
def allIndices (r : RouteRecord) : List Nat := 0 :: (reqsOf r).map (·.1)

/-- Everything the route still holds is freed: local locks, portions, flank claims and direction (R112,
R128, R135); portions never asked for become VOID. -/
def Work.releaseEverything (w : Work) (g : Fin 8) : Work :=
  match w.st.running g with
  | none => w
  | some (i, r) =>
    let due := (allIndices r).filter fun k => !i.released.contains k
    let lost := (i.portions.filter fun p => p.state == .none || p.state == .void).flatMap (·.indices)
    let w := w.freeIndices g (due.filter fun k => !lost.contains k)
    let w := w.on (·.changeInstance g fun i =>
      { i with portions := i.portions.map fun p => if p.state = .none then { p with state := .void } else p })
    let w := w.releaseFlank g .whole fun _ => true
    w.on (·.leaveDirection g)

/-- The instance ends if it holds nothing, and else waits in EMERGENCY with its emergency timer expired
(R113, R128, R135). That a rollback stops an overlap timer that runs is the model's choice (log entry 46). -/
def State.endOrWait (s : State) (g : Fin 8) : State :=
  match s.instances[g] with
  | none => s
  | some i =>
    if s.holdsNothing i then s.endInstance g
    else s.changeInstance g fun i =>
      { i with
        state := .emergency
        settingTimer := none
        approachTimer := none
        overlapTimer := .stopped
        emergencyTimer := .expired }

/-- A full release (R128). -/
def Work.fullRelease (w : Work) (g : Fin 8) : Work :=
  let w := (w.replaceSignal g).on (·.changeInstance g fun i => { i with inStep := false })
  (w.releaseEverything g).on (·.endOrWait g)

/-- A rollback of a route in SETTING or POSITIONING (R112); a CANCEL records no failure. -/
def Work.rollback (w : Work) (g : Fin 8) (failure : Option Failure) : Work :=
  match w.st.instances[g] with
  | none => w
  | some i =>
    if i.beingSet then
      let w := (w.replaceSignal g).on (·.changeInstance g fun i => { i with inStep := false })
      let w := w.releaseEverything g
      let w := w.on (·.changeInstance g fun i =>
        { i with lastFailure := if failure.isSome then failure else i.lastFailure })
      w.on (·.endOrWait g)
    else w

/-- Expiry of the emergency timer (R135). -/
def Work.emergencyExpires (w : Work) (g : Fin 8) : Work :=
  match w.st.instances[g] with
  | none => w
  | some i =>
    if i.state = .emergency ∧ i.emergencyTimer.isRunning then (w.releaseEverything g).on (·.endOrWait g) else w

/-! ## Sectional release (R119 to R122) -/

/-- No requirement that belongs to section k is in a VOID portion. -/
def clearOfVoid (i : RouteInst) (r : RouteRecord) (k : Nat) : Bool :=
  (belongingTo r k).all fun x => !i.portions.any fun p => p.state == .void && p.indices.contains x

/-- The conditions of R120 for section k. -/
def State.releasable (s : State) (i : RouteInst) (r : RouteRecord) (k : Nat) : Bool :=
  (i.state == .entered || i.state == .emergency && i.emergencyTimer.isRunning)
    && i.faultMarks.isEmpty
    && i.progressAt k == .occupied
    && (i.progress.take k).all (· == .released)
    && (k + 1 == i.progress.length || i.progressAt (k + 1) == .occupied)
    && (pathSections r)[k]?.any (fun x => s.imageOf (sectionOf x.2) == .clear)
    && clearOfVoid i r k

/-- Section k is released (R121). That an EXIT requirement in a VOID portion holds back no release of sn, and is marked
released with it, is the model's choice (log entry 47). -/
def Work.releaseSection (w : Work) (g : Fin 8) (i : RouteInst) (r : RouteRecord) (k : Nat) : Work :=
  let freed := (freedWith r k).filter fun x => !i.released.contains x
  let w := w.on (·.changeInstance g fun i => { i with progress := i.progress.set k .released })
  let w := w.freeIndices g freed
  let w := if k + 1 = (pathSections r).length then w.on (·.leaveDirection g) else w
  w.releaseProtecting g .sectional freed

/-- The sections of an entered route are released one after the other while the conditions hold (R120). -/
def Work.releaseSections (g : Fin 8) : Nat → Work → Work
  | 0, w => w
  | n + 1, w =>
    match w.st.running g with
    | none => w
    | some (i, r) =>
      match (List.range i.progress.length).find? fun k => w.st.releasable i r k with
      | some k => Work.releaseSections g n (w.releaseSection g i r k)
      | none => w

/-- The test of R120, made for each of at most eight sections; the instance ends if it then holds nothing. -/
def Work.testRelease (w : Work) (g : Fin 8) : Work :=
  (Work.releaseSections g 8 w).on (·.endIfEmpty g)

/-! ## The overlap (R125, R126) -/

/-- The overlap requirements still held. -/
def heldOverlap (i : RouteInst) (r : RouteRecord) : List Nat :=
  ((reqsOf r).filter fun x => decide (17 ≤ x.1) && i.holds x.1 x.2).map (·.1)

/-- The overlap timer expires: the overlap is freed unless a fault mark stands (R125). -/
def Work.overlapExpires (w : Work) (g : Fin 8) : Work :=
  match w.st.running g with
  | none => w
  | some (i, r) =>
    let w := w.on (·.changeInstance g fun i => { i with overlapTimer := .expired })
    if !i.faultMarks.isEmpty then w
    else
      let freed := heldOverlap i r
      ((w.freeIndices g freed).releaseProtecting g .overlap freed).on (·.endIfEmpty g)

/-- The progress of sn has become OCCUPIED: the overlap timer starts, unless the overlap list is empty; with
T_ov 0 it expires in the event (R125). That the RELEASE of the overlap then stands before the other RELEASE telegrams
of the route in that event is the model's choice (log entry 52). -/
def Work.startOverlap (w : Work) (g : Fin 8) (r : RouteRecord) : Work :=
  if r.overlap.isEmpty then w
  else if r.tOverlap = 0 then w.overlapExpires g
  else w.on (·.changeInstance g fun i => { i with overlapTimer := .running (r.tOverlap * 100) })

/-- The lock of a local overlap element has passed from a route to a newly set one (R126). -/
def Work.takenOver (w : Work) (route : Nat) (e : Elem) : Work :=
  match w.st.instanceOf route, w.st.routeRecord route with
  | some (g, _), some r =>
    match (reqsOf r).find? fun x => decide (17 ≤ x.1) && localElem x.2 == some e with
    | none => w
    | some x =>
      let w := w.on (·.changeInstance g fun i =>
        { i with released := if i.released.contains x.1 then i.released else i.released ++ [x.1] })
      let w := w.on (·.changeInstance g fun i =>
        { i with overlapTimer := if (heldOverlap i r).isEmpty then .stopped else i.overlapTimer })
      ((w.releaseProtecting g .takeover [x.1]).loseProof g).on (·.endIfEmpty g)
  | _, _ => w

/-! ## Train entry, overrun and sequence faults -/

/-- The route is finished off (R118, R134, R153): it waits for no direction, what is PENDING is withdrawn
with a RELEASE, what was never asked for becomes VOID, and no flank claim is placed any more. -/
def Work.finishOff (w : Work) (g : Fin 8) : Work :=
  match w.st.running g with
  | none => w
  | some (i, r) =>
    let w := if i.awaitingDirection then
        w.on fun s =>
          let s := (exitBoundary r).elim s fun b => s.dropWaiting b i.route
          s.changeInstance g fun i => { i with awaitingDirection := false }
      else w
    let pending := (i.portions.filter (·.state == .pending)).flatMap (·.indices)
    let w := w.freeIndices g pending
    let w := w.on (·.changeInstance g fun i =>
      { i with portions := i.portions.map fun p => if p.state = .none then { p with state := .void } else p })
    w.stopFlank g

/-- Progress s1 becomes OCCUPIED. -/
def enterProgress (r : RouteRecord) (w : Work) (g : Fin 8) : Work :=
  let w := w.on (·.changeInstance g fun i => { i with progress := i.progress.set 0 .occupied })
  if (pathSections r).length = 1 then w.startOverlap g r else w

/-- An overrun (R118). That the overlap freed at once with T_ov 0 is freed before the portions in PENDING are withdrawn
is the model's choice (log entry 52). -/
def Work.overrun (w : Work) (g : Fin 8) (r : RouteRecord) : Work :=
  let w := (w.replaceSignal g).on fun s =>
    (s.changeInstance g fun i =>
      { i with inStep := false, settingTimer := none, approachTimer := none, state := .entered }).recordFault
      .signalOverrun (.elem (.signal g))
  (enterProgress r w g).finishOff g

/-- s1 becomes OCCUPIED for a route that is not entered (R117, R118, R135). -/
def Work.trainEntry (w : Work) (g : Fin 8) (i : RouteInst) (r : RouteRecord) : Work :=
  match i.state with
  | .open =>
    enterProgress r ((w.replaceSignal g).on (·.changeInstance g fun i =>
      { i with state := .entered, settingTimer := none })) g
  | .emergency => enterProgress r (w.on (·.recordFault .signalOverrun (.elem (.signal g)))) g
  | .entered => w
  | _ => w.overrun g r

/-- Records the sequence fault of a section: the flag of a local one that a route of this station still locks,
the route subject for a remote one; the flag already set records nothing (R28, R123; log entry 17). -/
def State.sequenceFault (s : State) (g : Fin 8) (x : SectionRef) : State :=
  if x.station = 0 then
    match elemOfNumber x.index with
    | some (.track t) =>
      if s.sections[t].sequenceFault || !(s.sections[t].lock.any fun l => l.ref.station == s.own) then s
      else (s.setSection t { s.sections[t] with sequenceFault := true }).recordFault .sequenceFault
        (.elem (.track t))
    | _ => s
  else s.recordFault .sequenceFault (.route g)

/-- Sets the fault mark of a section out of sequence; a mark already set is not set twice (R123). -/
def Work.markFault (w : Work) (g : Fin 8) (i : RouteInst) (index : Nat) (x : SectionRef) : Work :=
  if i.faultMarks.contains index then w
  else w.on fun s =>
    (s.changeInstance g fun i => { i with faultMarks := i.faultMarks ++ [index] }).sequenceFault g x

/-- The progress of path section k becomes OCCUPIED; one already OCCUPIED or RELEASED is not changed (R119). -/
def Work.occupyPath (w : Work) (g : Fin 8) (i : RouteInst) (r : RouteRecord) (k : Nat) : Work :=
  if i.progressAt k ≠ .notReached then w
  else
    let w := w.on (·.changeInstance g fun i => { i with progress := i.progress.set k .occupied })
    if k + 1 = (pathSections r).length then w.startOverlap g r else w

/-- Path section k (counted from 0, not s1) becomes OCCUPIED: in an entered route in its turn or out of
sequence, in one not entered out of sequence while the route holds it (R119, R123). -/
def Work.pathOccupied (w : Work) (g : Fin 8) (i : RouteInst) (r : RouteRecord) (k index : Nat) (q : RouteReq) :
    Work :=
  let outOfSequence := if i.entered then i.progressAt (k - 1) == .notReached else i.holds index q
  if outOfSequence then (w.markFault g i index (sectionOf q)).occupyPath g i r k
  else if i.entered then w.occupyPath g i r k
  else w

/-- An overlap section becomes OCCUPIED (R123). -/
def Work.overlapOccupied (w : Work) (g : Fin 8) (i : RouteInst) (r : RouteRecord) (index : Nat) (q : RouteReq) :
    Work :=
  if i.holds index q && (!i.entered || i.progressAt ((pathSections r).length - 1) == .notReached) then
    w.markFault g i index (sectionOf q)
  else w

/-- A section of the route on a signal becomes OCCUPIED (R117 to R123). A section that the route does not
name does nothing. That the overlap freed at once with T_ov 0 (R125) is freed before sections are released (R120) is
the model's choice (log entry 52). -/
def Work.sectionTaken (w : Work) (g : Fin 8) (x : SectionRef) : Work :=
  match w.st.running g with
  | none => w
  | some (i, r) =>
    match pathPlace r x, overlapIndex r x with
    | some 0, _ => (if i.entersAt r x then w.trainEntry g i r else w).testRelease g
    | some (k + 1), _ =>
      match (pathSections r)[k + 1]? with
      | some y => ((w.pathOccupied g i r (k + 1) y.1 y.2).loseProof g).testRelease g
      | none => w
    | none, some index =>
      match reqAt r index with
      | some q => ((w.overlapOccupied g i r index q).loseProof g).testRelease g
      | none => w
    | none, none => w

/-- A remote section of the route on a signal becomes known: that starts no release (R119), and the proof of a
route in POSITIONING is assessed (R105). -/
def Work.sectionKnown (w : Work) (g : Fin 8) (x : SectionRef) : Work :=
  match w.st.running g with
  | none => w
  | some (_, r) => if (pathPlace r x).isSome || (overlapIndex r x).isSome then w.emit [.assess g] else w

/-- A section of the route on a signal becomes CLEAR: sections may be released (R120), and the proof of a
route in POSITIONING is assessed for a change of a remote image (R105). -/
def Work.sectionFreed (w : Work) (g : Fin 8) (x : SectionRef) : Work :=
  match w.st.running g with
  | none => w
  | some (_, r) =>
    if (pathPlace r x).isSome || (overlapIndex r x).isSome then
      let w := w.testRelease g
      if x.station = 0 then w else w.emit [.assess g]
    else w

/-! ## Cancelling and emergency -/

/-- An accepted CANCEL acts by the route's state (R127). -/
def Work.cancel (w : Work) (g : Fin 8) (i : RouteInst) (r : RouteRecord) : Work :=
  match i.state with
  | .setting => w.rollback g none
  | .positioning => w.rollback g none
  | .open | .held =>
    if w.st.approachOccupied ⟨0, r.approach.val⟩ || w.st.approachOccupied r.distant then
      let d := w.st.approachDelay r
      (w.replaceSignal g).on (·.changeInstance g fun i =>
        { i with
          inStep := false
          state := .cancelling
          delay := some d.1
          speedUsed := d.2
          approachTimer := some (d.1 * 100) })
    else w.fullRelease g
  | _ => w

/-- An EMERGENCY_RELEASE of a route not in EMERGENCY (R134). -/
def Work.emergencyRelease (w : Work) (g : Fin 8) (i : RouteInst) (r : RouteRecord) : Work :=
  let w := (w.replaceSignal g).on (·.changeInstance g fun i =>
    { i with
      inStep := false
      settingTimer := none
      approachTimer := none
      overlapTimer := .stopped
      emergencyTimer := .running (r.tMax * 100)
      state := .emergency })
  if i.beingSet then w.finishOff g else w

/-- A withdrawal from service takes a route by its state (R197). -/
def Work.withdrawRoute (w : Work) (g : Fin 8) : Work :=
  match w.st.instances[g] with
  | none => w
  | some i => if i.beingSet then w.rollback g (some ⟨.notInService, 0⟩) else w.loseProof g

/-! ## Breaks (R114, R136, R137, R154) -/

/-- A break with an owner takes a route that is past setting to EMERGENCY (R136). -/
def Work.breakToEmergency (w : Work) (g : Fin 8) : Work :=
  (w.replaceSignal g).on fun s => s.changeInstance g fun i =>
    if i.state = .emergency then i
    else
      { i with
        inStep := false
        approachTimer := none
        overlapTimer := if i.state = .entered then .stopped else i.overlapTimer
        emergencyTimer := .running s.cfg.orphanTime
        state := .emergency }

/-- A break with a station reaches the route on a signal: in one being set the loss of a portion asked for or held
fails it (R114); one past setting is taken to EMERGENCY where the station owns a portion, in whatever state (R136;
log entry 44). -/
def Work.breakRoute (w : Work) (g : Fin 8) (station : Nat) : Work :=
  match w.st.instances[g] with
  | none => w
  | some i =>
    let lost := fun p : Portion => p.owner == station && (p.state == .pending || p.state.holding)
    let voided := i.voidFlank station
    let w := w.on (·.setInstance g (some { voided.1 with
      portions := i.portions.map fun p => if lost p then { p with state := .void } else p }))
    if !i.beingSet && i.portions.any (·.owner == station) then (w.breakToEmergency g).on (·.endIfEmpty g)
    else
      match i.portions.find? lost with
      | some p => w.rollback g (some ⟨.peerAbsent, p.indices.headD 0⟩)
      | none => (if voided.2 then w.loseProof g else w).on (·.endIfEmpty g)

/-! ## SET (R91, R92) -/

/-- The checks 4 to 6 of R91: the boundary's queue and claims, then the presence of every owner and, where
the direction must be asked for, of the neighbour (log entry 29). -/
def State.setRefusal (s : State) (r : RouteRecord) : Option Failure :=
  let absent := (ownersOf r).find? fun o => !s.isPresent o
  let missing := absent.map fun o => (⟨.peerAbsent, (ownedIndices r o).headD 0⟩ : Failure)
  match exitBoundary r with
  | none => missing
  | some b =>
    let x := s.boundaries[b]
    let asks := x.direction != .out
    if asks && !x.inbound.isEmpty then some ⟨.directionRefused, boundaryIndex r⟩
    else if 4 ≤ x.claims.length + x.waiting.length then some ⟨.tableFull, boundaryIndex r⟩
    else if missing.isSome then missing
    else if asks && !(s.cfg.boundaries[b].any fun c => s.isPresent c.neighbour) then
      some ⟨.peerAbsent, boundaryIndex r⟩
    else none

/-- The overlap locks that a set takes over: the old route and the element (R16). That the old routes are reached in
the order of the new route's requirement indices is the model's choice (log entry 52). -/
def State.takeovers (s : State) (r : RouteRecord) : List (Nat × Elem) :=
  (localPart r).filterMap fun q =>
    match elemOfNumber q.elem with
    | some e => if s.takesOver (some r.entry) e q then (s.lockOf e).map fun l => (l.ref.route, e) else none
    | none => none

/-- An admitted SET (R92): the locks are written, the instance is created, the overlaps taken over leave their
routes (R126) one after the other (the model's choice, log entry 52), the command is answered, and the route goes on
to its direction or its first portion. -/
def Work.startRoute (w : Work) (r : RouteRecord) (dest : Nat) (tag : Byte) : Work :=
  let old := w.st.takeovers r
  let ref := w.st.ownRef r.number
  let w := w.writeLocks ref (localPart r)
  let w := w.on fun s => s.setInstance r.entry (some (newInstance r s.cfg.settingLimit))
  let w := old.foldl (fun w x => w.takenOver x.1 x.2) w
  let w := w.on (·.answerDesk dest tag 1 none)
  match exitBoundary r with
  | some b =>
    (w.on (·.changeInstance r.entry fun i => { i with awaitingDirection := true })).askDirection b r.number
  | none => w.emit [.goOn r.entry]

/-- A re-clear of a HELD route (R110). -/
def Work.reclear (w : Work) (g : Fin 8) (i : RouteInst) (r : RouteRecord) (dest : Nat) (tag : Byte) : Work :=
  let ref := w.st.ownRef i.route
  match w.st.firstMissing g i r with
  | some index => w.on (·.answerDesk dest tag 1 (some .notProven) (some index))
  | none =>
    match w.st.clearRefusal g ref with
    | none => (w.on (·.answerDesk dest tag 1 none)).stepIntoOpen g ref
    | some number =>
      (w.on (·.answerDesk dest tag 1 (some .notProven) (some 0))).emit [.clearRefused g number]

/-- The Handover Unit tells a route the outcome of its wait (R93). -/
def Work.directionTold (w : Work) (route : Nat) (told : DirectionTold) : Work :=
  match w.st.instanceOf route, w.st.routeRecord route with
  | some (g, i), some r =>
    if i.state = .setting ∧ i.awaitingDirection then
      let w := w.on (·.changeInstance g fun i =>
        { i with awaitingDirection := false, directionHeld := told == .granted })
      let fail := fun reason : Reason => Task.rollback g (some ⟨reason, boundaryIndex r⟩)
      match told with
      | .granted => w.emit [.goOn g]
      | .refused => w.emit [fail .directionRefused]
      | .contended => w.emit [fail .contended]
      | .failed => w.emit [fail .directionRefused]
      | .broken => w.emit [fail .peerAbsent]
    else w
  | _, _ => w

end Sys2Proof.Machine
end

