-- ==== Sys2Proof/Machine/Reservations.lean ====
section
/-! DEFINITION. The Route Engine at the owner: RESERVE, the Reservation List, its proof, RELEASE and orphan
expiry (R97 to R101, R138, R139). -/

namespace Sys2Proof.Machine

/-- An ACTIVE entry of the Reservation List. -/
def State.activeReservation (s : State) (ref : RouteRef) : Option Reservation :=
  (s.reservation ref).filter fun r => r.state == .active

/-- Entries whose element list is empty end (R99). -/
def State.endReservation (s : State) (ref : RouteRef) : State :=
  { s with reservations := s.reservations.filter fun r => !(r.ref == ref && r.elems.isEmpty) }

/-- Frees every element of an entry in list order and removes its exit signal (R97, R139). -/
def Work.freeReservation (w : Work) (ref : RouteRef) : Work :=
  match w.st.reservation ref with
  | none => w
  | some r =>
    let w := r.elems.foldl (fun w e => w.freeLock ref e.elem) w
    w.on fun s => (s.changeReservation ref fun r => { r with exitSignal := none }).endReservation ref

/-- The first requirement of a RESERVE that no reservation may have, counted from 1: an ENTRY, a second EXIT
or a boundary (check 3 of R97). -/
def offending (index : Nat) (exitSeen : Bool) : List WireReq → Option Nat
  | [] => none
  | q :: qs =>
    if q.role = .entry ∨ (32 ≤ q.elem ∧ q.elem ≤ 35) ∨ (q.role = .exit ∧ exitSeen = true) then some index
    else offending (index + 1) (exitSeen || q.role == .exit) qs

/-- Check 3 of R97: 1 to 20 requirements, none of them offending. -/
def shapeFault (reqs : List WireReq) : Option Failure :=
  if reqs.length < 1 ∨ 20 < reqs.length then some ⟨.badTelegram, 0⟩
  else (offending 1 false reqs).map fun k => ⟨.badTelegram, k⟩

/-- The requirements of a RESERVE as a set, numbered from 1 (R14). -/
def reserveSet (reqs : List WireReq) : List LockReq :=
  (reqs.zipIdx 1).map fun x => ⟨x.2, x.1.elem, x.1.role, x.1.state⟩

/-- The checks 1 to 3 of R97. -/
def State.reserveRefusal (s : State) (source : Nat) (ref : RouteRef) (reqs : List WireReq) : Option Failure :=
  if s.service ≠ .inService then some ⟨.notInService, 0⟩
  else if ref.station ≠ source then some ⟨.notPermitted, 0⟩
  else shapeFault reqs

/-- The checks 4 to 6 of R97. -/
def State.admissionRefusal (s : State) (ref : RouteRef) (reqs : List WireReq) : Option Failure :=
  if (s.reservation ref).isSome then some ⟨.duplicate, 0⟩
  else if 16 ≤ s.reservations.length then some ⟨.tableFull, 0⟩
  else s.judge none [] (reserveSet reqs)

/-- The element list of an admitted RESERVE: each locked requirement in the telegram's order (R98). -/
def lockedElems (reqs : List WireReq) : List ReservedElem :=
  (reqs.filter (·.role != .exit)).filterMap fun q =>
    (elemOfNumber q.elem).map fun e => ⟨e, q.role, q.state⟩

/-- The exit signal of a RESERVE (R98). -/
def reservedExit (reqs : List WireReq) : Option (Fin 8) :=
  (reqs.find? (·.role == .exit)).bind fun q =>
    match elemOfNumber q.elem with
    | some (.signal g) => some g
    | _ => none

/-- An admitted RESERVE (R98): locks, entry, GRANTED, then the assessment of its proof. An entry whose only
requirement is an EXIT, which lists no element from the start, is kept: the model's choice (log entry 33). -/
def Work.admitReserve (w : Work) (source : Nat) (tag : Byte) (ref : RouteRef) (reqs : List WireReq) : Work :=
  let w := w.writeLocks ref (reserveSet reqs)
  let elems := lockedElems reqs
  let entry : Reservation := ⟨ref, tag, elems, reservedExit reqs, .none, .active⟩
  let w := w.on fun s => { s with reservations := s.reservations ++ [entry] }
  let w := (w.postProof source (.reserveAnswer tag ref none w.st.freeByte (elems.map fun e => elemNumber e.elem))).on
    (·.draw 1)
  w.emit [.assessReservation ref]

/-- A RESERVE is taken (R97, R98): an ACTIVE entry of the same route is superseded before check 4. -/
def Work.takeReserve (w : Work) (source : Nat) (tag : Byte) (ref : RouteRef) (reqs : List WireReq) : Work :=
  let refuse := fun (w : Work) (f : Failure) =>
    w.postProof source (.reserveAnswer tag ref (some f.reason) f.index [])
  match w.st.reserveRefusal source ref reqs with
  | some f => refuse w f
  | none =>
    let w := if (w.st.activeReservation ref).isSome then w.freeReservation ref else w
    match w.st.admissionRefusal ref reqs with
    | some f => refuse w f
    | none => w.admitReserve source tag ref reqs

/-- Frees one listed element of an entry, or removes a listed exit signal (R101). -/
def Work.releaseElem (ref : RouteRef) (w : Work) (n : Nat) : Work :=
  match elemOfNumber n, w.st.reservation ref with
  | some e, some r =>
    let w := match e with
      | .signal g =>
        if r.exitSignal = some g then w.on (·.changeReservation ref fun r => { r with exitSignal := none }) else w
      | _ => w
    if r.elems.any (·.elem == e) then w.freeLock ref e else w
  | _, _ => w

/-- A RELEASE is taken (R101); the proof of what is left is assessed (R100). -/
def Work.takeRelease (w : Work) (source : Nat) (tag : Byte) (ref : RouteRef) (elems : List Nat) : Work :=
  match w.st.activeReservation ref with
  | some r =>
    if ref.station = source ∧ r.tag = tag then
      let w := (elems.foldl (Work.releaseElem ref) w).on (·.endReservation ref)
      w.emit [.assessReservation ref]
    else w
  | none => w

/-- An element of a reservation is proven (R100). -/
def State.reservedProven (s : State) (e : ReservedElem) : Bool :=
  match e.elem with
  | .track i => !s.sections[i].occupied && s.sections[i].supervision == .proven
  | .points p => s.points[p].drive == .rest && s.points[p].supervision == .proven
  | .signal g => s.signals[g].aspect == .stop
  | .boundary _ => true

/-- The proof of a reservation is complete (R100). -/
def State.reservationProven (s : State) (r : Reservation) : Bool :=
  r.elems.all s.reservedProven && (match r.exitSignal with | some g => s.signals[g].exitProof | none => true)

/-- The proof of a reservation is assessed: found complete, PROVEN is sent and the mark is PROVEN; one event
sends at most one PROVEN or LAPSE for an entry (R100). -/
def Work.assessReservation (w : Work) (ref : RouteRef) : Work :=
  match w.st.activeReservation ref with
  | some r =>
    if w.st.reservationProven r && r.mark != .proven && !w.said.contains (ref, none) then
      let w := { w with said := (ref, none) :: w.said }
      (w.on (·.changeReservation ref fun r => { r with mark := .proven })).postProof ref.station
        (.proven r.tag ref none)
    else w
  | none => w

/-- A reservation lapses: FAILED whatever its mark, DETECTION and LAMP only from PROVEN (R100). -/
def Work.lapseReservation (w : Work) (ref : RouteRef) (reason : LapseReason) : Work :=
  match w.st.activeReservation ref with
  | some r =>
    if (reason == .failed || r.mark == .proven) && !w.said.contains (ref, none) then
      let w := { w with said := (ref, none) :: w.said }
      (w.on (·.changeReservation ref fun r => { r with mark := .lapsed })).postProof ref.station
        (.lapse r.tag ref none reason)
    else w
  | none => w

/-- Expiry of the orphan timer of a reservation: its elements are freed in list order (R139). -/
def Work.orphanExpires (w : Work) (ref : RouteRef) : Work :=
  match w.st.reservation ref with
  | some r =>
    match r.state with
    | .orphaned (some _) =>
      (w.on (·.changeReservation ref fun r => { r with state := .orphaned none })).freeReservation ref
    | _ => w
  | none => w

end Sys2Proof.Machine
end

