-- ==== Sys2Proof/Machine/Peers.lean ====
section
/-! DEFINITION. The relationships with peers (R83 to R87): PRESENCE taken, silence, forced breaks, and a break
with what it removes and whom it reaches. -/

namespace Sys2Proof.Machine

/-- The peers whose muting mark is set after a PRESENCE was placed are noted on it (R86). -/
def State.notePresences (s : State) (station : Nat) : State :=
  { s with sendQueue := s.sendQueue.map fun e =>
      if bodyKind e.telegram.body = .presence then { e with mutedLater := e.mutedLater ++ [station] } else e }

/-- A forced break: the peer is LOST, its silence timer stops and its muting mark is PENDING; from PRESENT
this is a break (R86). A station without a peer table entry is not affected. -/
def Work.forceBreak (w : Work) (station : Nat) : Work :=
  match w.st.peer station with
  | none => w
  | some p =>
    let w := w.on fun s => (s.changePeer station fun p =>
      { p with state := .lost, silence := none, muting := .pending }).notePresences station
    if p.state = .present then w.emit [.breakWith station] else w

/-- What a break removes and orphans at once (R34, R87, R138, R155). -/
def State.cutOff (s : State) (station : Nat) : State :=
  let s := { s with requests := s.requests.filter (·.dest != station) }
  let s := (s.unsend (·.telegram.dest == station)).forgetImages station
  { s with
    reservations := s.reservations.map fun r =>
      if r.ref.station = station ∧ r.state = .active then { r with state := .orphaned (some s.cfg.orphanTime) }
      else r
    register := s.register.map fun r =>
      if r.ref.station = station ∧ r.state = .active then { r with state := .orphaned (some s.cfg.orphanTime) }
      else r }

/-- A break with a peer (R87), told to every route, every boundary and the Report Unit. -/
def Work.breakWith (w : Work) (station : Nat) : Work :=
  (w.on (·.cutOff station)).emit
    (allEight.map (.breakRoute · station) ++ allBoundaries.map (.breakBoundary · station)
      ++ [.recordBreak station])

/-- The refresh notices for a peer that has entered PRESENT, in ascending element number (R31). -/
def State.refresh (s : State) (station : Nat) : State :=
  let s := allSections.foldl (fun s i =>
    if s.cfg.sections[i].any (·.watchers.contains station) then s.post station (s.sectionNotice i true) else s) s
  allEight.foldl (fun s g =>
    if s.cfg.signals[g].any (·.watchers.contains station) then s.post station (s.signalNotice g true) else s) s

/-- A peer enters a state; entering PRESENT begins a fresh relationship and leaving it is a break (R84). -/
def Work.enterPeer (w : Work) (station : Nat) (old new : PeerState) : Work :=
  let w := w.on (·.changePeer station fun p => { p with state := new })
  if new = .present ∧ old ≠ .present then
    w.on fun s => (s.changePeer station fun p => { p with lastRequest := none }).refresh station
  else if old = .present ∧ new ≠ .present then w.emit [.breakWith station]
  else w

/-- A PRESENCE from a station (R83, R84): ignored from one that is not configured, and from a peer whose
muting mark is PENDING; an ANNOUNCED mark is cleared (R86). -/
def Work.takePresence (w : Work) (source : Nat) (view : BitVec 24) : Work :=
  match w.st.peer source with
  | none => w
  | some p =>
    if p.muting = .pending then w
    else
      let w := w.on fun s => s.changePeer source fun p =>
        { p with muting := .absent, silence := some (3 * s.presencePeriod) }
      let hearsUs := decide (0 < w.st.own) && view.getLsbD (w.st.own - 1)
      w.enterPeer source p.state (if hearsUs then .present else .half)

/-- Expiry of a peer's silence timer, where it runs (R84). -/
def Work.silenceExpires (w : Work) (station : Nat) : Work :=
  match w.st.peer station with
  | none => w
  | some p =>
    if p.silence.isSome then
      (w.on (·.changePeer station fun p => { p with silence := none })).enterPeer station p.state .lost
    else w

/-! ## Answers and failed requests (R79, R80) -/

/-- A request fails at its owner as if its answer had timed out (R79, R96, R146, R162, R169). -/
def Work.requestFailed (w : Work) (q : Request) : Work :=
  match q.subject with
  | .portion g route =>
    match w.st.running g with
    | some (i, _) =>
      match i.portions.find? fun p => p.owner == q.dest && p.state == .pending && p.tag == some q.tag with
      | some p => if i.route = route then w.emit [.rollback g (some ⟨.peerAbsent, p.indices.headD 0⟩)] else w
      | none => w
    | none => w
  | .flank g route elems => w.flankFailed g route q.dest q.tag elems
  | .direction b => w.returnDirection b .failed
  | .offer b => w.on (·.offerAnswered b q.tag (.unanswered none))

/-- The pending entry that an answer matches (R80): source, tag, and what `fits` asks of kind and subject. -/
def State.matching (s : State) (source : Nat) (tag : Byte) (fits : RequestSubject → Bool) : Option Request :=
  s.requests.find? fun q => q.tag == tag && q.dest == source && fits q.subject

/-- A RESERVE ANSWER (R80, R95, R96): a late grant is returned by RELEASE. -/
def Work.takeReserveAnswer (w : Work) (source : Nat) (tag : Byte) (ref : RouteRef) (reason : Option Reason)
    (index : Nat) (granted : List Nat) : Work :=
  let named := fun q : RequestSubject => match q with
    | .portion _ route => ref == w.st.ownRef route
    | _ => false
  match w.st.matching source tag named with
  | some ⟨_, _, .portion g route, _⟩ =>
    (w.on (·.dropRequest tag)).reserveAnswered g route source tag reason index granted
  | _ => if reason.isNone then w.on (·.post source (.release tag ref granted)) else w

/-- A FLANK ANSWER (R80, R144): late granted verdicts are returned by FLANK RELEASE. -/
def Work.takeFlankAnswer (w : Work) (source : Nat) (tag : Byte) (ref : RouteRef) (reason : Option Reason)
    (verdicts : List (Nat × Option Reason)) : Work :=
  let named := fun q : RequestSubject => match q with
    | .flank _ route _ => ref == w.st.ownRef route
    | _ => false
  match w.st.matching source tag named with
  | some ⟨_, _, .flank g route elems, _⟩ =>
    (w.on (·.dropRequest tag)).flankAnswered g route source tag elems reason verdicts
  | _ =>
    let granted := (verdicts.filter (·.2.isNone)).map (·.1)
    if granted.isEmpty then w else w.on (·.post source (.flankRelease tag ref granted))

/-- The boundary that an answer's index names: it echoes the neighbour's index (R158). -/
def State.echoes (s : State) (b : Fin 4) (index : Nat) : Bool :=
  s.cfg.boundaries[b].any (·.neighbourIndex == index)

/-- A DIRECTION ANSWER (R80, R162): a late one is ignored. -/
def Work.takeDirectionAnswer (w : Work) (source : Nat) (tag : Byte) (index : Nat) (reason : Option Reason) :
    Work :=
  let named := fun q : RequestSubject => match q with
    | .direction b => w.st.echoes b index
    | _ => false
  match w.st.matching source tag named with
  | some ⟨_, _, .direction b, _⟩ => (w.on (·.dropRequest tag)).directionAnswered b reason
  | _ => w

/-- An OFFER ANSWER (R80, R169): a late one is ignored. -/
def Work.takeOfferAnswer (w : Work) (source : Nat) (tag : Byte) (index : Nat) (reason : Option Reason) : Work :=
  let named := fun q : RequestSubject => match q with
    | .offer b => w.st.echoes b index
    | _ => false
  match w.st.matching source tag named with
  | some ⟨_, _, .offer b, _⟩ =>
    (w.on (·.dropRequest tag)).on fun s => s.offerAnswered b tag (match reason with
      | none => .accepted
      | some r => .unanswered (some r))
  | _ => w

/-- A telegram of this station has been given up (R73): a tagged request fails at its owner, a class 0
telegram forces a break with its destination. -/
def Work.givenUp (w : Work) (e : SendEntry) : Work :=
  match e.pendingTag with
  | some tag =>
    match w.st.requests.find? (·.tag == tag) with
    | some q =>
      (w.on fun s => { s with requests := s.requests.filter (·.tag != tag) }).emit [.requestFailed q]
    | none => w
  | none => if telegramClass e.telegram = 0 then w.emit [.forceBreak e.telegram.dest] else w

end Sys2Proof.Machine
end

