-- ==== Sys2Proof/Machine/Sections.lean ====
section
/-! DEFINITION. The occupancy filter of a section (R21 to R23), and the change of a section's occupancy with
what it is passed to (R24): locks (R9), speed measurement (R130, R131), describer (R165, R166), boundaries
(R168, R171, R173), points waiting in DEAD (R41), routes (R117 to R123) and reservations (R100). The other
stations' sections follow (R33). -/

namespace Sys2Proof.Machine

/-! ## The filter -/

/-- What a sample or an expiry makes of a section's occupancy field. -/
inductive FilterChange where
  | none
  | becameOccupied
  | becameClear
  deriving DecidableEq, Repr

/-- The filter becomes CLEAR: from OCCUPIED and from UNDECIDED the occupancy field becomes CLEAR (R22, R23). -/
def SectionRec.filterClears (r : SectionRec) : SectionRec × FilterChange :=
  ({ r with filter := .clear, occupiedRun := 0, clearTimer := none }, .becameClear)

/-- A sample given to the filter (R21 to R23). -/
def SectionRec.sample (c : SectionCfg) (occupied : Bool) (r : SectionRec) : SectionRec × FilterChange :=
  let run := r.occupiedRun + 1
  match r.filter, occupied with
  | .clear, true =>
    if c.samples ≤ run then ({ r with filter := .occupied, occupiedRun := 0 }, .becameOccupied)
    else ({ r with occupiedRun := run }, .none)
  | .clear, false => ({ r with occupiedRun := 0 }, .none)
  | .occupied, true => ({ r with clearTimer := none }, .none)
  | .occupied, false =>
    if r.clearTimer.isSome then (r, .none)
    else if c.clearDelay = 0 then r.filterClears
    else ({ r with clearTimer := some (10 * c.clearDelay) }, .none)
  | .undecided, true =>
    if c.samples ≤ run then ({ r with filter := .occupied, occupiedRun := 0, clearTimer := none }, .none)
    else ({ r with occupiedRun := run, clearTimer := none }, .none)
  | .undecided, false =>
    if r.clearTimer.isSome then ({ r with occupiedRun := 0 }, .none)
    else if c.clearDelay = 0 then r.filterClears
    else ({ r with occupiedRun := 0, clearTimer := some (10 * c.clearDelay) }, .none)

/-- Expiry of the clear timer, where it runs (R22, R23). -/
def SectionRec.clearExpiry (r : SectionRec) : SectionRec × FilterChange :=
  if r.clearTimer.isSome then r.filterClears else (r, .none)

/-! ## The change of occupancy (R24) -/

/-- The reservations that list an element. -/
def State.listing (s : State) (e : Elem) : List RouteRef :=
  (s.reservations.filter fun r => r.elems.any (·.elem == e)).map (·.ref)

/-- The routes are told of a section, then the reservations that list it are assessed (R24, R100). -/
def sectionTasks (i : Fin 16) (tell : Fin 8 → SectionRef → Task) (listed : List RouteRef) : List Task :=
  allEight.map (tell · ⟨0, i.val⟩) ++ listed.map .assessReservation

/-- A section has become OCCUPIED: the entry capture is written; the speed is measured (R130), the describer
steps (R166), and the boundaries take the record as the step left it (R168, R173). -/
def Work.sectionOccupied (w : Work) (i : Fin 16) : Work :=
  let w := w.on fun s => s.setSection i
    { s.sections[i] with entryCapture := some ⟨s.captureTimer, false⟩ }
  let measured := w.st.measured i
  let w := w.on fun s => measured.elim s (s.writeSpeed i)
  let w := w.on (·.describerStep i measured)
  let w := w.on (·.edgeOccupied i measured)
  w.emit (sectionTasks i .routeOccupied (w.st.listing (.track i)))

/-- The speed on an approach section's record ends with its occupation (R131). -/
def State.endSpeed (s : State) (i : Fin 16) : State :=
  if s.cfg.routes.any (·.approach == i) then
    s.setTrain i (s.sections[i].train.map fun t => { t with speed := 0 })
  else s

/-- The record of a section that clears without a route lock is erased (R165). -/
def State.eraseUnlocked (s : State) (i : Fin 16) : State :=
  if s.sections[i].lock.isNone then s.setTrain i none else s

/-- The points lying in a section, in ascending index: that they are tested in this order where the section
becomes CLEAR (R41) is the model's choice (log entry 6). -/
def State.pointsIn (s : State) (i : Fin 16) : List (Fin 8) :=
  allEight.filter fun p => s.cfg.points[p].any (·.track == i)

/-- A point in a section that has become CLEAR is tested in DEAD (R41). -/
def Work.testPoint (w : Work) (p : Fin 8) : Work :=
  w.takePoint p (w.st.points[p].deadTest (w.st.pointCfg p) (w.st.pointOccupied p))

/-- A section has become CLEAR: release-pending locks go (R9), the record is erased (R165, R131), points in
DEAD are tested (R41), and the confirm timers start (R171). The reservations that listed the section as it
cleared are assessed, the one whose release-pending lock on it has just gone among them (R100). -/
def Work.sectionCleared (w : Work) (i : Fin 16) : Work :=
  let listed := w.st.listing (.track i)
  let w := w.removePending i
  let w := w.on fun s => (s.endSpeed i).eraseUnlocked i
  let w := (w.st.pointsIn i).foldl Work.testPoint w
  let w := w.on (·.edgeCleared i)
  w.emit (sectionTasks i .routeCleared listed)

/-- Takes what the filter has made of a section. -/
def Work.takeFilter (w : Work) (i : Fin 16) (step : SectionRec × FilterChange) : Work :=
  let w := w.on (·.setSection i step.1)
  match step.2 with
  | .none => w
  | .becameOccupied => w.sectionOccupied i
  | .becameClear => w.sectionCleared i

/-! ## Notices of other stations' sections (R33) -/

/-- What a notice makes of an entry: the image, and the converted capture by its age. -/
def RemoteEntry.notified (now : Stamp) (occupied proven : Bool) (age : Nat) (e : RemoteEntry) : RemoteEntry :=
  { e with
    image := if occupied || !proven then .occupied else .clear
    capture := if age < 60000 then some ⟨now - BitVec.ofNat 16 age, false⟩ else none }

/-- A STATE NOTICE is taken; one for a signal or for a section that no route names is discarded (R33, R63). -/
def Work.takeNotice (w : Work) (source elem : Nat) (occupied proven : Bool) (age : Nat) : Work :=
  let x : SectionRef := ⟨source, elem⟩
  match w.st.remoteEntry x with
  | none => w
  | some e =>
    let new := e.notified w.st.captureTimer occupied proven age
    let w := w.on (·.changeRemote x fun _ => new)
    match e.image, new.image with
    | .clear, .occupied => w.emit (allEight.map (.routeOccupied · x))
    | .occupied, .clear => w.emit (allEight.map (.routeCleared · x))
    | .unknown, _ => w.emit (allEight.map (.routeKnown · x))
    | _, _ => w

end Sys2Proof.Machine
end

