-- ==== Sys2Proof/Machine/Reports.lean ====
section
/-! DEFINITION. The Report Unit: the contents of a REPORT (R179, R200), draining (R178), and what an event
leaves to be sent once it is over: the notices of changed signals and sections (R29, R63) and the placing of
changed subjects (R177). -/

namespace Sys2Proof.Machine

/-! ## Contents (R179, R200) -/

/-- A yes as 1. -/
def flag (b : Bool) : Byte := if b then 1 else 0

/-- Supervision as a byte. -/
def supervisionByte : Supervision → Byte
  | .proven => 0
  | .unproven => 1
  | .failed => 2

/-- A block as a byte. -/
def blockByte : Option BlockKind → Byte
  | none => 0
  | some k => byte (blockCode k)

/-- A position as a byte. -/
def positionByte : Option Position → Byte
  | none => 0
  | some .normal => 1
  | some .reverse => 2

/-- A code byte of a role and a required state that a number gives (section 12.2). -/
def codeByte (n : Nat) : Byte := byte (n / 5 % 6 * 16 + n % 5)

/-- A lock: the code byte's required state of an ENTRY lock, and what follows an absent reference, are free
values numbered from `n`, each a code or a mark that R200 admits (log entry 4). -/
def lockBytes (n : Nat) (e : Elem) : Option RouteLock → List Byte
  | some l =>
    let state := match lockState e l with
      | some q => requiredCode q
      | none => (Config.freeByte n).toNat % 5
    encodeRef l.ref ++ [byte (roleCode l.role * 16 + state), flag l.releasePending]
  | none => [0, 0, codeByte (Config.freeByte n).toNat, byte ((Config.freeByte (n + 1)).toNat % 2)]

/-- A claim list. -/
def claimBytes (cs : List ClaimEntry) : List Byte :=
  byte cs.length :: cs.flatMap fun c => encodeRef c.claimant ++ [byte (requiredCode c.state), byte c.uses]

/-- The contents for a section; an absent capture and an absent record are free values. -/
def State.sectionContents (s : State) (i : Fin 16) : List Byte :=
  let r := s.sections[i]
  let n := s.fresh
  let two := fun (k : Nat) => [Config.freeByte (n + k), Config.freeByte (n + k + 1)]
  [flag r.occupied, supervisionByte r.supervision,
    byte (r.entryCapture.isSome.toNat + 2 * r.sequenceFault.toNat + 4 * r.train.isSome.toNat)]
    ++ (match r.entryCapture with | some c => twoBytes c.value.toNat | none => two 0)
    ++ lockBytes (n + 2) (.track i) r.lock ++ claimBytes [] ++ [blockByte (s.blockOf (.track i))]
    ++ (match r.train with | some t => twoBytes t.number ++ twoBytes t.speed | none => two 4 ++ two 6)

/-- A drive state as a byte. -/
def driveByte : Drive → Byte
  | .rest => 0
  | .dead .. => 1
  | .throwing _ => 2
  | .swingBack _ => 3
  | .failed => 4

/-- A move result as a byte. -/
def resultByte : MoveResult → Byte
  | .none => 0
  | .achieved => 1
  | .notAchieved => 2
  | .failed => 3
  | .superseded => 4

/-- The contents for a point. -/
def State.pointContents (s : State) (p : Fin 8) : List Byte :=
  let r := s.points[p]
  [positionByte r.commanded, positionByte r.detected, driveByte r.drive, supervisionByte r.supervision,
    flag r.returnPending, resultByte r.lastResult]
    ++ lockBytes s.fresh (.points p) r.lock ++ claimBytes r.claims ++ [blockByte (s.blockOf (.points p))]

/-- The contents for a signal. -/
def State.signalContents (s : State) (g : Fin 8) : List Byte :=
  let r := s.signals[g]
  [flag (r.aspect == .proceed), flag r.stopLamp.proven, flag r.proceedLamp.proven, supervisionByte r.supervision]
    ++ lockBytes s.fresh (.signal g) r.lock ++ claimBytes r.claims ++ [blockByte (s.blockOf (.signal g))]

/-- Direction and previous direction as bytes. -/
def directionBytes : Direction → List Byte
  | .neutral => [0, 255]
  | .out => [1, 255]
  | .into => [2, 255]
  | .asking .neutral => [3, 0]
  | .asking .into => [3, 2]

/-- A reason byte: 0 where there is no refusal (section 12.2; log entry 4). -/
def reasonByte (reason : Option Reason) : Byte := reason.elim 0 fun r => byte (reasonNumber r)

/-- An outbound record. -/
def outboundBytes (o : OutboundRec) : List Byte :=
  let started : Nat := if o.confirmTimer.isSome then 128 else 0
  let tail := match o.state with
    | .offered => [byte started, reasonByte none]
    | .accepted => [byte (1 + started), reasonByte none]
    | .unanswered reason => [byte (2 + started), reasonByte reason]
  twoBytes o.train ++ twoBytes o.speed ++ [o.tag] ++ tail

/-- The contents for a boundary. -/
def State.boundaryContents (s : State) (b : Fin 4) : List Byte :=
  let r := s.boundaries[b]
  directionBytes r.direction ++ byte r.claims.length :: r.claims.map byte
    ++ byte r.waiting.length :: r.waiting.map byte
    ++ byte r.outbound.length :: r.outbound.flatMap outboundBytes
    ++ byte r.inbound.length :: r.inbound.flatMap (fun o => twoBytes o.train ++ twoBytes o.speed ++ [o.tag, 0])
    ++ [byte r.offersLost, blockByte (s.blockOf (.boundary b))]

/-- A route state as a byte. -/
def routeStateByte : RouteState → Byte
  | .setting => 0
  | .positioning => 1
  | .open => 2
  | .held => 3
  | .cancelling => 4
  | .entered => 5
  | .emergency => 6

/-- A portion state as a byte. -/
def portionByte : PortionState → Byte
  | .none => 0
  | .pending => 1
  | .granted => 2
  | .proven => 3
  | .lapsed _ => 4
  | .void => 5

/-- A flank state as a byte. -/
def flankByte : FlankState → Byte
  | .none => 0
  | .pending => 1
  | .granted => 2
  | .proven => 3
  | .lapsed => 4
  | .refused => 5
  | .void => 6

/-- A failure as reason and index; without one the reason is 0 and the index the free value numbered `n` (log
entry 4). -/
def failureBytes (n : Nat) : Option Failure → List Byte
  | some f => [reasonByte (some f.reason), byte f.index]
  | none => [reasonByte none, Config.freeByte n]

/-- The first missing proof as the route's report shows it: only in SETTING and POSITIONING (R115). -/
def State.shownMissing (s : State) (g : Fin 8) : Option Nat :=
  match s.running g with
  | some (i, r) => if i.beingSet then s.firstMissing g i r else none
  | none => none

/-- The contents for a route subject. -/
def State.routeContents (s : State) (g : Fin 8) : List Byte :=
  let shown := match s.instances[g] with
    | none => [0, 0, 0, 0, 0, 0, 0, 0, 0, 0, 0, 0]
    | some i =>
      [byte i.route, routeStateByte i.state, byte (i.inStep.toNat + 2 * i.directionHeld.toNat),
        (s.shownMissing g).elim 255 byte]
        ++ failureBytes s.fresh i.lastFailure ++ twoBytes (i.delay.getD 65535) ++ twoBytes (i.speedUsed.getD 0)
        ++ byte i.portions.length :: i.portions.flatMap (fun p => [byte p.owner, portionByte p.state])
        ++ byte i.flank.length :: i.flank.map (fun p => flankByte p.state)
  shown ++ (match s.lastEnded[g] with
    | some e => byte e.route :: failureBytes (s.fresh + 1) e.failure
    | none => 0 :: failureBytes (s.fresh + 1) none)

/-- A load result as a byte. -/
def loadByte : LoadResult → Byte
  | .none => 0
  | .format => 1
  | .crc => 2
  | .address => 3
  | .capacity => 4
  | .reference => 5

/-- A peer state as a byte. -/
def peerByte : PeerState → Byte
  | .unknown => 0
  | .present => 1
  | .half => 2
  | .lost => 3

/-- The contents for the controller. -/
def State.controllerContents (s : State) : List Byte :=
  [byte (serviceCode s.service), loadByte s.loadResult, byte s.blocking.length, flag s.alertArmed]
    ++ s.firstFaultBytes ++ byte s.peers.length :: s.peers.flatMap fun p => [byte p.address, peerByte p.state]

/-- The contents of a subject's REPORT (R179). -/
def State.contents (s : State) : Subject → List Byte
  | .elem (.track i) => s.sectionContents i
  | .elem (.points p) => s.pointContents p
  | .elem (.signal g) => s.signalContents g
  | .elem (.boundary b) => s.boundaryContents b
  | .route g => s.routeContents g
  | .controller => s.controllerContents

/-- Drains the oldest subject: it leaves the queue, and its REPORT is placed (R178). -/
def State.drainOne (s : State) : State :=
  match s.reports with
  | [] => s
  | x :: rest =>
    (({ s with reports := rest }).enqueue ⟨0, .report (subjectCode x) s.captureTimer (s.contents x)⟩).draw 16

/-- Draining goes on while the line is in use and at least 8 send queue entries are free (R178). -/
def State.drain : Nat → State → State
  | 0, s => s
  | n + 1, s => if s.lineUsed && !s.reports.isEmpty && s.room 3 then State.drain n s.drainOne else s

/-- The report queue drained as far as it goes, which the 45 subjects bound (R178). -/
def State.drained (s : State) : State := State.drain 45 s

/-! ## The end of an event -/

/-- What a subject shows that is reported at each change (R3, R48, R84, R90, R115, R116, R141, R158, R165,
R177). -/
inductive Shown where
  | track (r : SectionRec) (block : Option BlockKind)
  | points (r : PointRec) (block : Option BlockKind)
  | signal (aspect : Aspect) (stopProven proceedProven : Bool) (lock : Option RouteLock)
      (claims : List ClaimEntry) (block : Option BlockKind)
  | boundary (r : BoundaryRec) (block : Option BlockKind)
  | route (i : Option RouteInst) (missing : Option Nat) (ended : Option Ended)
  | controller (service : ServiceState) (peers : List (Nat × PeerState)) (blocks : Nat) (fault armed : Bool)
  deriving DecidableEq, Repr

/-- A section record with only what its report shows: of the filter, occupancy and supervision. -/
def SectionRec.shown (r : SectionRec) : SectionRec :=
  { r with
    occupiedRun := 0
    clearTimer := none
    entryCapture := none }

/-- A point record with only what its report shows. -/
def PointRec.shown (r : PointRec) : PointRec :=
  { r with
    returnPosition := none
    throwTimer := none
    overCurrentTimer := none
    senseActive := false
    reversalLock := none
    requesters := [] }

/-- A timer without its time left. -/
def Timer.shown : Timer → Timer
  | .running _ => .running 0
  | t => t

/-- An instance with only what its report follows: no timer's time left (R116). -/
def RouteInst.shown (i : RouteInst) : RouteInst :=
  { i with
    awaitingDirection := false
    settingTimer := none
    approachTimer := i.approachTimer.map fun _ => 0
    overlapTimer := i.overlapTimer.shown
    emergencyTimer := i.emergencyTimer.shown }

/-- A boundary record with only what its report shows (R158). -/
def BoundaryRec.shown (r : BoundaryRec) : BoundaryRec :=
  { r with
    lastConfirm := none
    outbound := r.outbound.map fun o => { o with confirmTimer := o.confirmTimer.map fun _ => 0 } }

/-- What a subject shows. -/
def State.shown (s : State) : Subject → Shown
  | .elem (.track i) => .track s.sections[i].shown (s.blockOf (.track i))
  | .elem (.points p) => .points s.points[p].shown (s.blockOf (.points p))
  | .elem (.signal g) =>
    let r := s.signals[g]
    .signal r.aspect r.stopLamp.proven r.proceedLamp.proven r.lock r.claims (s.blockOf (.signal g))
  | .elem (.boundary b) => .boundary s.boundaries[b].shown (s.blockOf (.boundary b))
  | .route g => .route (s.instances[g].map RouteInst.shown) (s.shownMissing g) s.lastEnded[g]
  | .controller =>
    .controller s.service (s.peers.map fun p => (p.address, p.state)) s.blocking.length s.firstFault.isSome
      s.alertArmed

/-- The 45 subjects, in the order in which an event that changes several places them (log entry 6). -/
def allSubjects : List Subject := .controller :: allElems.map .elem ++ allEight.map .route

/-- The subjects that the event has changed are placed (R177). -/
def State.placeChanged (before s : State) : State :=
  allSubjects.foldl (fun t x => if before.shown x = s.shown x then t else t.place x) s

/-- The stations that a change of a section is notified to, ascending: its watchers, and the holders of
ACTIVE reservations whose lock on it is still present (R29). -/
def State.recipients (s : State) (i : Fin 16) : List Nat :=
  let holders := (s.reservations.filter fun r =>
    r.state == .active && r.elems.any (·.elem == .track i)
      && s.sections[i].lock.any fun l => l.ref == r.ref).map (·.ref.station)
  sortBy id (distinct ((s.sectionCfg i).watchers ++ holders))

/-- The notices of a signal whose aspect or lamp proving the event has changed: one for each watcher, also where
the aspect has changed in the event and ends as it began (R63). -/
def State.notifySignal (before : State) (turned : List (Fin 8)) (s : State) (g : Fin 8) : State :=
  if before.signalNotice g false = s.signalNotice g false ∧ turned.contains g = false then s
  else s.postAll (sortBy id (s.signalCfg g).watchers) (s.signalNotice g false)

/-- The notices of a section whose occupancy or supervision the event has changed (R29). -/
def State.notifySection (before : State) (s : State) (i : Fin 16) : State :=
  let a := before.sections[i]
  let b := s.sections[i]
  if a.occupied = b.occupied ∧ a.supervision = b.supervision then s
  else s.postAll (s.recipients i) (s.sectionNotice i false)

/-- The end of an event: the notices of the signals, then of the sections, that it has changed, the answers that
follow its effects (R197), and the placing of the subjects that it has changed (log entry 6). -/
def State.conclude (before : State) (w : Work) : State :=
  let s := allEight.foldl (State.notifySignal before w.turned) w.st
  let s := allSections.foldl (State.notifySection before) s
  let s := w.answers.foldl (fun t a => t.answerDesk a.1 a.2.1 a.2.2 none) s
  State.placeChanged before s

end Sys2Proof.Machine
end

