-- ==== Sys2Proof/Machine/Settle.lean ====
section
/-! DEFINITION. An event taken whole: each task that one block gives another (section 3 of the opening file),
the tasks of an event taken to their end, and `State.event`, by which every command but START and
RESET_ASSERTED takes effect (log entry 6). -/

namespace Sys2Proof.Machine

/-- The reason of the flank failure that a move result gives: NOT_PROVEN for NOT_ACHIEVED, else FAILED
(R151). -/
def resultReason : MoveResult → Reason
  | .notAchieved => .notProven
  | _ => .failed

/-- What reaches a local route by its number is reported if the route is ENTERED (R117). -/
def Work.reportRoute (w : Work) (route : Nat) : Work :=
  match w.st.instanceOf route with
  | some (g, _) => w.reportEntered g
  | none => w

/-- A route lock holder is told a result (R48, R100, R103): only NOT_ACHIEVED and FAILED act, in a route that
is being set, or on an ACTIVE reservation; an ENTERED route is reported (R117). -/
def Work.tellHolder (w : Work) (p : Fin 8) (ref : RouteRef) (m : MoveResult) : Work :=
  let failed := m == .notAchieved || m == .failed
  if ref.station = w.st.own then
    let w := w.reportRoute ref.route
    match w.st.instanceOf ref.route, w.st.routeRecord ref.route with
    | some (g, i), some r =>
      if failed && i.beingSet then w.emit [.rollback g (some ⟨resultReason m, indexOfElem r (.points p)⟩)] else w
    | _, _ => w
  else if failed then w.lapseReservation ref .failed
  else w

/-- A flank claimant is told a result (R48, R149, R151). -/
def Work.tellClaimant (w : Work) (p : Fin 8) (ref : RouteRef) (m : MoveResult) : Work :=
  let failed := m == .notAchieved || m == .failed
  if ref.station = w.st.own then
    if failed then w.localFlankTold ref.route (.points p) (some .failed) (resultReason m)
    else w.reportRoute ref.route
  else if failed then w.lapseClaim ref (.points p) .failed
  else w.assessClaim ref (.points p)

/-- A point tells a requester a result (R48); for the DESK entry the point is reported. -/
def Work.tellResult (w : Work) (p : Fin 8) (m : MoveResult) : Requester → Work
  | .holder ref => w.tellHolder p ref m
  | .claimant ref => w.tellClaimant p ref m
  | .desk => w.on (·.place (.elem (.points p)))

/-- A point tells its route lock holder a change of proof (R49, R100, R103). -/
def Work.tellHolderProof (w : Work) (ref : RouteRef) (told : ProofTold) : Work :=
  if ref.station = w.st.own then
    let w := w.reportRoute ref.route
    match w.st.instanceOf ref.route, told with
    | some (g, _), .regained => w.emit [.assess g]
    | some (g, _), .lost _ => w.loseProof g
    | none, _ => w
  else
    match told with
    | .regained => w.assessReservation ref
    | .lost reason => w.lapseReservation ref reason

/-- A point tells a flank claimant a change of proof (R49, R149, R151). -/
def Work.tellClaimantProof (w : Work) (p : Fin 8) (ref : RouteRef) (told : ProofTold) : Work :=
  if ref.station = w.st.own then
    match told with
    | .regained => w.localFlankTold ref.route (.points p) none .failed
    | .lost reason => w.localFlankTold ref.route (.points p) (some reason) .failed
  else
    match told with
    | .regained => w.assessClaim ref (.points p)
    | .lost reason => w.lapseClaim ref (.points p) reason

/-- A signal tells a local route its exit proof (R61, R103). -/
def Work.tellExit (w : Work) (user : Fin 8) (present : Bool) : Work :=
  let w := w.reportEntered user
  if present then w.emit [.assess user] else w.loseProof user

/-- A local route is told that its signal was withdrawn by flank (R62, R107). -/
def Work.toldWithdrawn (w : Work) (route : Nat) : Work :=
  match w.st.instanceOf route with
  | some (g, _) => w.loseProof g
  | none => w

/-- Takes one task. -/
def Work.take (w : Work) : Task → Work
  | .result p who m => w.tellResult p m who
  | .proofToHolder _ ref told => w.tellHolderProof ref told
  | .proofToClaimant p ref told => w.tellClaimantProof p ref told
  | .exitToRoute _ user present => w.tellExit user present
  | .exitToReservation _ ref present => if present then w.assessReservation ref else w.lapseReservation ref .lamp
  | .cleared g ref => w.opened g ref
  | .clearRefused g number => w.toldRefused g number
  | .lampFailed ref => w.lampHolds ref.route
  | .withdrawnByFlank ref => w.toldWithdrawn ref.route
  | .entryFree g => w.emit [.assess g]
  | .goOn g => w.goOn g
  | .position g => w.enterPositioning g
  | .assess g => w.assess g
  | .rollback g failure => w.rollback g failure
  | .routeOccupied g x => w.sectionTaken g x
  | .routeCleared g x => w.sectionFreed g x
  | .routeKnown g x => w.sectionKnown g x
  | .assessReservation ref => w.assessReservation ref
  | .assessClaim ref e => w.assessClaim ref e
  | .forceBreak station => w.forceBreak station
  | .breakWith station => w.breakWith station
  | .breakRoute g station => w.breakRoute g station
  | .breakBoundary b station => w.boundaryBroken b station
  | .recordBreak station => w.on (·.recordFault .peerBreak .controller (some station))
  | .requestFailed q => w.requestFailed q
  | .directionTold route _ told => w.directionTold route told
  | .withdrawRoute g => w.withdrawRoute g

/-- Takes the tasks of an event in order, each with all that it leads to before the next; the bound leaves
over what it does not reach (log entry 6). A task has then written its records and placed its own telegrams before
what it tells others is taken, which is the model's choice (log entry 52). Before each task the subjects are placed
that then differ from `start`, where the event began: one that a later task changes back has been placed (R3, R90,
R158, R177). -/
def Work.settle (start : State) : Nat → List Task → Work → Work × List Task
  | _, [], w => (w, [])
  | 0, ts, w => (w, ts)
  | n + 1, t :: ts, w =>
    let w := { w.on (State.placeChanged start) with out := [] }.take t
    Work.settle start n (w.out ++ ts) w

/-- The bound on the tasks of one event. -/
def taskBound : Nat := 4096

/-- What only the command itself can change, and none of its consequences: the queue of commands, the reset
input, the straps' address, the key, the clock, the accepted image, the blocking table, what the station
reads and sends on the line, the receive queue, and the timers of the Configuration Loader and of PRESENCE. -/
def State.keep (kept s : State) : State :=
  { s with
    pending := kept.pending
    resetHeld := kept.resetHeld
    service := kept.service
    loadResult := kept.loadResult
    address := kept.address
    startHoldTimer := kept.startHoldTimer
    admission := kept.admission
    keyOn := kept.keyOn
    captureTimer := kept.captureTimer
    cfg := kept.cfg
    blocking := kept.blocking
    bitRate := kept.bitRate
    idleCount := kept.idleCount
    yieldGap := kept.yieldGap
    sending := kept.sending
    slotDriven := kept.slotDriven
    recvQueue := kept.recvQueue
    presenceTimer := kept.presenceTimer }

/-- The work of an event from the state that its command leaves, with all its consequences. The FLANK RELEASE
telegrams of the event come behind all its RELEASE telegrams (R152). -/
def State.settled (start : State) (work : Work → Work) : Work :=
  let w := work (Work.begin start)
  let done := Work.settle start taskBound (start.agenda ++ w.out) w
  done.1.returnFlank.on fun s => start.keep { s with agenda := done.2 }

/-- An event: `start` is the state before it with what the command itself writes of the fields of
`State.keep`; `work` is what it does to the rest. The report queue is drained in the same event (R178), last of all
(log entry 26). In reset nothing has an effect (R187; log entry 2). -/
def State.event (before start : State) (work : Work → Work) : Host.Outcome State Fault Refusal :=
  if before.resetHeld then .next before
  else .next (State.conclude before (start.settled work)).drained

end Sys2Proof.Machine
end

