-- ==== Sys2Proof/Machine/Image.lean ====
section
/-! DEFINITION. The configuration image (R189 to R191, R201): reading it from the memory, the seven checks in
their order, the clamping of parameters, and the configuration that an accepted image gives. -/

namespace Sys2Proof.Machine

/-! ## The image as read -/

/-- A requirement as the image holds it: the station byte's address and watched mark, element, code and the
route index of the path section it belongs to. -/
structure ImageReq where
  station : Nat
  watched : Bool
  elem : Nat
  role : Role
  state : Required
  belongs : Nat
  deriving DecidableEq, Repr

/-- A flank entry as the image holds it. -/
structure ImageFlank where
  primary : FlankReq
  protects : Nat
  substitute : Option FlankReq
  deriving DecidableEq, Repr

/-- A route record as the image holds it: entry and approach are element numbers. -/
structure ImageRoute where
  number : Nat
  entry : Nat
  exitKind : Nat
  distant : ImageReq
  length : Nat
  approach : Nat
  decel : Nat
  margin : Nat
  tMin : Nat
  tMax : Nat
  tOverlap : Nat
  path : List ImageReq
  overlap : List ImageReq
  flank : List ImageFlank
  deriving DecidableEq, Repr

/-- An element record as the image holds it. -/
inductive ImageElem where
  | track (slot samples clearDelay : Nat) (watchers : List Nat)
  | points (slot track deadInterval throwTime overCurrentTime : Nat)
  | signal (slot provingTime : Nat) (watchers : List Nat)
  | boundary (slot neighbour neighbourIndex edge receiving : Nat)
  deriving DecidableEq, Repr

/-- The image as read: the six controller-wide times in their order, and the records. -/
structure Image where
  station : Nat
  rate : BitRate
  times : List Nat
  elems : List ImageElem
  peers : List (Nat × PeerRole)
  routes : List ImageRoute
  deriving DecidableEq, Repr

/-! ## Reading (R201) -/

/-- The first `n` bytes of a memory; beyond its end it reads as all ones (R189). -/
def readBytes : Nat → List Byte → List Byte
  | 0, _ => []
  | n + 1, [] => 0xFF :: readBytes n []
  | n + 1, b :: bs => b :: readBytes n bs

/-- One bit of the CRC-32, as the check of R199 with another generator (R201). -/
def crcStep (reg : BitVec 32) (b : Bool) : BitVec 32 :=
  if reg.msb != b then (reg <<< 1) ^^^ 0x04C11DB7 else reg <<< 1

/-- The CRC-32 of bytes (R201). -/
def crcOf (bytes : List Byte) : BitVec 32 := (bitsOfBytes bytes).foldl crcStep 0xFFFFFFFF

/-- A reader takes a value from the front of the bytes; `none` is a field that the layout does not allow. -/
abbrev Reader (α : Type) := List Byte → Option (α × List Byte)

/-- Reads `n` values one after the other. -/
def readMany {α : Type} (one : Reader α) : Nat → Reader (List α)
  | 0, bs => some ([], bs)
  | n + 1, bs =>
    match one bs with
    | none => none
    | some (x, rest) => (readMany one n rest).map fun y => (x :: y.1, y.2)

/-- Reads a station address, 1 to 24. -/
def readStation : Reader Nat
  | b :: bs => if 1 ≤ b.toNat ∧ b.toNat ≤ 24 then some (b.toNat, bs) else none
  | [] => none

/-- Reads a two-byte number. -/
def readTwo : Reader Nat
  | hi :: lo :: bs => some (ofTwoBytes hi lo, bs)
  | _ => none

/-- Reads a watcher list: its count and its addresses. -/
def readWatchers : Reader (List Nat)
  | n :: bs => readMany readStation n.toNat bs
  | [] => none

/-- The bit rate of a code. -/
def rateOfCode : Nat → Option BitRate
  | 1 => some .kbit62
  | 2 => some .kbit125
  | 3 => some .kbit250
  | _ => none

/-- Reads the rest of a section record. -/
def readSection (slot : Nat) : Reader ImageElem
  | n :: d :: bs =>
    if n.toNat = 1 ∨ n.toNat = 4 ∨ n.toNat = 16 then
      (readWatchers bs).map fun w => (.track slot n.toNat d.toNat w.1, w.2)
    else none
  | _ => none

/-- Reads the rest of a point record. That a point section byte of 16 or more fails check 3 is the model's choice (log
entry 51). -/
def readPoint (slot : Nat) : Reader ImageElem
  | t :: d1 :: d0 :: t1 :: t0 :: o1 :: o0 :: bs =>
    if t.toNat < 16 then
      some (.points slot t.toNat (ofTwoBytes d1 d0) (ofTwoBytes t1 t0) (ofTwoBytes o1 o0), bs)
    else none
  | _ => none

/-- Reads the rest of a signal record. -/
def readSignal (slot : Nat) : Reader ImageElem
  | p1 :: p0 :: bs => (readWatchers bs).map fun w => (.signal slot (ofTwoBytes p1 p0) w.1, w.2)
  | _ => none

/-- Reads the rest of a boundary record (R158, R201): that a neighbour's boundary index above 3, an edge section that
is no slot number and a receiving section of 16 or more fail check 3 is the model's choice (log entry 51). -/
def readBoundary (slot : Nat) : Reader ImageElem
  | n :: i :: e :: r :: bs =>
    if 1 ≤ n.toNat ∧ n.toNat ≤ 24 ∧ i.toNat ≤ 3 ∧ e.toNat < 36 ∧ r.toNat < 16 then
      some (.boundary slot n.toNat i.toNat e.toNat r.toNat, bs)
    else none
  | _ => none

/-- Reads an element record. -/
def readElem : Reader ImageElem
  | [] => none
  | slot :: bs =>
    match elemOfNumber slot.toNat with
    | some (.track _) => readSection slot.toNat bs
    | some (.points _) => readPoint slot.toNat bs
    | some (.signal _) => readSignal slot.toNat bs
    | some (.boundary _) => readBoundary slot.toNat bs
    | none => none

/-- Reads a peer record. -/
def readPeer : Reader (Nat × PeerRole)
  | a :: r :: bs =>
    if 1 ≤ a.toNat ∧ a.toNat ≤ 24 then
      match r.toNat with
      | 1 => some ((a.toNat, .neighbour), bs)
      | 2 => some ((a.toNat, .desk), bs)
      | _ => none
    else none
  | _ => none

/-- A station byte with the element it goes with: address and watched mark (R201). That the two bits between must be
0, and the top bit too where the byte names no remote section, is the model's choice (log entry 42). -/
def stationByte (b : Byte) (elem : Nat) : Option (Nat × Bool) :=
  let address := b.toNat % 32
  let marked := b.msb
  if b.toNat % 128 = address ∧ address ≤ 24 ∧ (marked → address ≠ 0 ∧ elem < 16) then some (address, marked)
  else none

/-- The role and state of a code byte (section 12.2). -/
def readCode (c : Byte) : Option (Role × Required) :=
  match roleOfCode (c.toNat / 16), requiredOfCode (c.toNat % 16) with
  | some role, some state => some (role, state)
  | _, _ => none

/-- Reads a path or overlap requirement. That its belongs byte may be 0 to 16 whatever the requirement and fails
check 3 above, and that an element number above 35 fails check 3, is the model's choice (log entries 34, 50). -/
def readReq : Reader ImageReq
  | s :: e :: c :: b :: bs =>
    match stationByte s e.toNat, readCode c with
    | some (station, watched), some (role, state) =>
      if e.toNat ≤ 35 ∧ b.toNat ≤ 16 then some (⟨station, watched, e.toNat, role, state, b.toNat⟩, bs) else none
    | _, _ => none
  | _ => none

/-- A flank requirement from its three bytes: the role is flank. That an element number above 35, and a station byte
with the watched mark, fail check 3 is the model's choice (log entries 50, 42). -/
def flankReqOf (s e c : Byte) : Option FlankReq :=
  match stationByte s e.toNat, readCode c with
  | some (station, false), some (.flank, state) =>
    if e.toNat ≤ 35 then some ⟨station, e.toNat, state⟩ else none
  | _, _ => none

/-- Reads a flank entry; a substitute station of 255 means no substitute, and the two bytes after it may then hold
anything, which is the model's choice (log entry 43). -/
def readFlank : Reader ImageFlank
  | s :: e :: c :: p :: s' :: e' :: c' :: z :: bs =>
    if z ≠ 0 then none
    else
      match flankReqOf s e c with
      | none => none
      | some primary =>
        if s' = 255 then some (⟨primary, p.toNat, none⟩, bs)
        else (flankReqOf s' e' c').map fun q => (⟨primary, p.toNat, some q⟩, bs)
  | _ => none

/-- Reads a route record: its 18 bytes, then the requirements and the flank entries that they count. The
entry signal is an element number, 24 to 31 (log entry 14). That a route number outside 1 to 24, and an approach or
distant section element byte of 16 or more, fail check 3 is the model's choice (log entry 51). -/
def readRoute : Reader ImageRoute
  | n :: g :: k :: np :: no :: nf :: ds :: de :: l1 :: l0 :: ap :: a :: m :: mn1 :: mn0 :: mx1 :: mx0 :: ov :: bs =>
    match stationByte ds de.toNat, readMany readReq np.toNat bs with
    | some (station, watched), some (path, bs) =>
      match readMany readReq no.toNat bs with
      | none => none
      | some (overlap, bs) =>
        match readMany readFlank nf.toNat bs with
        | none => none
        | some (flank, bs) =>
          if 1 ≤ n.toNat ∧ n.toNat ≤ 24 ∧ 24 ≤ g.toNat ∧ g.toNat ≤ 31 ∧ 1 ≤ k.toNat ∧ k.toNat ≤ 3
              ∧ de.toNat < 16 ∧ ap.toNat < 16 then
            some ({ number := n.toNat, entry := g.toNat, exitKind := k.toNat
                    distant := ⟨station, watched, de.toNat, .path, .clear, 0⟩
                    length := ofTwoBytes l1 l0, approach := ap.toNat, decel := a.toNat, margin := m.toNat
                    tMin := ofTwoBytes mn1 mn0, tMax := ofTwoBytes mx1 mx0, tOverlap := ov.toNat
                    path := path, overlap := overlap, flank := flank }, bs)
          else none
    | _, _ => none
  | _ => none

/-- The slot number of an element record. -/
def ImageElem.slot : ImageElem → Nat
  | .track s _ _ _ => s
  | .points s _ _ _ _ => s
  | .signal s _ _ => s
  | .boundary s _ _ _ _ => s

/-- Reads the whole image before its CRC-32: header, element records, peer records and route records, with
nothing left over and no slot twice (check 3 of R189). That the header's station byte has no range of its own is the
model's choice (log entry 41). -/
def readImage : List Byte → Option Image
  | f1 :: f0 :: _ :: _ :: st :: rate :: bs =>
    match rateOfCode rate.toNat, readMany readTwo 6 bs with
    | some rate, some (times, ne :: np :: nr :: bs) =>
      match readMany readElem ne.toNat bs with
      | none => none
      | some (elems, bs) =>
        match readMany readPeer np.toNat bs with
        | none => none
        | some (peers, bs) =>
          match readMany readRoute nr.toNat bs with
          | some (routes, []) =>
            if ofTwoBytes f1 f0 = 1 ∧ (distinct (elems.map ImageElem.slot)).length = elems.length then
              some ⟨st.toNat, rate, times, elems, peers, routes⟩
            else none
          | _ => none
    | _, _ => none
  | _ => none

/-! ## Capacity (check 5) -/

/-- The watcher list of an element record. -/
def ImageElem.watchers : ImageElem → List Nat
  | .track _ _ _ w => w
  | .signal _ _ w => w
  | _ => []

/-- The requirements of a route in path and overlap. -/
def ImageRoute.reqs (r : ImageRoute) : List ImageReq := r.path ++ r.overlap

/-- The flank requirements of a route, primaries and substitutes. -/
def ImageRoute.flankReqs (r : ImageRoute) : List FlankReq :=
  r.flank.flatMap fun f => f.primary :: f.substitute.toList

/-- The remote sections that a route names, in record order: distant approach, path, overlap. -/
def ImageRoute.remoteSections (r : ImageRoute) : List ImageReq :=
  (r.distant :: r.reqs).filter fun q => q.station != 0 && decide (q.elem < 16)

/-- The distinct remote sections of an image with their watched marks, in order of first appearance (R32). -/
def Image.remotes (im : Image) : List RemoteCfg :=
  distinct (im.routes.flatMap fun r => r.remoteSections.map fun q => ⟨q.station, q.elem, q.watched⟩)

/-- The distinct remote section references. -/
def Image.remoteRefs (im : Image) : List (Nat × Nat) := distinct (im.remotes.map fun e => (e.station, e.index))

/-- The distinct stations of a list other than this one. -/
def others (stations : List Nat) : List Nat := distinct (stations.filter (· != 0))

/-- Every collection of a route lies within its capacity (R190). This station named by its own address counts as one
more station, which is the model's choice (log entry 40). -/
def ImageRoute.withinCapacity (r : ImageRoute) : Bool :=
  decide (r.path.length ≤ 16 ∧ (r.path.filter fun q => decide (q.elem < 16)).length ≤ 8 ∧ r.overlap.length ≤ 4
    ∧ r.flank.length ≤ 8 ∧ (others (r.reqs.map (·.station))).length ≤ 3
    ∧ (others (r.flankReqs.map (·.station))).length ≤ 4)

/-- Check 5 of R189 (R190). -/
def Image.withinCapacity (im : Image) : Bool :=
  decide (im.routes.length ≤ 24 ∧ (im.peers.filter (·.2 == .neighbour)).length ≤ 8
    ∧ (im.peers.filter (·.2 == .desk)).length ≤ 2 ∧ im.remoteRefs.length ≤ 32)
    && im.routes.all ImageRoute.withinCapacity && im.elems.all fun e => decide (e.watchers.length ≤ 4)

/-! ## References (check 6) -/

/-- The local slots that a route names. -/
def ImageRoute.localSlots (r : ImageRoute) : List Nat :=
  r.entry :: r.approach :: ((r.distant :: r.reqs).filter (·.station == 0)).map (·.elem)
    ++ (r.flankReqs.filter (·.station == 0)).map (·.elem)

/-- The local slots that an element record names. -/
def ImageElem.localSlots : ImageElem → List Nat
  | .points _ t _ _ _ => [t]
  | .boundary _ _ _ edge _ => [edge]
  | _ => []

/-- Check 6 of R189: every local element that the image names is equipped. -/
def Image.referencesHold (im : Image) : Bool :=
  let slots := im.elems.map ImageElem.slot
  (im.routes.flatMap ImageRoute.localSlots ++ im.elems.flatMap ImageElem.localSlots).all slots.contains

/-! ## Agreement (check 7) -/

/-- The exit that a route's kind and path list give (R89). -/
def ImageRoute.exitOf (r : ImageRoute) : Option RouteExit :=
  let exits := r.path.filter fun q => q.role == .exit && decide (q.elem < 32)
  let bounds := r.path.filter fun q => decide (32 ≤ q.elem)
  match r.exitKind, exits, bounds, r.path.getLast? with
  | 1, [q], [], _ =>
    match q.station, elemOfNumber q.elem with
    | 0, some (.signal g) => some (.localSignal g)
    | _, _ => none
  | 2, [q], [], _ => if q.station = 0 then none else some (.remoteSignal q.station q.elem)
  | 3, [], [_], some q =>
    match q.station, elemOfNumber q.elem with
    | 0, some (.boundary b) => some (.boundary b)
    | _, _ => none
  | _, _, _, _ => none

/-- Role and state of a requirement fit its element's kind (check 2 of R14, R89), and its list: PATH, OPPOSING and
EXIT for the path, OVERLAP for the overlap, which is the model's choice (log entry 38). -/
def ImageReq.fitsList (q : ImageReq) (inPath : Bool) : Bool :=
  (elemOfNumber q.elem).any (fun e => fits e q.role q.state)
    && (if inPath then q.role == .path || q.role == .opposing || q.role == .exit else q.role == .overlap)

/-- The requirements name no element twice, and none the entry signal (check 2 of R14). -/
def ImageRoute.noRepeats (r : ImageRoute) : Bool :=
  let named := (0, r.entry) :: r.reqs.map fun q => (q.station, q.elem)
  decide ((distinct named).length = named.length)

/-- Each point and OPPOSING signal of the path names a path section (R89). -/
def ImageRoute.belongHold (r : ImageRoute) : Bool :=
  let sections := (r.path.zipIdx 1).filterMap fun x => if x.1.elem < 16 then some x.2 else none
  !sections.isEmpty && r.path.all fun q =>
    decide (q.elem < 16) || q.role == .exit || decide (32 ≤ q.elem) || sections.contains q.belongs

/-- A flank requirement names a point with a position or a signal with STOP, and not the entry signal (R140). -/
def flankFits (entry : Nat) (q : FlankReq) : Bool :=
  !(q.station == 0 && q.elem == entry) &&
    match elemOfNumber q.elem with
    | some (.points _) => q.state == .normal || q.state == .reverse
    | some (.signal _) => q.state == .stop
    | _ => false

/-- The flank list keeps the rules of R140. -/
def ImageRoute.flankHolds (r : ImageRoute) : Bool :=
  let indices := (r.path.zipIdx 1).map (·.2) ++ (r.overlap.zipIdx 17).map (·.2)
  let away := r.flankReqs.filter (·.station != 0)
  r.flankReqs.all (flankFits r.entry) && r.flank.all (fun f => indices.contains f.protects)
    && decide ((distinct (away.map fun q => (q.station, q.elem))).length = away.length)

/-- A route record keeps check 2 of R14 and the rules of R89 and R140. -/
def ImageRoute.holds (r : ImageRoute) : Bool :=
  r.exitOf.isSome && r.path.all (·.fitsList true) && r.overlap.all (·.fitsList false) && r.noRepeats
    && r.belongHold && r.flankHolds

/-- Routes that name one approach section agree on its distant section and length (R190). -/
def Image.approachesAgree (im : Image) : Bool :=
  im.routes.all fun a => im.routes.all fun b =>
    a.approach != b.approach
      || a.distant.station == b.distant.station && a.distant.elem == b.distant.elem && a.length == b.length

/-- The stations that routes and boundaries name (R190). -/
def Image.named (im : Image) : List Nat :=
  others (im.routes.flatMap fun r =>
    r.distant.station :: r.reqs.map (·.station) ++ r.flankReqs.map (·.station))
    ++ im.elems.filterMap fun e => match e with | .boundary _ n .. => some n | _ => none

/-- Check 7 of R189 (R190), for the controller's own address. One remote section with two watched marks is
rejected within one route too, which is the model's choice (log entry 38). -/
def Image.agrees (im : Image) (own : Nat) : Bool :=
  im.routes.all ImageRoute.holds && im.approachesAgree
    && im.elems.all (fun e => !e.watchers.contains own
        && decide ((distinct e.watchers).length = e.watchers.length))
    && !(im.peers.map (·.1)).contains own
    && decide ((distinct (im.peers.map (·.1))).length = im.peers.length)
    && im.named.all (fun a => im.peers.contains (a, .neighbour))
    && im.elems.all (fun e => match e with | .boundary _ _ _ edge _ => decide (edge < 16) | _ => true)
    && decide ((distinct (im.routes.map (·.number))).length = im.routes.length)
    && decide (im.remoteRefs.length = im.remotes.length)

/-! ## The seven checks (R189) -/

/-- The length field of a memory. -/
def imageLength (memory : List Byte) : Nat := ofTwoBytes (memory.getD 2 0xFF) (memory.getD 3 0xFF)

/-- The bit rate that the header names, 62.5 kbit/s otherwise (R66). -/
def headerRate (memory : List Byte) : BitRate := (rateOfCode (memory.getD 5 0xFF).toNat).getD .kbit62

/-- The seven checks of R189 in order, for the strap address: the image, or the name of the failing check. -/
def checkImage (memory : List Byte) (own : Nat) : Except LoadResult Image :=
  let len := imageLength memory
  if len < 21 ∨ 4096 < len then .error .format
  else
    let bytes := readBytes len memory
    let body := bytes.take (len - 4)
    if crcOf body ≠ BitVec.ofNat 32 (ofBits (bitsOfBytes (bytes.drop (len - 4)))) then .error .crc
    else
      match readImage body with
      | none => .error .format
      | some im =>
        if im.station ≠ own then .error .address
        else if !im.withinCapacity then .error .capacity
        else if !im.referencesHold then .error .reference
        else if !im.agrees own then .error .format
        else .ok im

/-! ## Clamping (R191) -/

/-- A parameter in its range, and whether it was replaced. -/
def clamp (lo hi v : Nat) : Nat × Nat :=
  if v < lo then (lo, 1) else if hi < v then (hi, 1) else (v, 0)

/-- The ranges of the six controller-wide times, in 10 ms (R1). -/
def timeRanges : List (Nat × Nat) :=
  [(10, 100), (20, 200), (1000, 12000), (3000, 60000), (100, 3000), (3000, 60000)]

/-- The times clamped, with the count of replacements. -/
def clampTimes (times : List Nat) : List Nat × Nat :=
  let xs := (times.zip timeRanges).map fun x => clamp x.2.1 x.2.2 x.1
  (xs.map (·.1), (xs.map (·.2)).sum)

/-- An element record clamped. -/
def ImageElem.clamped : ImageElem → ImageElem × Nat
  | .track s n d w => let c := clamp 0 50 d; (.track s n c.1 w, c.2)
  | .points s t d th o =>
    let d := clamp 5 50 d
    let th := clamp 200 1500 th
    let o := clamp 50 500 o
    (.points s t d.1 th.1 o.1, d.2 + th.2 + o.2)
  | .signal s p w => let c := clamp 20 200 p; (.signal s c.1 w, c.2)
  | e => (e, 0)

/-- A route record clamped field by field. -/
def ImageRoute.clamped (r : ImageRoute) : ImageRoute × Nat :=
  let l := clamp 10 4000 r.length
  let a := clamp 10 200 r.decel
  let m := clamp 0 60 r.margin
  let mn := clamp 0 600 r.tMin
  let mx := clamp 10 600 r.tMax
  let ov := clamp 0 240 r.tOverlap
  ({ r with length := l.1, decel := a.1, margin := m.1, tMin := mn.1, tMax := mx.1, tOverlap := ov.1 },
    l.2 + a.2 + m.2 + mn.2 + mx.2 + ov.2)

/-- T_min above T_max is set to T_max. -/
def ImageRoute.ordered (r : ImageRoute) : ImageRoute × Nat :=
  if r.tMax < r.tMin then ({ r with tMin := r.tMax }, 1) else (r, 0)

/-- The image with every parameter in its range, and the count of CONFIG_CLAMPED faults (R191). -/
def Image.clamped (im : Image) : Image × Nat :=
  let times := clampTimes im.times
  let elems := im.elems.map ImageElem.clamped
  let routes := im.routes.map ImageRoute.clamped
  let final := (routes.map (·.1)).map ImageRoute.ordered
  ({ im with times := times.1, elems := elems.map (·.1), routes := final.map (·.1) },
    times.2 + (elems.map (·.2)).sum + (routes.map (·.2)).sum + (final.map (·.2)).sum)

/-! ## The configuration that an image gives -/

/-- A requirement of a route record. -/
def ImageReq.toReq (q : ImageReq) : RouteReq := ⟨q.station, q.elem, q.role, q.state, q.belongs⟩

/-- The index of an element number within its kind, for a kind of eight. -/
def eighth (n : Nat) : Fin 8 := Fin.ofNat 8 n

/-- The index of a section. -/
def sixteenth (n : Nat) : Fin 16 := Fin.ofNat 16 n

/-- A route record from a checked image: its exit is the one that check 7 has found. -/
def ImageRoute.toRecord (r : ImageRoute) : RouteRecord where
  number := r.number
  entry := eighth r.entry
  exit := r.exitOf.getD (.localSignal 0)
  path := r.path.map ImageReq.toReq
  overlap := r.overlap.map ImageReq.toReq
  flank := r.flank.map fun f => ⟨f.primary, f.protects, f.substitute⟩
  distant := ⟨r.distant.station, r.distant.elem⟩
  approach := sixteenth r.approach
  distantLength := r.length
  decel := r.decel
  margin := r.margin
  tMin := r.tMin
  tMax := r.tMax
  tOverlap := r.tOverlap

/-- One element record enters the configuration. -/
def enterElem (c : AreaConfig) : ImageElem → AreaConfig
  | .track s n d w => { c with sections := c.sections.set (sixteenth s) (some ⟨n, d, w⟩) }
  | .points s t d th o => { c with points := c.points.set (eighth s) (some ⟨sixteenth t, d, th, o⟩) }
  | .signal s p w => { c with signals := c.signals.set (eighth s) (some ⟨p, w⟩) }
  | .boundary s n i e r =>
    { c with boundaries := c.boundaries.set (Fin.ofNat 4 s) (some ⟨n, i, sixteenth e, r⟩) }

/-- The configuration of an image (R192). -/
def Image.toConfig (im : Image) : AreaConfig :=
  let t := fun k => im.times.getD k 0
  im.elems.foldl enterElem
    { AreaConfig.empty with
      answerTimeout := t 0
      presencePeriod := t 1
      settingLimit := t 2
      orphanTime := t 3
      confirmWait := t 4
      startHold := t 5
      peers := im.peers
      routes := im.routes.map ImageRoute.toRecord
      remotes := im.remotes }

end Sys2Proof.Machine
end

