-- ==== Sys2Proof/Machine/Receive.lean ====
section
/-! DEFINITION. The receive queue (R75, R76): the checks that a telegram undergoes when it leaves the queue,
the refusals made there, and `State.takeFront`, by which every telegram row takes its telegram (log entry 3). -/

namespace Sys2Proof.Machine

/-! ## Refusals made by the Line Controller -/

/-- A byte of a body as a number. -/
def byteAt (bytes : List Byte) (k : Nat) : Option Nat := bytes[k]?.map (·.toNat)

/-- The tag of a body: its first byte, or 0 where it holds none (R76). -/
def tagOf (bytes : List Byte) : Byte := bytes.headD 0

/-- The route reference of a body, its second and third byte; a body that ends before or within it holds none (log
entry 45). -/
def refOf (bytes : List Byte) : Option RouteRef :=
  match byteAt bytes 1, byteAt bytes 2 with
  | some station, some route => some ⟨station, route⟩
  | _, _ => none

/-- The refusal of a tagged request in its own answer kind, echoing tag and subject (R75). A RESERVE ANSWER to a body
without a route reference carries 0, 0 (R200). An index, and a subject or the reference of a FLANK ANSWER that a
malformed body does not hold, are free values (log entries 4, 45). -/
def State.refusalOf (s : State) (k : Kind) (bytes : List Byte) (reason : Reason) : Body :=
  let tag := tagOf bytes
  let subject := (byteAt bytes 1).getD s.freeByte
  let index := (Config.freeByte (s.fresh + 1)).toNat
  let free : RouteRef := ⟨(Config.freeByte (s.fresh + 2)).toNat, (Config.freeByte (s.fresh + 3)).toNat⟩
  match k with
  | .flankClaim => .flankAnswer tag ((refOf bytes).getD free) (some reason) index []
  | .directionRequest => .directionAnswer tag subject (some reason)
  | .offer => .offerAnswer tag subject (some reason)
  | .command => .commandAnswer tag subject (some reason) index []
  | _ => .reserveAnswer tag ((refOf bytes).getD ⟨0, 0⟩) (some reason) index []

/-- The RESERVE ANSWER for an unknown kind in class 1 (R76). -/
def State.refusalOfUnknown (s : State) (bytes : List Byte) : Body :=
  .reserveAnswer (tagOf bytes) ⟨0, 0⟩ (some .badTelegram) (Config.freeByte (s.fresh + 1)).toNat []

/-! ## The checks (R75, R76) -/

/-- What the checks make of a telegram. -/
inductive Vetting where
  /-- It is discarded or ignored, with nothing recorded. -/
  | ignored
  /-- It is discarded with LINE_ERROR. -/
  | lineError
  /-- It is refused by an answer to its source. -/
  | refused (answer : Body)
  /-- It is handed to its owner. -/
  | passed (body : Body)
  deriving DecidableEq, Repr

/-- The kinds whose bodies a controller does not examine (R200). -/
def Kind.unexamined : Kind → Bool
  | .report | .alert | .commandAnswer => true
  | _ => false

/-- A request in the sense of R75: class 1, OFFER or COMMAND. -/
def Kind.request (k : Kind) : Bool := k.cls == 1 || k == .offer || k == .command

/-- Check 3: what a well-formed telegram passes on, and what becomes of a malformed one (R76). A malformed
REPORT, ALERT or addressed PRESENCE, which R76 does not name, is discarded with LINE_ERROR: the model's choice
(log entry 32). -/
def State.formCheck (s : State) (t : RawTelegram) : Vetting :=
  match Kind.ofCode t.kind with
  | none => if t.cls = 1 then .refused (s.refusalOfUnknown t.bytes) else .lineError
  | some k =>
    if k.cls = t.cls ∧ k.unexamined = true then .ignored
    else
      match if k.cls = t.cls then decodeBody k t.bytes else none with
      | some body => .passed body
      | none => if k.tagged then .refused (s.refusalOf k t.bytes .badTelegram) else .lineError

/-- A refusal where the kind is a tagged request; any other telegram is ignored. -/
def State.turnAway (s : State) (t : RawTelegram) (reason : Reason) : Vetting :=
  match Kind.ofCode t.kind with
  | some k => if k.tagged then .refused (s.refusalOf k t.bytes reason) else .ignored
  | none => .ignored

/-- Check 2: a COMMAND comes from a desk, any other request from a neighbour. -/
def wrongSender (role : PeerRole) (kind : Option Kind) : Bool :=
  match kind with
  | some .command => role != .desk
  | some k => k.request && role != .neighbour
  | none => false

/-- The checks 1 to 5 of R75 where the peer table is loaded. -/
def State.vetFrom (s : State) (t : RawTelegram) : Vetting :=
  let kind := Kind.ofCode t.kind
  match s.peer t.source with
  | none => s.turnAway t .notPermitted
  | some p =>
    if wrongSender p.role kind then s.turnAway t .notPermitted
    else
      match s.formCheck t with
      | .passed body =>
        if kind.any Kind.request && p.state != .present then s.turnAway t .peerAbsent
        else if kind.any Kind.tagged && p.lastRequest == some (tagOf t.bytes, t.kind) then .ignored
        else .passed body
      | other => other

/-- The checks of R75; in CONFIG_FAULT a COMMAND has check 3 alone, and nothing else passes. -/
def State.vet (s : State) (t : RawTelegram) : Vetting :=
  if s.service = .configFault then
    if Kind.ofCode t.kind = some .command then s.formCheck t else s.turnAway t .notInService
  else s.vetFrom t

/-! ## Taking the telegram at the front -/

/-- The peer's last tagged request is kept (R81). -/
def State.keepRequest (s : State) (t : RawTelegram) : State :=
  if (Kind.ofCode t.kind).any Kind.tagged then
    s.changePeer t.source fun p => { p with lastRequest := some (tagOf t.bytes, t.kind) }
  else s

/-- Places an answer by its class (R73). -/
def Work.reply (w : Work) (dest : Nat) (body : Body) : Work :=
  if (bodyKind body).cls = 0 then w.postProof dest body else w.on (·.post dest body)

/-- The work of a telegram by what the checks made of it. -/
def Work.vetted (w : Work) (t : RawTelegram) (owner : Nat → Body → Work → Work) : Vetting → Work
  | .ignored => w
  | .lineError => w.on (·.recordFault .lineError .controller)
  | .refused answer => (w.reply t.source answer).on (·.draw 4)
  | .passed body => owner t.source body (w.on (·.keepRequest t))

/-- A telegram row takes the telegram at the front of the receive queue, if it is the row's own: `write` is
what its owner writes of the fields of `State.keep`, `owner` does the rest. -/
def State.takeFront (s : State) (mine : RawTelegram → Bool) (write : Body → State → State)
    (owner : Nat → Body → Work → Work) : Host.Outcome State Fault Refusal :=
  match s.recvQueue with
  | [] => .next s
  | t :: rest =>
    if mine t then
      let verdict := s.vet t
      let taken := { s with recvQueue := rest }
      let start := match verdict with
        | .passed body => write body taken
        | _ => taken
      s.event start fun w => w.vetted t owner verdict
    else .next s

/-- A telegram row whose owner writes none of the fields of `State.keep`. -/
def State.takeTelegram (s : State) (mine : RawTelegram → Bool) (owner : Nat → Body → Work → Work) :
    Host.Outcome State Fault Refusal :=
  s.takeFront mine (fun _ t => t) owner

/-- A telegram of a kind. -/
def RawTelegram.isKind (t : RawTelegram) (k : Kind) : Bool := Kind.ofCode t.kind == some k

/-- A COMMAND with a command code. -/
def RawTelegram.isCommand (t : RawTelegram) (code : Nat) : Bool :=
  t.isKind .command && byteAt t.bytes 1 == some code

end Sys2Proof.Machine
end

