-- ==== Sys2Proof/Machine/Service.lean ====
section
/-! DEFINITION. The Configuration Loader (chapter 11): START, IMAGE_CHECK, START_HOLD_EXPIRY,
KEY_STATE_CHANGE, RESET_ASSERTED, and the desk's ADMIT and WITHDRAW. -/

namespace Sys2Proof.Machine

/-! ## Start (R187, R188) -/

/-- Every block at its start values; the host's queue and the counter of free values go on. -/
def State.restarted (s : State) : State := { State.reset with pending := s.pending, fresh := s.fresh }

/-- START (R187, R188): every block takes its start values and the straps are read; an invalid address goes
straight to CONFIG_FAULT with load result ADDRESS. -/
def execStart (straps : BitVec 5) (s : State) : Host.Outcome State Fault Refusal :=
  let begun := { s.restarted with resetHeld := false }
  if 1 ≤ straps.toNat ∧ straps.toNat ≤ 24 then .next { begun with address := some straps.toNat }
  else .next { begun with service := .configFault, loadResult := .address }

/-- RESET_ASSERTED (R187): the state and every operation in flight end, and the controller stays at its start
values. -/
def execResetAsserted (s : State) : Host.Outcome State Fault Refusal := .next s.restarted

/-! ## The image (R189, R192) -/

/-- A point at image acceptance: its contacts and current sense are sampled, and its commanded position is
taken from detection (R35, R36). That one whose contacts then read CONFLICT is placed in the report queue is the
model's choice (log entry 23). -/
def PointRec.accepted (inputs : FieldInputs) (p : Fin 8) : PointRec :=
  let n := inputs.contactN.getLsbD p.val
  let r := inputs.contactR.getLsbD p.val
  { PointRec.initial with
    commanded := (detectionOf n r).position
    contactN := n
    contactR := r
    senseActive := inputs.sense.getLsbD p.val }

/-- A signal at image acceptance, before its STOP lamp is lit: its proving inputs are sampled (R53, R55). -/
def SignalRec.accepted (inputs : FieldInputs) (g : Fin 8) : SignalRec :=
  { SignalRec.initial with
    stopInput := inputs.stopProving.getLsbD g.val
    proceedInput := inputs.proceedProving.getLsbD g.val }

/-- The state in which an accepted image leaves the blocks (R20, R32, R36, R53, R88, R192, R195). -/
def State.joined (s : State) (c : AreaConfig) (rate : BitRate) (inputs : FieldInputs) : State :=
  { s with
    service := .joining
    cfg := c
    bitRate := rate
    startHoldTimer := some c.startHold
    presenceTimer := some c.presencePeriod
    keyOn := inputs.key
    sections := Vector.replicate 16 SectionRec.initial
    points := Vector.ofFn fun p => if c.points[p].isSome then PointRec.accepted inputs p else PointRec.initial
    signals := Vector.ofFn fun g => if c.signals[g].isSome then SignalRec.accepted inputs g else SignalRec.initial
    boundaries := Vector.replicate 4 BoundaryRec.initial
    peers := c.peers.map fun p => ⟨p.1, p.2, .unknown, none, none, .absent⟩
    remote := c.remotes.map fun e => ⟨e.station, e.index, e.watched, .unknown, none, []⟩ }

/-- Every equipped signal is commanded STOP, with its STOP lamp AWAITING, or LIT at once (R53, R55). -/
def Work.lightSignals (w : Work) : Work :=
  allEight.foldl (fun w g => if w.st.cfg.signals[g].isSome then w.setAspect g .stop else w) w

/-- IMAGE_CHECK (R189): the seven checks; the image is rejected into CONFIG_FAULT (R194), or clamped (R191)
and accepted (R192). Where no image is being read it has no effect. That the faults of the clamping, the STOP lamps and
the first PRESENCE come in this order is the model's choice (log entry 52). -/
def execImageCheck (memory : List Byte) (inputs : FieldInputs) (s : State) : Host.Outcome State Fault Refusal :=
  if s.service = .loading then
    match checkImage memory s.own with
    | .error why =>
      s.event
        { s with
          service := .configFault
          loadResult := why
          bitRate := headerRate memory
          presenceTimer := some 50 }
        fun w => w.on State.announce
    | .ok im =>
      let clamped := im.clamped
      s.event (s.joined clamped.1.toConfig im.rate inputs) fun w =>
        ((w.on (·.recordFaults (List.replicate clamped.2 .configClamped) .controller)).lightSignals).on
          State.announce
  else .next s

/-- START_HOLD_EXPIRY (R193): the controller goes to OUT_OF_SERVICE. -/
def execStartHoldExpiry (s : State) : Host.Outcome State Fault Refusal :=
  if s.startHoldTimer.isSome ∧ s.service = .joining then
    s.event { s with service := .outOfService, startHoldTimer := none } id
  else .next s

/-! ## Admission and withdrawal (R195, R197) -/

/-- The withdrawal (R197): PROCEED signals are replaced, then each route is taken by its state in ascending entry
signal. R64 and R197 state no order among the signals replaced: that they are taken in ascending index, each with its
exit users where its STOP lamp proves at once, and that all exit users are told before any clearing route, is the
model's choice (log entry 6). -/
def Work.withdraw (w : Work) : Work :=
  (allEight.foldl Work.replaceSignal w).emit (allEight.map .withdrawRoute)

/-- The level that five consecutive readings of the key agree on (R195). -/
def agreedLevel (readings : BitVec 5) : Option Bool :=
  if readings = 31 then some true else if readings = 0 then some false else none

/-- Entry to IN_SERVICE (R195). -/
def State.entered (s : State) : State := { s with service := .inService, admission := false }

/-- KEY_STATE_CHANGE (R195): a new level read on five consecutive samples; it may enter or leave IN_SERVICE. -/
def execKeyStateChange (readings : BitVec 5) (s : State) : Host.Outcome State Fault Refusal :=
  match agreedLevel readings with
  | none => .next s
  | some level =>
    if !s.sampling || level == s.keyOn then .next s
    else
      let turned := { s with keyOn := level }
      if level && s.service == .outOfService && s.admission then s.event turned.entered id
      else if !level && s.service == .inService then
        s.event { turned with service := .outOfService } Work.withdraw
      else s.event turned id

/-- The refusal of a maintenance command by service state (R196). -/
def State.notNow (s : State) : Option Reason :=
  match s.service with
  | .loading => some .notReady
  | .joining => some .notReady
  | .configFault => some .notInService
  | .outOfService => none
  | .inService => none

/-- What an accepted ADMIT writes (R195): with the key ON it enters IN_SERVICE, with the key OFF it is
remembered. -/
def State.takeAdmission (s : State) : State :=
  if s.service ≠ .outOfService then s
  else if s.keyOn then s.entered
  else { s with admission := true }

/-- ADMIT (R195, R196). -/
def execAdmitCommand (s : State) : Host.Outcome State Fault Refusal :=
  s.takeFront (·.isCommand 13) (fun _ t => t.takeAdmission) fun dest body w =>
    match body with
    | .command tag _ => w.on (·.answerDesk dest tag 13 s.notNow)
    | _ => w

/-- What an accepted WITHDRAW writes (R196, R197). -/
def State.leaveService (s : State) : State :=
  match s.service with
  | .inService => { s with service := .outOfService }
  | .outOfService => { s with admission := false }
  | _ => s

/-- WITHDRAW (R196, R197): the answer follows all the effects, their telegrams among them. -/
def execWithdraw (s : State) : Host.Outcome State Fault Refusal :=
  s.takeFront (·.isCommand 14) (fun _ t => t.leaveService) fun dest body w =>
    match body with
    | .command tag _ =>
      match s.notNow with
      | some reason => w.on (·.answerDesk dest tag 14 (some reason))
      | none =>
        (if s.service = .inService then w.withdraw else w).answerLast dest tag 14
    | _ => w

end Sys2Proof.Machine
end

