-- ==== Sys2Proof/Machine/Desk.lean ====
section
/-! DEFINITION. The desk commands (section 12.3), taken from the receive queue: routes (R91, R127, R134),
blocking (R12, R13), points (R51), the describer and handover (R167, R174), and the Report Unit's commands
(R181, R185, R186). The refusal by service state comes first (R196); the answer is placed before the effects
but for SET and REARM (log entry 15). -/

namespace Sys2Proof.Machine

/-- Answers a command: refused with a reason, or ACCEPTED and then taken. -/
def Work.decide (w : Work) (dest : Nat) (tag : Byte) (code : Nat) (refusal : Option Reason)
    (accepted : Work → Work) : Work :=
  match refusal with
  | some reason => w.on (·.answerDesk dest tag code (some reason))
  | none => accepted (w.on (·.answerDesk dest tag code none))

/-! ## Routes -/

/-- SET (R91): the checks in their order. -/
def Work.takeSet (w : Work) (dest : Nat) (tag : Byte) (n : Nat) : Work :=
  let no (reason : Reason) (index : Option Nat) : Work := w.on (·.answerDesk dest tag 1 (some reason) index)
  if w.st.service ≠ .inService then no .notInService none
  else
    match w.st.routeRecord n with
    | none => no .unknownRoute none
    | some r =>
      match w.st.instances[r.entry] with
      | some i =>
        if i.route = n ∧ i.state = .held then
          if i.inStep then w.on (·.answerDesk dest tag 1 none) else w.reclear r.entry i r dest tag
        else no .entryBusy none
      | none =>
        match w.st.setRefusal r with
        | some f => no f.reason (some f.index)
        | none =>
          match w.st.judge (some r.entry) [] (localPart r) with
          | some f => no f.reason (some f.index)
          | none => w.startRoute r dest tag

/-- SET (R91, R92, R110). -/
def execSet (s : State) : Host.Outcome State Fault Refusal :=
  s.takeTelegram (·.isCommand 1) fun dest body w =>
    match body with
    | .command tag (.set n) => w.takeSet dest tag n
    | _ => w

/-- What refuses a command on a route before its instance is looked at (R127, R134). -/
def State.routeRefusal (s : State) (n : Nat) : Option Reason :=
  if s.service ≠ .inService then some .notInService
  else if (s.routeRecord n).isNone then some .unknownRoute
  else none

/-- What refuses a CANCEL (R127). -/
def State.cancelRefusal (s : State) (n : Nat) : Option Reason :=
  match s.routeRefusal n, s.instanceOf n with
  | some reason, _ => some reason
  | none, none => none
  | none, some (_, i) =>
    if i.state = .entered ∨ i.state = .emergency then some .routeInUse
    else if (i.state = .open ∨ i.state = .held) ∧ i.faultMarks ≠ [] then some .routeInUse
    else none

/-- CANCEL (R127). -/
def execCancel (s : State) : Host.Outcome State Fault Refusal :=
  s.takeTelegram (·.isCommand 2) fun dest body w =>
    match body with
    | .command tag (.cancel n) =>
      w.decide dest tag 2 (w.st.cancelRefusal n) fun w =>
        match w.st.instanceOf n, w.st.routeRecord n with
        | some (g, i), some r => w.cancel g i r
        | _, _ => w
    | _ => w

/-- EMERGENCY_RELEASE (R134). -/
def execEmergencyRelease (s : State) : Host.Outcome State Fault Refusal :=
  s.takeTelegram (·.isCommand 3) fun dest body w =>
    match body with
    | .command tag (.emergencyRelease n) =>
      w.decide dest tag 3 (w.st.routeRefusal n) fun w =>
        match w.st.instanceOf n, w.st.routeRecord n with
        | some (g, i), some r => if i.state = .emergency then w else w.emergencyRelease g i r
        | _, _ => w
    | _ => w

/-! ## Blocking -/

/-- The equipped element that a number names (R2). -/
def State.equippedElem (s : State) (n : Nat) : Option Elem := (elemOfNumber n).filter s.equipped

/-- What refuses a maintenance command on an element before its kind is looked at (R196, R2). -/
def State.elementRefusal (s : State) (n : Nat) : Option Reason :=
  match s.notNow with
  | some reason => some reason
  | none => if (s.equippedElem n).isNone then some .unknownElement else none

/-- The element is in the blocking table. -/
def State.isBlocked (s : State) (e : Elem) : Bool := s.blocking.any (·.1 == e)

/-- What refuses a BLOCK (R12). -/
def State.blockRefusal (s : State) (n : Nat) : Option Reason :=
  match s.elementRefusal n, s.equippedElem n with
  | some reason, _ => some reason
  | none, some e => if !s.isBlocked e && decide (8 ≤ s.blocking.length) then some .tableFull else none
  | none, none => some .unknownElement

/-- Writes a block: an element in the table keeps its place, another joins at the end (R12). -/
def State.writeBlock (s : State) (e : Elem) (kind : BlockKind) : State :=
  { s with blocking :=
      if s.isBlocked e then s.blocking.map fun x => if x.1 = e then (e, kind) else x
      else s.blocking ++ [(e, kind)] }

/-- What an accepted BLOCK or UNBLOCK writes (R12, R13). -/
def State.takeBlock (s : State) : Command → State
  | .block n kind =>
    match s.blockRefusal n, s.equippedElem n with
    | none, some e => s.writeBlock e kind
    | _, _ => s
  | .unblock n =>
    match s.elementRefusal n, s.equippedElem n with
    | none, some e => { s with blocking := s.blocking.filter (·.1 != e) }
    | _, _ => s
  | _ => s

/-- The blocking table after a telegram that passes its checks. -/
def blockWrite (body : Body) (s : State) : State :=
  match body with
  | .command _ c => s.takeBlock c
  | _ => s

/-- BLOCK (R12). -/
def execBlock (s : State) : Host.Outcome State Fault Refusal :=
  s.takeFront (·.isCommand 4) blockWrite fun dest body w =>
    match body with
    | .command tag (.block n _) => w.on (·.answerDesk dest tag 4 (s.blockRefusal n))
    | _ => w

/-- UNBLOCK (R13). -/
def execUnblock (s : State) : Host.Outcome State Fault Refusal :=
  s.takeFront (·.isCommand 5) blockWrite fun dest body w =>
    match body with
    | .command tag (.unblock n) => w.on (·.answerDesk dest tag 5 (s.elementRefusal n))
    | _ => w

/-! ## Points, trains and boundaries -/

/-- The position that a POINT_MOVE target names (R200). -/
def targetPosition : Nat → Option Position
  | 1 => some .normal
  | 2 => some .reverse
  | _ => none

/-- The checks 4 to 7 of R51. -/
def State.moveRefusal (s : State) (p : Fin 8) : Option Reason :=
  let r := s.points[p]
  if r.lock.isSome then some .locked
  else if !r.claims.isEmpty then some .claimed
  else if s.blockOf (.points p) = some .noMove then some .blocked
  else if s.countsOccupied (s.pointCfg p).track then some .occupied
  else none

/-- The point and position that a POINT_MOVE names (check 3 of R51). -/
def moveOf (n target : Nat) : Option (Fin 8 × Position) :=
  match elemOfNumber n, targetPosition target with
  | some (.points p), some x => some (p, x)
  | _, _ => none

/-- What refuses a POINT_MOVE (R51). -/
def State.pointRefusal (s : State) (n target : Nat) : Option Reason :=
  match s.elementRefusal n, moveOf n target with
  | some reason, _ => some reason
  | none, none => some .badTelegram
  | none, some (p, _) => s.moveRefusal p

/-- POINT_MOVE (R51). -/
def execPointMove (s : State) : Host.Outcome State Fault Refusal :=
  s.takeTelegram (·.isCommand 6) fun dest body w =>
    match body with
    | .command tag (.pointMove n target) =>
      w.decide dest tag 6 (w.st.pointRefusal n target) fun w =>
        match moveOf n target with
        | some (p, x) => w.movePoint p x .desk
        | none => w
    | _ => w

/-- The section that an element number names. -/
def sectionOfNumber (n : Nat) : Option (Fin 16) :=
  match elemOfNumber n with
  | some (.track i) => some i
  | _ => none

/-- The checks 1 to 3 of R167. -/
def State.sectionRefusal (s : State) (n : Nat) : Option Reason :=
  match s.elementRefusal n with
  | some reason => some reason
  | none => if (sectionOfNumber n).isNone then some .badTelegram else none

/-- Some section holds a record with a train number. -/
def State.trainKnown (s : State) (train : Nat) : Bool :=
  allSections.any fun i => s.sections[i].train.any (·.number == train)

/-- What refuses a DESCRIBE (R167). -/
def State.describeRefusal (s : State) (n train : Nat) : Option Reason :=
  match s.sectionRefusal n with
  | some reason => some reason
  | none =>
    if train < 1 ∨ 65534 < train then some .badTelegram
    else if s.trainKnown train then some .duplicate
    else none

/-- DESCRIBE (R167). -/
def execDescribe (s : State) : Host.Outcome State Fault Refusal :=
  s.takeTelegram (·.isCommand 7) fun dest body w =>
    match body with
    | .command tag (.describe n train) =>
      w.decide dest tag 7 (w.st.describeRefusal n train) fun w =>
        match sectionOfNumber n with
        | some i => w.on fun s => s.setTrain i (some ⟨train, (s.sections[i].train.map (·.speed)).getD 0⟩)
        | none => w
    | _ => w

/-- ERASE (R167). -/
def execErase (s : State) : Host.Outcome State Fault Refusal :=
  s.takeTelegram (·.isCommand 8) fun dest body w =>
    match body with
    | .command tag (.erase n) =>
      w.decide dest tag 8 (w.st.sectionRefusal n) fun w =>
        match sectionOfNumber n with
        | some i => w.on (·.setTrain i none)
        | none => w
    | _ => w

/-- The boundary that an element number names. -/
def boundaryOfNumber (n : Nat) : Option (Fin 4) :=
  match elemOfNumber n with
  | some (.boundary b) => some b
  | _ => none

/-- What refuses a HANDOVER_CLEAR (R174). -/
def State.handoverRefusal (s : State) (n : Nat) : Option Reason :=
  match s.elementRefusal n with
  | some reason => some reason
  | none => if (boundaryOfNumber n).isNone then some .badTelegram else none

/-- HANDOVER_CLEAR (R174). -/
def execHandoverClear (s : State) : Host.Outcome State Fault Refusal :=
  s.takeTelegram (·.isCommand 9) fun dest body w =>
    match body with
    | .command tag (.handoverClear n) =>
      w.decide dest tag 9 (w.st.handoverRefusal n) fun w =>
        match boundaryOfNumber n with
        | some b => w.on (·.clearHandover b)
        | none => w
    | _ => w

/-! ## The Report Unit -/

/-- The subjects that STATUS ALL places, in order (R181). -/
def statusAll : List Subject := .controller :: allElems.map .elem ++ allEight.map .route

/-- The subjects that a STATUS names (R200, R181). -/
def statusSubjects (n : Nat) : Option (List Subject) :=
  if n = 255 then some statusAll
  else if n = 128 then some [.controller]
  else if n < 64 then (elemOfNumber n).map fun e => [.elem e]
  else if n < 72 then (elemOfNumber (n - 40)).bind fun e =>
    match e with
    | .signal g => some [.route g]
    | _ => none
  else none

/-- What refuses a STATUS (R181): an unequipped subject, but for ALL, which passes over them. -/
def State.statusRefusal (s : State) (n : Nat) : Option Reason :=
  match statusSubjects n with
  | none => some .unknownElement
  | some xs => if n = 255 ∨ xs.all s.reportable then none else some .unknownElement

/-- STATUS (R181). -/
def execStatus (s : State) : Host.Outcome State Fault Refusal :=
  s.takeTelegram (·.isCommand 10) fun dest body w =>
    match body with
    | .command tag (.status n) =>
      w.decide dest tag 10 (w.st.statusRefusal n) fun w =>
        w.on fun s => ((statusSubjects n).getD []).foldl State.place s
    | _ => w

/-- The answer to a FAULT_FETCH (R186, R200): its index is a free value (log entry 4). -/
def State.fetchAnswer (s : State) (tag : Byte) : Body :=
  .commandAnswer tag 11 none (Config.freeByte (s.fresh + 3)).toNat
    (s.firstFaultBytes ++ s.counts.toList.map byte ++ twoBytes s.captureTimer.toNat)

/-- FAULT_FETCH (R186): the faults are cleared only where the answer is placed. -/
def State.fetchFaults (s : State) (dest : Nat) (tag : Byte) : State :=
  let placed := (s.post dest (s.fetchAnswer tag)).draw 4
  if s.room 2 then { placed with firstFault := none, counts := Vector.replicate 15 0 } else placed

/-- FAULT_FETCH (R186). -/
def execFaultFetch (s : State) : Host.Outcome State Fault Refusal :=
  s.takeTelegram (·.isCommand 11) fun dest body w =>
    match body with
    | .command tag _ => w.on (·.fetchFaults dest tag)
    | _ => w

/-- REARM (R185): with the record empty the mark becomes ARMED, else the alert is sent at once. -/
def State.rearm (s : State) : State :=
  if s.firstFault.isNone then { s with alertArmed := true } else s.sendAlert.draw 3

/-- REARM (R185). -/
def execRearm (s : State) : Host.Outcome State Fault Refusal :=
  s.takeTelegram (·.isCommand 12) fun dest body w =>
    match body with
    | .command tag _ => (w.on State.rearm).on (·.answerDesk dest tag 12 none)
    | _ => w

end Sys2Proof.Machine
end

