-- ==== Sys2Proof/Machine/Field.lean ====
section
/-! DEFINITION. The events of the Field Interface: section samples and clear timers (R20 to R24), stale marks
(R26), points (R35, R38, R43, R44) and lamps (R55). Each is taken only while the field is sampled. -/

namespace Sys2Proof.Machine

/-! ## Sections -/

/-- SECTION_SAMPLE (R20 to R24). -/
def execSectionSample (i : Fin 16) (occupied : Bool) (s : State) : Host.Outcome State Fault Refusal :=
  if s.sampling ∧ s.equipped (.track i) then
    s.event s fun w => w.takeFilter i (w.st.sections[i].sample (w.st.sectionCfg i) occupied)
  else .next s

/-- CLEAR_TIMER_EXPIRY (R22, R23). -/
def execClearTimerExpiry (i : Fin 16) (s : State) : Host.Outcome State Fault Refusal :=
  if s.sampling ∧ s.equipped (.track i) then
    s.event s fun w => w.takeFilter i w.st.sections[i].clearExpiry
  else .next s

/-- A capture with its stale mark set. -/
def Capture.marked (c : Capture) : Capture := { c with stale := true }

/-- Sets the stale mark of a capture. -/
def State.markStale (s : State) : CaptureRef → State
  | .track i => s.setSection i { s.sections[i] with entryCapture := s.sections[i].entryCapture.map Capture.marked }
  | .remote station index =>
    s.changeRemote ⟨station, index⟩ fun e => { e with capture := e.capture.map Capture.marked }

/-- STALE_MARK (R26). -/
def execStaleMark (capture : CaptureRef) (s : State) : Host.Outcome State Fault Refusal :=
  s.event s fun w => w.on (·.markStale capture)

/-! ## Points -/

/-- DETECTION_CHANGE (R35, R41, R42, R45, R47). -/
def execDetectionChange (p : Fin 8) (contactN contactR : Bool) (s : State) : Host.Outcome State Fault Refusal :=
  if s.sampling ∧ s.equipped (.points p) then
    s.event s fun w =>
      w.takePoint p (w.st.points[p].detect (w.st.pointCfg p) (w.st.pointOccupied p) contactN contactR)
  else .next s

/-- CURRENT_SENSE_CHANGE (R43). -/
def execCurrentSenseChange (p : Fin 8) (active : Bool) (s : State) : Host.Outcome State Fault Refusal :=
  if s.sampling ∧ s.equipped (.points p) then
    s.event s fun w => w.takePoint p (.quiet (w.st.points[p].senseChange (w.st.pointCfg p) active))
  else .next s

/-- OVER_CURRENT_EXPIRY (R43). -/
def execOverCurrentExpiry (p : Fin 8) (s : State) : Host.Outcome State Fault Refusal :=
  if s.sampling ∧ s.equipped (.points p) then
    s.event s fun w => w.takePoint p (w.st.points[p].overCurrentExpiry (w.st.pointCfg p))
  else .next s

/-- THROW_TIMER_EXPIRY (R44, R45). -/
def execThrowTimerExpiry (p : Fin 8) (s : State) : Host.Outcome State Fault Refusal :=
  if s.sampling ∧ s.equipped (.points p) then
    s.event s fun w => w.takePoint p (w.st.points[p].throwExpiry (w.st.pointCfg p))
  else .next s

/-- REVERSAL_LOCK_EXPIRY (R38, R41). -/
def execReversalLockExpiry (p : Fin 8) (s : State) : Host.Outcome State Fault Refusal :=
  if s.sampling ∧ s.equipped (.points p) then
    s.event s fun w => w.takePoint p (w.st.points[p].reversalExpiry (w.st.pointCfg p) (w.st.pointOccupied p))
  else .next s

/-! ## Signals -/

/-- LAMP_PROVING_INPUT_CHANGE (R55). -/
def execLampProvingInputChange (g : Fin 8) (lamp : Lamp) (active : Bool) (s : State) :
    Host.Outcome State Fault Refusal :=
  if s.sampling ∧ s.equipped (.signal g) then s.event s fun w => w.lampInput g lamp active
  else .next s

/-- LAMP_PROVING_TIMER_EXPIRY (R55). -/
def execLampProvingTimerExpiry (g : Fin 8) (s : State) : Host.Outcome State Fault Refusal :=
  if s.sampling ∧ s.equipped (.signal g) then s.event s fun w => w.lampExpiry g
  else .next s

end Sys2Proof.Machine
end

