-- ==== Sys2Proof/Machine/LineEvents.lean ====
section
/-! DEFINITION. The events of the area line (chapter 5): contending and arbitration (R68, R69, R74), a line
error at the sender (R70), the acknowledgement slot (R72), receiving (R67, R71), presence (R82 to R84) and
the answer deadline (R79). -/

namespace Sys2Proof.Machine

/-! ## Sending -/

/-- The idle count at which the station may start a frame (R68). -/
def State.idleNeeded (s : State) : Nat := if s.yieldGap then 19 else 11

/-- The place in the send queue of the next frame: the telegram held after an attempt, else the oldest of the
lowest class (R74). -/
def State.nextFrame (s : State) : Option Nat :=
  match s.sendQueue.findIdx? fun e => decide (0 < e.attempts) with
  | some k => some k
  | none => [0, 1, 2, 3].findSome? fun c => s.sendQueue.findIdx? fun e => telegramClass e.telegram == c

/-- The place of the telegram whose attempt is on the line. -/
def State.onLine (s : State) : Option Nat :=
  if s.sending.isSome then s.sendQueue.findIdx? fun e => decide (0 < e.attempts) else none

/-- A station that sends a recessive header bit and reads it dominant has lost (R69). -/
def arbitrationLost (sent levels : BitVec 18) : Bool := sent &&& ~~~levels != 0

/-- What a contention makes of the state: the frame is won and its attempt counted, or lost without count
(R69); below the idle count needed, only the count is noted. -/
def State.contend (s : State) (idle : Nat) (levels : BitVec 18) : State :=
  match s.nextFrame with
  | none => { s with idleCount := idle }
  | some k =>
    match s.sendQueue[k]? with
    | none => { s with idleCount := idle }
    | some e =>
      if idle < s.idleNeeded then { s with idleCount := idle }
      else if arbitrationLost (headerBits s.own e.telegram) levels then
        { s with idleCount := 0, yieldGap := false }
      else
        { s with
          idleCount := 0
          sending := some (frameLevels s.own e.telegram)
          sendQueue := s.sendQueue.modify k fun e => { e with attempts := e.attempts + 1 } }

/-- CONTENTION (R68, R69, R74). A station that is sending does not contend. -/
def execContention (idle : Nat) (levels : BitVec 18) (s : State) : Host.Outcome State Fault Refusal :=
  if s.lineUsed ∧ s.sending = none then s.event (s.contend idle levels) id else .next s

/-- The frame on the line has ended, by its end field or by the abort mark: the yield gap begins (R68). -/
def State.frameEnded (s : State) : State := { s with sending := none, yieldGap := true, idleCount := 0 }

/-- Removes a send queue entry by its place. -/
def State.dequeue (s : State) (k : Nat) : State := { s with sendQueue := s.sendQueue.eraseIdx k }

/-- A line error ends the attempt: the third gives the telegram up with LINE_ERROR; one whose removal waited
for the attempt's end is removed (R70, R80, R87). That the entry of a telegram given up is free before LINE_ERROR is
recorded is the model's choice (log entry 53). -/
def Work.lineError (w : Work) (k : Nat) (e : SendEntry) : Work :=
  if e.doomed then w.on (·.dequeue k)
  else if e.attempts < 3 then w
  else ((w.on (·.dequeue k)).on (·.recordFault .lineError .controller)).givenUp e

/-- ABORT_MARK (R70): a line error at the sender, in the frame being sent. -/
def execAbortMark (s : State) : Host.Outcome State Fault Refusal :=
  match s.onLine with
  | none => .next s
  | some k =>
    match s.sendQueue[k]? with
    | none => .next s
    | some e => s.event s.frameEnded fun w => w.lineError k e

/-- A PRESENCE has been sent: the muting marks that its view left out become ANNOUNCED (R86). -/
def State.presenceSent (s : State) (mutedLater : List Nat) : State :=
  { s with peers := s.peers.map fun p =>
      if p.muting = .pending ∧ !mutedLater.contains p.address then { p with muting := .announced } else p }

/-- The pending entry of a delivered request starts its answer deadline (R72, R79). -/
def State.requestDelivered (s : State) (tag : Byte) : State :=
  { s with requests := s.requests.map fun q =>
      if q.tag = tag then { q with state := .waiting s.cfg.answerTimeout } else q }

/-- A telegram is delivered: it leaves the send queue (R72). -/
def State.delivered (s : State) (k : Nat) (e : SendEntry) : State :=
  let s := s.dequeue k
  if e.doomed then s
  else
    match e.pendingTag, bodyKind e.telegram.body with
    | some tag, _ => s.requestDelivered tag
    | none, .presence => s.presenceSent e.mutedLater
    | none, _ => s

/-- A missing acknowledgement ends the attempt: the third gives the telegram up with UNDELIVERED (R72). That its entry
is free before UNDELIVERED is recorded is the model's choice (log entry 53). -/
def Work.unacknowledged (w : Work) (k : Nat) (e : SendEntry) : Work :=
  if e.doomed then w.on (·.dequeue k)
  else if e.attempts < 3 then w
  else
    ((w.on (·.dequeue k)).on (·.recordFault .undelivered .controller (some e.telegram.dest))).givenUp e

/-- ACKNOWLEDGEMENT_SLOT (R72): a broadcast is delivered whatever the slot shows. -/
def execAcknowledgementSlot (dominant : Bool) (s : State) : Host.Outcome State Fault Refusal :=
  match s.onLine with
  | none => .next s
  | some k =>
    match s.sendQueue[k]? with
    | none => .next s
    | some e =>
      s.event s.frameEnded fun w =>
        if dominant || e.telegram.dest == 0 then w.on (·.delivered k e) else w.unacknowledged k e

/-! ## Receiving -/

/-- A frame that does not become this station's: its slot is left recessive. -/
def State.frameTaken (s : State) : State := { s with idleCount := 0, yieldGap := false, slotDriven := false }

/-- An intact frame to this station that finds room: the slot is driven dominant and the telegram placed at
the back of the receive queue (R71). -/
def State.accept (s : State) (t : RawTelegram) : State :=
  { s.frameTaken with recvQueue := s.recvQueue ++ [t], slotDriven := true }

/-- The PRESENCE that a broadcast frame carries, if it is well formed (R71). One that is not is discarded without
a record, which is the model's choice (log entry 32). -/
def presenceIn (t : RawTelegram) : Option (BitVec 24) :=
  if t.cls ≠ 3 ∨ t.kind ≠ Kind.presence.code then none
  else
    match decodeBody .presence t.bytes with
    | some (.presence _ _ view) => some view
    | _ => none

/-- A whole frame at the end of its check field (R67, R71). -/
def State.takeFrame (s : State) : FrameReading → Host.Outcome State Fault Refusal
  | .broken => s.event s.frameTaken id
  | .tooLong dest | .badCheck dest =>
    s.event s.frameTaken fun w =>
      if s.address = some dest then w.on (·.recordFault .lineError .controller) else w
  | .intact dest t =>
    if s.address = some dest then
      if s.recvQueue.length < 16 then s.event (s.accept t) id else s.event s.frameTaken id
    else
      s.event s.frameTaken fun w =>
        match presenceIn t with
        | some view => if dest = 0 then w.takePresence t.source view else w
        | none => w

/-- FRAME_RECEIVE (R67, R68, R71): below an idle count of 11 no frame starts; a station that is sending takes
none. -/
def execFrameReceive (idle : Nat) (levels : List Bool) (s : State) : Host.Outcome State Fault Refusal :=
  if s.lineUsed ∧ s.sending = none then
    if idle < 11 then s.event { s with idleCount := 0 } id else s.takeFrame (readFrame levels)
  else .next s

/-! ## Presence and deadlines -/

/-- PRESENCE (R83, R84): only the view counts; service state and blocking count are for the desks (R82). -/
def execPresence (source : Nat) (_service : ServiceState) (_blocking : Nat) (view : BitVec 24) (s : State) :
    Host.Outcome State Fault Refusal :=
  if s.lineUsed then s.event s fun w => w.takePresence source view else .next s

/-- PRESENCE_PERIOD (R82). -/
def execPresencePeriod (s : State) : Host.Outcome State Fault Refusal :=
  if s.presenceTimer.isSome then
    s.event { s with presenceTimer := some s.presencePeriod } fun w => w.on State.announce
  else .next s

/-- SILENCE_TIMER_EXPIRY (R84). -/
def execSilenceTimerExpiry (peer : Nat) (s : State) : Host.Outcome State Fault Refusal :=
  s.event s fun w => w.silenceExpires peer

/-- A pending request waits for its answer. -/
def Request.isWaiting (q : Request) : Bool :=
  match q.state with
  | .waiting _ => true
  | .queued => false

/-- The answer deadline of a WAITING request passes: its entry is removed and it fails at its owner (R79). -/
def Work.deadline (w : Work) (tag : Byte) : Work :=
  match w.st.requests.find? fun q => q.tag == tag && q.isWaiting with
  | some q =>
    (w.on fun s => { s with requests := s.requests.filter (·.tag != tag) }).emit [.requestFailed q]
  | none => w

/-- ANSWER_DEADLINE (R79). -/
def execAnswerDeadline (tag : Byte) (s : State) : Host.Outcome State Fault Refusal :=
  s.event s fun w => w.deadline tag

end Sys2Proof.Machine
end

