-- ==== Sys2Proof/Machine/Telegrams.lean ====
section
/-! DEFINITION. The telegrams of neighbours, taken from the receive queue (R75): requests and their release
(R97, R101, R147, R150, R161, R172), confirms (R170), notices (R33), proof and lapse (R102, R151), answers
(R80), and what is only checked (R76, R75). -/

namespace Sys2Proof.Machine

/-- RESERVE (R97, R98). -/
def execReserve (s : State) : Host.Outcome State Fault Refusal :=
  s.takeTelegram (·.isKind .reserve) fun source body w =>
    match body with
    | .reserve tag ref reqs => w.takeReserve source tag ref reqs
    | _ => w

/-- RELEASE (R101). -/
def execRelease (s : State) : Host.Outcome State Fault Refusal :=
  s.takeTelegram (·.isKind .release) fun source body w =>
    match body with
    | .release tag ref elems => w.takeRelease source tag ref elems
    | _ => w

/-- FLANK CLAIM (R147). -/
def execFlankClaim (s : State) : Host.Outcome State Fault Refusal :=
  s.takeTelegram (·.isKind .flankClaim) fun source body w =>
    match body with
    | .flankClaim tag ref reqs => w.takeFlankClaim source tag ref reqs
    | _ => w

/-- FLANK RELEASE (R150). -/
def execFlankRelease (s : State) : Host.Outcome State Fault Refusal :=
  s.takeTelegram (·.isKind .flankRelease) fun source body w =>
    match body with
    | .flankRelease tag ref elems => w.takeFlankRelease source tag ref elems
    | _ => w

/-- DIRECTION REQUEST (R161). -/
def execDirectionRequest (s : State) : Host.Outcome State Fault Refusal :=
  s.takeTelegram (·.isKind .directionRequest) fun source body w =>
    match body with
    | .directionRequest tag index => w.takeDirectionRequest source tag index
    | _ => w

/-- OFFER (R172). -/
def execOffer (s : State) : Host.Outcome State Fault Refusal :=
  s.takeTelegram (·.isKind .offer) fun source body w =>
    match body with
    | .offer tag index train speed receiving => w.on (·.takeOffer source tag index train speed receiving)
    | _ => w

/-- CONFIRM (R170). -/
def execConfirm (s : State) : Host.Outcome State Fault Refusal :=
  s.takeTelegram (·.isKind .confirm) fun source body w =>
    match body with
    | .confirm tag index train => w.on (·.takeConfirm source index train tag)
    | _ => w

/-- STATE NOTICE (R33): one for a signal names no entry of the remote section table. -/
def execStateNotice (s : State) : Host.Outcome State Fault Refusal :=
  s.takeTelegram (·.isKind .stateNotice) fun source body w =>
    match body with
    | .stateNotice elem occupied proven _ _ age => w.takeNotice source elem occupied proven age
    | _ => w

/-- PROVEN (R102, R151). -/
def execProven (s : State) : Host.Outcome State Fault Refusal :=
  s.takeTelegram (·.isKind .proven) fun source body w =>
    match body with
    | .proven tag ref none => w.portionProven source tag ref
    | .proven tag ref (some elem) => w.flankProven source tag ref elem
    | _ => w

/-- LAPSE (R102, R151). -/
def execLapse (s : State) : Host.Outcome State Fault Refusal :=
  s.takeTelegram (·.isKind .lapse) fun source body w =>
    match body with
    | .lapse tag ref none reason => w.portionLapsed source tag ref reason
    | .lapse tag ref (some elem) reason => w.flankLapse source tag ref elem reason
    | _ => w

/-- RESERVE ANSWER (R80, R95, R96). -/
def execReserveAnswer (s : State) : Host.Outcome State Fault Refusal :=
  s.takeTelegram (·.isKind .reserveAnswer) fun source body w =>
    match body with
    | .reserveAnswer tag ref reason index granted => w.takeReserveAnswer source tag ref reason index granted
    | _ => w

/-- FLANK ANSWER (R80, R144). -/
def execFlankAnswer (s : State) : Host.Outcome State Fault Refusal :=
  s.takeTelegram (·.isKind .flankAnswer) fun source body w =>
    match body with
    | .flankAnswer tag ref reason _ verdicts => w.takeFlankAnswer source tag ref reason verdicts
    | _ => w

/-- DIRECTION ANSWER (R80, R162). -/
def execDirectionAnswer (s : State) : Host.Outcome State Fault Refusal :=
  s.takeTelegram (·.isKind .directionAnswer) fun source body w =>
    match body with
    | .directionAnswer tag index reason => w.takeDirectionAnswer source tag index reason
    | _ => w

/-- OFFER ANSWER (R80, R169). -/
def execOfferAnswer (s : State) : Host.Outcome State Fault Refusal :=
  s.takeTelegram (·.isKind .offerAnswer) fun source body w =>
    match body with
    | .offerAnswer tag index reason => w.takeOfferAnswer source tag index reason
    | _ => w

/-- The command codes of section 12.3. -/
def knownCode (code : Nat) : Bool := decide (1 ≤ code ∧ code ≤ 14)

/-- A telegram of an unknown kind, or a COMMAND whose code names no desk command. -/
def RawTelegram.isUnknown (t : RawTelegram) : Bool :=
  match Kind.ofCode t.kind with
  | none => true
  | some k => k == .command && !(byteAt t.bytes 1).any knownCode

/-- A telegram of unknown kind, or a COMMAND with an unknown command code: it fails the checks (R75, R76). -/
def execUnknownKind (s : State) : Host.Outcome State Fault Refusal :=
  s.takeTelegram RawTelegram.isUnknown fun _ _ w => w

/-- The telegrams that a controller ignores: COMMAND ANSWER, REPORT and ALERT, and a PRESENCE that is not a
broadcast (R75; log entry 3). -/
def RawTelegram.isIgnored (t : RawTelegram) : Bool :=
  t.isKind .commandAnswer || t.isKind .report || t.isKind .alert || t.isKind .presence

/-- A received COMMAND ANSWER, REPORT or ALERT is ignored (R75). -/
def execCommandAnswerReceived (s : State) : Host.Outcome State Fault Refusal :=
  s.takeTelegram RawTelegram.isIgnored fun _ _ w => w

end Sys2Proof.Machine
end

