-- ==== Sys2Proof/Machine/Timers.lean ====
section
/-! DEFINITION. The timers of routes, reservations, claims and handover (R111, R129, R125, R135, R139, R156,
R171), and the draining of the report queue (R178). A timer that does not run expires without effect. -/

namespace Sys2Proof.Machine

/-- SETTING_LIMIT_EXPIRY (R111): the route is rolled back with NOT_PROVEN and the index of what is missing. -/
def execSettingLimitExpiry (g : Fin 8) (s : State) : Host.Outcome State Fault Refusal :=
  s.event s fun w =>
    match w.st.running g with
    | some (i, r) =>
      if i.settingTimer.isSome then w.rollback g (some ⟨.notProven, w.st.limitIndex g i r⟩) else w
    | none => w

/-- APPROACH_RELEASE_EXPIRY (R129): a route in CANCELLING is fully released. -/
def execApproachReleaseExpiry (g : Fin 8) (s : State) : Host.Outcome State Fault Refusal :=
  s.event s fun w =>
    match w.st.instances[g] with
    | some i =>
      if i.state = .cancelling ∧ i.approachTimer.isSome then w.fullRelease g else w
    | none => w

/-- OVERLAP_TIMER_EXPIRY (R125). -/
def execOverlapTimerExpiry (g : Fin 8) (s : State) : Host.Outcome State Fault Refusal :=
  s.event s fun w =>
    match w.st.instances[g] with
    | some i => if i.overlapTimer.isRunning then w.overlapExpires g else w
    | none => w

/-- EMERGENCY_TIMER_EXPIRY (R135). -/
def execEmergencyTimerExpiry (g : Fin 8) (s : State) : Host.Outcome State Fault Refusal :=
  s.event s fun w => w.emergencyExpires g

/-- ORPHAN_TIMER_EXPIRY (R139). -/
def execOrphanTimerExpiry (ref : RouteRef) (s : State) : Host.Outcome State Fault Refusal :=
  s.event s fun w => w.orphanExpires ref

/-- CLAIM_ORPHAN_EXPIRY (R156). -/
def execClaimOrphanExpiry (ref : RouteRef) (s : State) : Host.Outcome State Fault Refusal :=
  s.event s fun w => w.claimsExpire ref

/-- CONFIRM_TIMER_EXPIRY (R171). -/
def execConfirmTimerExpiry (b : Fin 4) (tag : Byte) (s : State) : Host.Outcome State Fault Refusal :=
  s.event s fun w => w.on (·.confirmExpires b tag)

/-- REPORT_DRAIN (R178): an event with nothing but the draining with which every event ends. -/
def execReportDrain (s : State) : Host.Outcome State Fault Refusal := s.event s id

end Sys2Proof.Machine
end

