-- ==== Sys2Proof/Machine/Dispatch.lean ====
section
/-! DEFINITION. `exec`: the command's effect on everything but the queue, one arm for each row of the table. -/

namespace Sys2Proof.Machine

/-- The effect of a command: one arm for each row of spec/opcode_table.json. -/
def exec (i : Instr) (s : State) : Host.Outcome State Fault Refusal :=
  match i with
  | .start straps => Sys2Proof.Machine.execStart straps s
  | .imageCheck memory inputs => Sys2Proof.Machine.execImageCheck memory inputs s
  | .startHoldExpiry => Sys2Proof.Machine.execStartHoldExpiry s
  | .keyStateChange readings => Sys2Proof.Machine.execKeyStateChange readings s
  | .sectionSample n occupied => Sys2Proof.Machine.execSectionSample n occupied s
  | .clearTimerExpiry n => Sys2Proof.Machine.execClearTimerExpiry n s
  | .staleMark capture => Sys2Proof.Machine.execStaleMark capture s
  | .detectionChange p contactN contactR => Sys2Proof.Machine.execDetectionChange p contactN contactR s
  | .currentSenseChange p active => Sys2Proof.Machine.execCurrentSenseChange p active s
  | .overCurrentExpiry p => Sys2Proof.Machine.execOverCurrentExpiry p s
  | .throwTimerExpiry p => Sys2Proof.Machine.execThrowTimerExpiry p s
  | .reversalLockExpiry p => Sys2Proof.Machine.execReversalLockExpiry p s
  | .lampProvingInputChange g lamp active => Sys2Proof.Machine.execLampProvingInputChange g lamp active s
  | .lampProvingTimerExpiry g => Sys2Proof.Machine.execLampProvingTimerExpiry g s
  | .contention idle levels => Sys2Proof.Machine.execContention idle levels s
  | .abortMark => Sys2Proof.Machine.execAbortMark s
  | .acknowledgementSlot dominant => Sys2Proof.Machine.execAcknowledgementSlot dominant s
  | .frameReceive idle levels => Sys2Proof.Machine.execFrameReceive idle levels s
  | .presence source service blocking view => Sys2Proof.Machine.execPresence source service blocking view s
  | .presencePeriod => Sys2Proof.Machine.execPresencePeriod s
  | .silenceTimerExpiry peer => Sys2Proof.Machine.execSilenceTimerExpiry peer s
  | .answerDeadline tag => Sys2Proof.Machine.execAnswerDeadline tag s
  | .reserve => Sys2Proof.Machine.execReserve s
  | .release => Sys2Proof.Machine.execRelease s
  | .flankClaim => Sys2Proof.Machine.execFlankClaim s
  | .flankRelease => Sys2Proof.Machine.execFlankRelease s
  | .directionRequest => Sys2Proof.Machine.execDirectionRequest s
  | .offer => Sys2Proof.Machine.execOffer s
  | .confirm => Sys2Proof.Machine.execConfirm s
  | .stateNotice => Sys2Proof.Machine.execStateNotice s
  | .proven => Sys2Proof.Machine.execProven s
  | .lapse => Sys2Proof.Machine.execLapse s
  | .reserveAnswer => Sys2Proof.Machine.execReserveAnswer s
  | .flankAnswer => Sys2Proof.Machine.execFlankAnswer s
  | .directionAnswer => Sys2Proof.Machine.execDirectionAnswer s
  | .offerAnswer => Sys2Proof.Machine.execOfferAnswer s
  | .set => Sys2Proof.Machine.execSet s
  | .cancel => Sys2Proof.Machine.execCancel s
  | .emergencyRelease => Sys2Proof.Machine.execEmergencyRelease s
  | .block => Sys2Proof.Machine.execBlock s
  | .unblock => Sys2Proof.Machine.execUnblock s
  | .pointMove => Sys2Proof.Machine.execPointMove s
  | .describe => Sys2Proof.Machine.execDescribe s
  | .erase => Sys2Proof.Machine.execErase s
  | .handoverClear => Sys2Proof.Machine.execHandoverClear s
  | .status => Sys2Proof.Machine.execStatus s
  | .faultFetch => Sys2Proof.Machine.execFaultFetch s
  | .rearm => Sys2Proof.Machine.execRearm s
  | .admitCommand => Sys2Proof.Machine.execAdmitCommand s
  | .withdraw => Sys2Proof.Machine.execWithdraw s
  | .settingLimitExpiry g => Sys2Proof.Machine.execSettingLimitExpiry g s
  | .approachReleaseExpiry g => Sys2Proof.Machine.execApproachReleaseExpiry g s
  | .overlapTimerExpiry g => Sys2Proof.Machine.execOverlapTimerExpiry g s
  | .emergencyTimerExpiry g => Sys2Proof.Machine.execEmergencyTimerExpiry g s
  | .orphanTimerExpiry ref => Sys2Proof.Machine.execOrphanTimerExpiry ref s
  | .claimOrphanExpiry ref => Sys2Proof.Machine.execClaimOrphanExpiry ref s
  | .confirmTimerExpiry b tag => Sys2Proof.Machine.execConfirmTimerExpiry b tag s
  | .reportDrain => Sys2Proof.Machine.execReportDrain s
  | .resetAsserted => Sys2Proof.Machine.execResetAsserted s
  | .unknownKind => Sys2Proof.Machine.execUnknownKind s
  | .commandAnswerReceived => Sys2Proof.Machine.execCommandAnswerReceived s

end Sys2Proof.Machine
end

