-- ==== Sys2Proof/Safety.lean ====
section
/-! DEFINITION. What the statements about the machine are written in: a command that completes, the states and
queues that a statement starts from, the invariants that every step keeps, and the bodies that have an
encoding. -/

namespace Sys2Proof.Machine

/-! ## Completion -/

/-- The command completes, in a next state of which `P` holds. -/
def Completes (c : Instr) (s : State) (P : State → Prop) : Prop := ∃ t, exec c s = .next t ∧ P t

/-- The command completes: its event does what `P` holds of, and ends with the draining of the report queue, which
appends REPORTs of the subjects waiting to the send queue (R178; log entry 26). -/
def CompletesDraining (c : Instr) (s : State) (P : State → Prop) : Prop := ∃ u, exec c s = .next u.drained ∧ P u

/-- Not in reset, and nothing left over from an earlier event (log entry 6). -/
def State.ready (s : State) : Prop := s.resetHeld = false ∧ s.agenda = []

/-- Ready, with the field sampled: an image is accepted (R20, R35, R55). -/
def State.sampled (s : State) : Prop := s.ready ∧ s.sampling = true

/-- There is no route instance. -/
def State.vacant (s : State) : Prop := ∀ g : Fin 8, s.instances[g] = none

/-- The telegram at the front of the receive queue passes the checks of R75: `source` hands over `body`. -/
def State.hands (s : State) (source : Nat) (body : Body) (rest : List RawTelegram) : Prop :=
  ∃ t, s.recvQueue = t :: rest ∧ t.source = source ∧ t.isKind (bodyKind body) = true ∧ s.vet t = .passed body

/-- The telegram at the front of the receive queue is a desk's command, and passes the checks of R75. -/
def State.handsCommand (s : State) (desk : Nat) (tag : Byte) (c : Command) (rest : List RawTelegram) : Prop :=
  ∃ t, s.recvQueue = t :: rest ∧ t.source = desk ∧ t.isCommand (commandCode c) = true
    ∧ s.vet t = .passed (.command tag c)

/-- A telegram just placed in the send queue. -/
def placed (dest : Nat) (body : Body) : SendEntry := ⟨⟨dest, body⟩, 0, false, [], false⟩

/-- The answer to a command has been placed behind what the send queue held. -/
def State.answered (t s : State) (desk : Nat) (tag : Byte) (code : Nat) (reason : Option Reason) : Prop :=
  ∃ index contents more, t.sendQueue = s.sendQueue ++ placed desk (.commandAnswer tag code reason index contents) :: more

/-! ## Invariants -/

/-- The blocking table never holds an element twice and never exceeds 8 entries (R12). -/
def State.blockingHolds (s : State) : Prop := (s.blocking.map (·.1)).Nodup ∧ s.blocking.length ≤ 8

/-- The receive queue holds up to 16 telegrams (R75). -/
def State.receiveHolds (s : State) : Prop := s.recvQueue.length ≤ 16

/-- The send queue holds up to 32 telegrams (R73). -/
def State.sendHolds (s : State) : Prop := s.sendQueue.length ≤ 32

/-- The report queue never holds a subject twice (R3, R177). -/
def State.reportsHold (s : State) : Prop := s.reports.Nodup

/-- The pending request table holds up to 16 entries and no tag twice (R78). -/
def State.requestsHold (s : State) : Prop := s.requests.length ≤ 16 ∧ (s.requests.map (·.tag)).Nodup

/-- The Reservation List holds up to 16 entries and no route reference twice (R99). -/
def State.reservationsHold (s : State) : Prop :=
  s.reservations.length ≤ 16 ∧ (s.reservations.map (·.ref)).Nodup

/-- Outside IN_SERVICE no signal is commanded PROCEED (R64, R198). -/
def State.darkOutsideService (s : State) : Prop :=
  s.service ≠ .inService → ∀ g : Fin 8, s.signals[g].aspect = .stop

/-- The PROCEED lamp of a signal commanded STOP is DARK (R54). -/
def State.lampsHold (s : State) : Prop :=
  ∀ g : Fin 8, s.signals[g].aspect = .stop → s.signals[g].proceedLamp = .dark

/-- No subject waits in the report queue that could be drained (R178). -/
def State.drainedOut (s : State) : Prop := s.lineUsed = true → s.reports = [] ∨ 32 < s.sendQueue.length + 8

/-- The clear timer of a section is stopped while its filter is CLEAR (R21). -/
def State.clearTimersStopped (s : State) : Prop :=
  ∀ i : Fin 16, s.sections[i].filter = .clear → s.sections[i].clearTimer = none

/-- The target of a point's drive, in every drive state but REST and FAILED (R38). -/
def Drive.target : Drive → Option Position
  | .rest | .failed => none
  | .dead x _ | .throwing x | .swingBack x => some x

/-- A point's lock and claims require its commanded position (R50), and a move in flight has it as its target (R40).
-/
def PointRec.inPosition (r : PointRec) : Prop :=
  (∀ l, r.lock = some l → l.position = r.commanded) ∧ (∀ c ∈ r.claims, requiredPosition c.state = r.commanded)
    ∧ ∀ x, r.drive.target = some x → r.commanded = some x

/-- Every point's lock, claims and move in flight are in its commanded position (R40, R50). -/
def State.pointsHold (s : State) : Prop := ∀ p : Fin 8, s.points[p].inPosition

/-! ## Points that are called -/

/-- Where the requirement is on a point, the point is in position, or at REST with no requester left on its list. -/
def State.callable (s : State) (elem : Nat) (state : Required) : Prop :=
  ∀ p : Fin 8, elemOfNumber elem = some (.points p) →
    s.points[p].commanded = requiredPosition state ∨ s.points[p].drive = .rest ∧ s.points[p].requesters = []

/-- The point has been called: it is commanded as required, and where it was neither commanded nor detected there
its move is in flight for `who` (R14, R17, R40). -/
def State.called (t s : State) (p : Fin 8) (state : Required) (who : Requester) : Prop :=
  t.points[p].commanded = requiredPosition state
    ∧ (s.points[p].commanded ≠ requiredPosition state → s.points[p].detected ≠ requiredPosition state →
        t.points[p].drive.target = requiredPosition state ∧ t.points[p].requesters = [who])

/-! ## Routes that end -/

/-- The section that an element stands in is OCCUPIED; a signal stands in none (R9). -/
def State.underTrain (s : State) : Elem → Bool
  | .track i => s.sections[i].occupied
  | .points p => s.pointOccupied p
  | _ => false

/-- Each remote portion has an owner of its own and names requirements of the route at that owner (R89, R90). -/
def RouteInst.portionsFit (i : RouteInst) (r : RouteRecord) : Prop :=
  (i.portions.map (·.owner)).Nodup
    ∧ ∀ x ∈ i.portions, x.owner ≠ 0 ∧ ∀ k ∈ x.indices, (reqAt r k).any (·.station == x.owner) = true

/-- A route without flank entries runs on a signal, with portions and direction claim as its record gives them, and
every signal stands at STOP. -/
def State.plainRoute (s : State) (g : Fin 8) (i : RouteInst) (r : RouteRecord) : Prop :=
  s.running g = some (i, r) ∧ r.flank = [] ∧ i.flank = [] ∧ i.portionsFit r
    ∧ (i.directionHeld = true → (exitBoundary r).isSome = true) ∧ ∀ h : Fin 8, s.signals[h].aspect = .stop

/-- The requirements of the route that it has not released. -/
def RouteInst.left (i : RouteInst) (r : RouteRecord) : List Nat :=
  (allIndices r).filter fun k => !i.released.contains k

/-- The instance has ended with a last failure; or it waits in EMERGENCY, its timer expired, and a lock of the route
is still in place (R90, R113, R128, R180). -/
def State.routeOver (t s : State) (g : Fin 8) (i : RouteInst) (failure : Option Failure) : Prop :=
  t.instances[g] = none ∧ t.lastEnded[g] = some ⟨i.route, failure⟩
    ∨ t.holdsLock (s.ownRef i.route) = true ∧ ∃ j, t.instances[g] = some j ∧ j.route = i.route
        ∧ j.state = .emergency ∧ j.emergencyTimer = .expired ∧ j.lastFailure = failure

/-- Of the local elements of the requirements given none is locked for the route any longer, unless its section is
OCCUPIED and its lock release-pending (R9). -/
def State.locksFreed (t s : State) (i : RouteInst) (r : RouteRecord) (freed : List Nat) : Prop :=
  ∀ k ∈ freed, ∀ e l, elemAt r k = some e → t.lockOf e = some l → l.ref = s.ownRef i.route →
    l.releasePending = true ∧ s.underTrain e = true

/-- Each portion held at a PRESENT owner has a RELEASE placed, with its tag, of those of the requirements given that
it has, where the send queue has room for one to each owner (R73, R77, R112). -/
def State.releasesPlaced (t s : State) (i : RouteInst) (r : RouteRecord) (freed : List Nat) : Prop :=
  s.sendQueue.length + i.portions.length + 1 ≤ 32 → ∀ x ∈ i.portions, x.state.holding = true →
    s.isPresent x.owner = true → x.indices.filter freed.contains ≠ [] →
    placed x.owner (.release (x.tag.getD 0) (s.ownRef i.route) (wireElems r (x.indices.filter freed.contains)))
      ∈ t.sendQueue

/-- A signal stands at STOP, replaced if it showed PROCEED; sections, points and the other signals are as they were
(R59). -/
def State.signalStopped (t s : State) (g : Fin 8) : Prop :=
  t.signals[g].aspect = .stop ∧ (s.signals[g].aspect = .stop → t.signals[g] = s.signals[g])
    ∧ (∀ h : Fin 8, h ≠ g → t.signals[h] = s.signals[h]) ∧ t.sections = s.sections ∧ t.points = s.points

/-! ## Telegrams given up -/

/-- No boundary has a station as its neighbour. -/
def State.noBoundaryAt (s : State) (a : Nat) : Prop :=
  ∀ (b : Fin 4) (c : BoundaryCfg), s.cfg.boundaries[b] = some c → c.neighbour ≠ a

/-- A telegram given up with a fault: of class 0 it forces a break, its destination LOST and its muting mark
PENDING; an OFFER leaves its pending entry removed and its outbound record UNANSWERED (R73, R86, R87, R169). That one
whose pending entry has gone before stays in the send queue, and then changes neither requests nor boundaries, is the
model's reading of R74, R170 and R171 (log entry 36). -/
def State.gaveUp (t s : State) (e : SendEntry) (fault : FaultKind) : Prop :=
  let x := e.telegram
  (∀ p, telegramClass x = 0 → s.peer x.dest = some p → s.vacant → s.noBoundaryAt x.dest →
      t.peer x.dest = some { p with state := .lost, silence := none, muting := .pending }
        ∧ min 255 (s.counts[faultIndex fault] + 1) ≤ t.counts[faultIndex fault]
        ∧ (p.state = .present → t.requests = s.requests.filter (·.dest != x.dest)
            ∧ t.counts[faultIndex .peerBreak] = min 255 (s.counts[faultIndex .peerBreak] + 1)))
  ∧ (e.settled = true → (bodyTag x.body).isSome = true → t.requests = s.requests ∧ t.boundaries = s.boundaries)
  ∧ ∀ (q : Request) (b : Fin 4), s.requestsHold → q ∈ s.requests → e.pendingTag = some q.tag →
      q.subject = .offer b →
      t.requests = s.requests.filter (·.tag != q.tag)
        ∧ min 255 (s.counts[faultIndex fault] + 1) ≤ t.counts[faultIndex fault]
        ∧ t.boundaries[b].outbound = s.boundaries[b].outbound.map fun o =>
            if o.tag = q.tag ∧ o.state = .offered then { o with state := .unanswered none } else o

/-! ## Frames -/

/-- What no consequence of an event touches: the queue of commands, the reset input, the straps, the clock, the
accepted image, the bit rate, and the Configuration Loader's state (R25, R187 to R198). -/
def State.sameLoader (t s : State) : Prop :=
  t.pending = s.pending ∧ t.resetHeld = s.resetHeld ∧ t.service = s.service ∧ t.loadResult = s.loadResult
    ∧ t.address = s.address ∧ t.startHoldTimer = s.startHoldTimer ∧ t.admission = s.admission
    ∧ t.keyOn = s.keyOn ∧ t.captureTimer = s.captureTimer ∧ t.cfg = s.cfg ∧ t.bitRate = s.bitRate

/-- What this station reads and sends on the line is as it was (R66 to R72). -/
def State.sameLine (t s : State) : Prop :=
  t.idleCount = s.idleCount ∧ t.yieldGap = s.yieldGap ∧ t.sending = s.sending ∧ t.slotDriven = s.slotDriven
    ∧ t.presenceTimer = s.presenceTimer

/-- The element records are as they were, but for the train records of sections (chapters 1 to 4). -/
def State.sameElements (t s : State) : Prop :=
  t.sections.map (fun r => { r with train := none }) = s.sections.map (fun r => { r with train := none })
    ∧ t.points = s.points ∧ t.signals = s.signals

/-- Routes, reservations, claims and what is known of other stations are as they were (chapters 6 to 8). -/
def State.sameRoutes (t s : State) : Prop :=
  t.instances = s.instances ∧ t.lastEnded = s.lastEnded ∧ t.reservations = s.reservations
    ∧ t.register = s.register ∧ t.remote = s.remote

end Sys2Proof.Machine

namespace Sys2Proof

/-- The commands that write the state of the Configuration Loader. -/
def Instr.ofLoader : Instr → Bool
  | .start _ | .resetAsserted | .imageCheck .. | .startHoldExpiry | .keyStateChange _ | .admitCommand
  | .withdraw => true
  | _ => false

/-- The commands that write what the station reads and sends on the line, and the presence timer. -/
def Instr.ofLine : Instr → Bool
  | .start _ | .resetAsserted | .imageCheck .. | .contention .. | .abortMark | .acknowledgementSlot _
  | .frameReceive .. | .presencePeriod => true
  | _ => false

/-- The commands that write the blocking table. -/
def Instr.ofBlocking : Instr → Bool
  | .start _ | .resetAsserted | .block | .unblock => true
  | _ => false

/-- The telegram rows: each takes the telegram at the front of the receive queue. -/
def Instr.ofTelegram : Instr → Bool
  | .reserve | .release | .flankClaim | .flankRelease | .directionRequest | .offer | .confirm | .stateNotice
  | .proven | .lapse | .reserveAnswer | .flankAnswer | .directionAnswer | .offerAnswer | .set | .cancel
  | .emergencyRelease | .block | .unblock | .pointMove | .describe | .erase | .handoverClear | .status
  | .faultFetch | .rearm | .admitCommand | .withdraw | .unknownKind | .commandAnswerReceived => true
  | _ => false

/-- The commands that write the receive queue. -/
def Instr.ofReceiving (c : Instr) : Bool :=
  c.ofTelegram || match c with
    | .start _ | .resetAsserted | .frameReceive .. => true
    | _ => false

end Sys2Proof

namespace Sys2Proof.Machine

/-! ## Bodies with an encoding (R200) -/

/-- A route reference fits its two bytes. -/
def refFits (r : RouteRef) : Prop := r.station < 256 ∧ r.route < 256

/-- An element byte of a PROVEN or LAPSE fits. -/
def subjectFits : Option Nat → Prop
  | none => True
  | some e => e < 256

/-- The operands of a command fit their bytes. -/
def commandFits : Command → Prop
  | .set n | .cancel n | .emergencyRelease n | .status n => n < 256
  | .block e _ | .unblock e | .erase e | .handoverClear e => e < 256
  | .pointMove e t => e < 256 ∧ t < 256
  | .describe e n => e < 256 ∧ n < 65536
  | _ => True

/-- Every field of a body lies in the range that R200 gives it, or in its bytes where R200 gives none; that a CONFIRM
may so carry the train number 65535 is the model's choice (log entry 49). The bodies that no controller examines are
left out. -/
def bodyFits : Body → Prop
  | .reserveAnswer _ ref _ index granted =>
    refFits ref ∧ index < 256 ∧ granted.length ≤ 20 ∧ ∀ e ∈ granted, e < 256
  | .proven _ ref x => refFits ref ∧ subjectFits x
  | .lapse _ ref x _ => refFits ref ∧ subjectFits x
  | .flankAnswer _ ref reason index vs =>
    refFits ref ∧ index < 256 ∧ vs.length ≤ 30 ∧ (∀ v ∈ vs, v.1 < 256) ∧ (reason ≠ none → vs = [])
  | .directionAnswer _ b _ => b < 4
  | .reserve _ ref reqs | .flankClaim _ ref reqs => refFits ref ∧ reqs.length ≤ 30 ∧ ∀ q ∈ reqs, q.elem < 256
  | .release _ ref elems | .flankRelease _ ref elems => refFits ref ∧ elems.length ≤ 30 ∧ ∀ e ∈ elems, e < 256
  | .directionRequest _ b => b < 4
  | .stateNotice e _ _ bit2 _ age => (e < 16 ∧ bit2 = false ∨ 24 ≤ e ∧ e < 32) ∧ age < 65536
  | .offer _ b train speed receiving => b < 4 ∧ train ≤ 65534 ∧ speed ≤ 9999 ∧ receiving < 256
  | .offerAnswer _ b _ => b < 4
  | .confirm _ b train => b < 4 ∧ train < 65536
  | .command _ c => commandFits c
  | .presence _ blocking _ => blocking ≤ 8
  | .commandAnswer .. | .alert _ | .report .. => False

end Sys2Proof.Machine
end

