-- ==== Sys2Proof/Certificates/Slice0/Obligations.lean ====
section
/-! DEFINITION. The statements about the RWC-32 model, for the provers. `Completes c s P` says that the command
answers a next state of which `P` holds, and `CompletesDraining c s P` that it answers the state of which `P` holds
with the report queue then drained (R178), for statements that give a queue exactly; `s.ready` says that the state
is not in reset and nothing is left over. -/

open Sys2Proof Sys2Proof.Machine

/-! ## The step -/

/-- A step takes the command at the front of the queue and runs it with the queue's rest. -/
def Obligations.StepRunsTheFrontCommand : Prop :=
  ∀ (c : Instr) (s : State), step { s with pending := c :: s.pending } = exec c s

/-- With no command waiting ten milliseconds pass (R25; the model's choice, log entry 1): the capture timer advances
by one, wrapping; in reset it stays. -/
def Obligations.EmptyQueueLetsTimePass : Prop :=
  ∀ s : State, s.pending = [] →
    (s.resetHeld = true → step s = .next s)
    ∧ (s.resetHeld = false → ∃ t, step s = .next t ∧ t.captureTimer = s.captureTimer + 1
        ∧ t.service = s.service ∧ t.cfg = s.cfg ∧ t.blocking = s.blocking ∧ t.recvQueue = s.recvQueue
        ∧ t.sendQueue = s.sendQueue ∧ t.reports = s.reports ∧ t.remote = s.remote
        ∧ (∀ i : Fin 16, t.sections[i].lock = s.sections[i].lock ∧ t.sections[i].filter = s.sections[i].filter)
        ∧ (∀ p : Fin 8, t.points[p].drive = s.points[p].drive)
        ∧ ∀ g : Fin 8, t.signals[g].aspect = s.signals[g].aspect)

/-- Every command answers a next state, whatever the state, and leaves the queue of commands alone. Service, straps,
key, clock and image change only by the Configuration Loader's commands (R187 to R197), what is read and sent on the
line only by the line's own (R66 to R72, R82), the blocking table only by BLOCK and UNBLOCK (R12), and the receive
queue only by a frame and by the telegram rows (R75). -/
def Obligations.EveryCommandAnswersWithinItsFrame : Prop :=
  ∀ (c : Instr) (s : State), Completes c s fun t =>
    t.pending = s.pending
      ∧ (c.ofLoader = false → t.sameLoader s)
      ∧ (c.ofLine = false → t.sameLine s)
      ∧ (c.ofBlocking = false → t.blocking = s.blocking)
      ∧ (c.ofReceiving = false → t.recvQueue = s.recvQueue)

/-! ## Start and service state -/

/-- START takes the start values and reads the straps: a number from 1 to 24 is the address, any other goes straight
to CONFIG_FAULT with load result ADDRESS, where the line is never driven (R19, R36, R53, R77, R78, R83, R90, R99,
R148, R158, R177, R182, R187, R188). The input levels of points and signals until they are sampled are the model's
choice (log entry 5). -/
def Obligations.StartTakesStartValues : Prop :=
  ∀ (straps : BitVec 5) (s : State),
    Completes (.start straps) s fun t =>
      t.resetHeld = false ∧ t.captureTimer = 0 ∧ t.startHoldTimer = none ∧ t.admission = false
        ∧ t.blocking = [] ∧ t.recvQueue = [] ∧ t.sendQueue = [] ∧ t.requests = [] ∧ t.tagCounter = 0
        ∧ t.idleCount = 0 ∧ t.presenceTimer = none ∧ t.vacant ∧ t.reservations = [] ∧ t.register = []
        ∧ t.sections = Vector.replicate 16 SectionRec.initial ∧ t.points = Vector.replicate 8 PointRec.initial
        ∧ t.signals = Vector.replicate 8 SignalRec.initial ∧ t.boundaries = Vector.replicate 4 BoundaryRec.initial
        ∧ t.sending = none ∧ t.yieldGap = false ∧ t.peers = [] ∧ t.remote = []
        ∧ t.lastEnded = Vector.replicate 8 none ∧ t.cfg = AreaConfig.empty
        ∧ t.reports = [.controller] ∧ t.firstFault = none ∧ t.counts = Vector.replicate 15 0
        ∧ t.alertArmed = true ∧ t.inServiceOutput = false ∧ t.pending = s.pending
        ∧ (if 1 ≤ straps.toNat ∧ straps.toNat ≤ 24 then
            t.service = .loading ∧ t.loadResult = .none ∧ t.address = some straps.toNat ∧ t.faultOutput = false
          else
            t.service = .configFault ∧ t.loadResult = .address ∧ t.address = none ∧ t.lineUsed = false
              ∧ t.faultOutput = true)

/-- RESET_ASSERTED ends every operation: outputs off, the line not driven, the capture timer at 0; and while the
reset input is asserted, only a start or a renewed reset has an effect (R187; the model's reading, log entry 2). -/
def Obligations.ResetStopsEverything : Prop :=
  (∀ s : State, Completes .resetAsserted s fun t =>
    t.resetHeld = true ∧ t.captureTimer = 0 ∧ t.sending = none ∧ t.lineUsed = false ∧ t.sampling = false
      ∧ t.inServiceOutput = false ∧ t.faultOutput = false ∧ t.vacant ∧ t.sendQueue = [] ∧ t.pending = s.pending
      ∧ (∀ p : Fin 8, t.points[p].output = none)
      ∧ ∀ g : Fin 8, t.signals[g].stopLamp.output = false ∧ t.signals[g].proceedLamp.output = false)
  ∧ ∀ (c : Instr) (s : State), s.resetHeld = true → (∀ straps, c ≠ .start straps) → c ≠ .resetAsserted →
    exec c s = .next s

/-- An image that fails a check enters CONFIG_FAULT with the failing check's name (R189, R194). -/
def Obligations.RejectedImageEntersConfigFault : Prop :=
  ∀ (memory : List Byte) (inputs : FieldInputs) (s : State) (why : LoadResult),
    s.ready → s.service = .loading → checkImage memory s.own = .error why →
    Completes (.imageCheck memory inputs) s fun t =>
      t.service = .configFault ∧ t.loadResult = why ∧ t.faultOutput = true ∧ t.inServiceOutput = false
        ∧ t.presenceTimer = some 50 ∧ t.cfg = s.cfg ∧ t.address = s.address ∧ t.sameElements s ∧ t.sameRoutes s
        ∧ t.boundaries = s.boundaries

/-- An image that passes is accepted, with its parameters clamped: the entry to JOINING (R191, R192). The hypotheses
on routes and reservations hold in LOADING, where there are none. The input levels sampled are the command's operand
(the model's choice, log entry 5). -/
def Obligations.AcceptedImageEntersJoining : Prop :=
  ∀ (memory : List Byte) (inputs : FieldInputs) (s : State) (im : Image),
    s.ready → s.service = .loading → checkImage memory s.own = .ok im → s.vacant → s.reservations = [] →
    Completes (.imageCheck memory inputs) s fun t =>
      t.service = .joining ∧ t.cfg = im.clamped.1.toConfig ∧ t.bitRate = im.rate
        ∧ t.startHoldTimer = some t.cfg.startHold ∧ t.presenceTimer = some t.cfg.presencePeriod
        ∧ t.keyOn = inputs.key ∧ t.sections = Vector.replicate 16 SectionRec.initial
        ∧ t.boundaries = Vector.replicate 4 BoundaryRec.initial
        ∧ (∀ p : Fin 8, t.points[p].commanded =
            if t.cfg.points[p].isSome then
              (detectionOf (inputs.contactN.getLsbD p.val) (inputs.contactR.getLsbD p.val)).position
            else none)
        ∧ (∀ g : Fin 8, t.signals[g].aspect = .stop ∧ t.signals[g].proceedLamp = .dark
            ∧ t.signals[g].stopLamp =
              if t.cfg.signals[g].isSome then (if inputs.stopProving.getLsbD g.val then .lit else .awaiting)
              else .dark)
        ∧ t.peers = t.cfg.peers.map (fun p => ⟨p.1, p.2, .unknown, none, none, .absent⟩)
        ∧ ∀ e ∈ t.remote, e.image = .unknown ∧ e.capture = none ∧ e.heldBy = []

/-- The service state moves on at the start hold's expiry; with the key turned ON it enters IN_SERVICE if the
admission mark is set, and with the key turned OFF it withdraws, no signal at PROCEED (R193, R195, R197, R198). -/
def Obligations.HoldAndKeyMoveService : Prop :=
  (∀ s : State, s.resetHeld = false → s.service = .joining → s.startHoldTimer.isSome = true →
    Completes .startHoldExpiry s fun t =>
      t.service = .outOfService ∧ t.startHoldTimer = none ∧ t.keyOn = s.keyOn ∧ t.admission = s.admission
        ∧ t.cfg = s.cfg ∧ t.blocking = s.blocking)
  ∧ (∀ s : State, s.resetHeld = false → s.service = .outOfService → s.keyOn = false →
    Completes (.keyStateChange 31) s fun t =>
      t.keyOn = true ∧ t.admission = false ∧ t.service = (if s.admission then .inService else .outOfService)
        ∧ t.cfg = s.cfg ∧ t.blocking = s.blocking)
  ∧ ∀ s : State, s.resetHeld = false → s.service = .inService → s.keyOn = true →
    Completes (.keyStateChange 0) s fun t =>
      t.service = .outOfService ∧ t.keyOn = false ∧ t.inServiceOutput = false ∧ t.blocking = s.blocking
        ∧ t.cfg = s.cfg ∧ t.captureTimer = s.captureTimer ∧ ∀ g : Fin 8, t.signals[g].aspect = .stop

/-! ## Sections -/

/-- The filter while CLEAR; and the clear timer is stopped throughout while the filter is CLEAR: every step keeps it
so (R21). -/
def Obligations.ClearFilterCountsOccupiedRun : Prop :=
  (∀ (i : Fin 16) (occupied : Bool) (s : State) (c : SectionCfg),
    s.sampling = true → s.cfg.sections[i] = some c → s.sections[i].filter = .clear →
    Completes (.sectionSample i occupied) s fun t =>
      let old := s.sections[i]
      let new := t.sections[i]
      new.clearTimer = old.clearTimer
        ∧ (if occupied then
            if c.samples ≤ old.occupiedRun + 1 then
              new.filter = .occupied ∧ new.occupiedRun = 0 ∧ new.occupied = true
                ∧ new.entryCapture = some ⟨s.captureTimer, false⟩
            else
              new.filter = .clear ∧ new.occupiedRun = old.occupiedRun + 1 ∧ new.entryCapture = old.entryCapture
          else new.filter = .clear ∧ new.occupiedRun = 0 ∧ new.entryCapture = old.entryCapture))
  ∧ ∀ s t : State, step s = .next t → s.clearTimersStopped → t.clearTimersStopped

/-- The filter while OCCUPIED, and while UNDECIDED, where the first decision makes the section PROVEN and writes no
capture; and the expiry of the clear timer from either (R22, R23). -/
def Obligations.OccupiedAndUndecidedFilterDecide : Prop :=
  (∀ (i : Fin 16) (occupied : Bool) (s : State) (c : SectionCfg),
    s.sampling = true → s.cfg.sections[i] = some c → s.sections[i].filter = .occupied →
    Completes (.sectionSample i occupied) s fun t =>
      let old := s.sections[i]
      let new := t.sections[i]
      new.entryCapture = old.entryCapture
        ∧ (if occupied then new.filter = .occupied ∧ new.clearTimer = none
          else if old.clearTimer.isSome then new.filter = .occupied ∧ new.clearTimer = old.clearTimer
          else if c.clearDelay = 0 then
            new.filter = .clear ∧ new.occupiedRun = 0 ∧ new.clearTimer = none ∧ new.occupied = false
          else new.filter = .occupied ∧ new.clearTimer = some (10 * c.clearDelay)))
  ∧ (∀ (i : Fin 16) (occupied : Bool) (s : State) (c : SectionCfg),
    s.sampling = true → s.cfg.sections[i] = some c → s.sections[i].filter = .undecided →
    Completes (.sectionSample i occupied) s fun t =>
      let old := s.sections[i]
      let new := t.sections[i]
      new.entryCapture = old.entryCapture
        ∧ (if occupied then
            new.clearTimer = none ∧ new.occupied = true
              ∧ (if c.samples ≤ old.occupiedRun + 1 then
                  new.filter = .occupied ∧ new.occupiedRun = 0 ∧ new.supervision = .proven
                else
                  new.filter = .undecided ∧ new.occupiedRun = old.occupiedRun + 1
                    ∧ new.supervision = .unproven)
          else
            new.occupiedRun = 0
              ∧ (if old.clearTimer.isSome then new.filter = .undecided ∧ new.clearTimer = old.clearTimer
                else if c.clearDelay = 0 then
                  new.filter = .clear ∧ new.clearTimer = none ∧ new.supervision = .proven
                else new.filter = .undecided ∧ new.clearTimer = some (10 * c.clearDelay))))
  ∧ ∀ (i : Fin 16) (s : State), s.sampling = true → s.equipped (.track i) = true →
    s.sections[i].clearTimer.isSome = true →
    Completes (.clearTimerExpiry i) s fun t =>
      let new := t.sections[i]
      new.filter = .clear ∧ new.occupiedRun = 0 ∧ new.clearTimer = none ∧ new.occupied = false
        ∧ new.supervision = .proven ∧ new.entryCapture = s.sections[i].entryCapture

/-- A train takes the first section of an OPEN route: the route is ENTERED, its signal is at STOP, and no overrun is
recorded; of a route at STOP it is an overrun; a later section taken first is a sequence fault, and the route is
HELD; the first section CLEAR behind the train is released (R59, R117, R118, R120, R121, R123). No other route
stands. That a section which names the first as the one it belongs to goes with it is the model's choice (log entry
34). -/
def Obligations.TrainEntryEntersOpenRoute : Prop :=
  (∀ (i : Fin 16) (s : State) (c : SectionCfg) (g : Fin 8) (inst : RouteInst) (r : RouteRecord)
    (later : List Progress) (l : RouteLock),
    s.ready → s.sampling = true → s.cfg.sections[i] = some c → s.sections[i].filter = .clear →
    c.samples ≤ s.sections[i].occupiedRun + 1 → s.running g = some (inst, r) →
    (∀ h : Fin 8, h ≠ g → s.instances[h] = none) → inst.state = .open → inst.progress = .notReached :: later →
    inst.released = [] → pathPlace r ⟨0, i.val⟩ = some 0 →
    s.sections[i].lock = some l → l.ref = s.ownRef inst.route → s.exitTasks g true = [] →
    Completes (.sectionSample i true) s fun t =>
      t.sections[i].filter = .occupied ∧ t.signals[g].aspect = .stop
        ∧ t.points.map (·.drive) = s.points.map (·.drive)
        ∧ t.counts[faultIndex .signalOverrun] = s.counts[faultIndex .signalOverrun]
        ∧ ∃ j, t.instances[g] = some j ∧ j.route = inst.route ∧ j.state = .entered
            ∧ j.progress = .occupied :: later)
  ∧ (∀ (i : Fin 16) (s : State) (c : SectionCfg) (g : Fin 8) (inst : RouteInst) (r : RouteRecord)
      (later : List Progress) (l : RouteLock),
    s.sampled → s.cfg.sections[i] = some c → s.sections[i].filter = .clear →
    c.samples ≤ s.sections[i].occupiedRun + 1 → s.running g = some (inst, r) →
    (∀ h : Fin 8, h ≠ g → s.instances[h] = none) →
    (inst.state = .setting ∨ inst.state = .positioning ∨ inst.state = .held ∨ inst.state = .cancelling) →
    inst.awaitingDirection = false → inst.portions = [] → inst.flank = [] →
    inst.progress = .notReached :: later → pathPlace r ⟨0, i.val⟩ = some 0 → (pathSections r).length ≠ 1 →
    s.sections[i].lock = some l → l.ref = s.ownRef inst.route → s.signals[g].aspect = .stop →
    Completes (.sectionSample i true) s fun t =>
      t.counts[faultIndex .signalOverrun] = min 255 (s.counts[faultIndex .signalOverrun] + 1)
        ∧ t.signals[g].aspect = .stop
        ∧ ∃ j, t.instances[g] = some j ∧ j.route = inst.route ∧ j.state = .entered ∧ j.inStep = false
            ∧ j.settingTimer = none ∧ j.approachTimer = none ∧ j.progress = .occupied :: later)
  ∧ (∀ (i : Fin 16) (s : State) (c : SectionCfg) (g : Fin 8) (inst : RouteInst) (r : RouteRecord) (k index : Nat)
      (q : RouteReq) (l : RouteLock),
    s.sampled → s.cfg.sections[i] = some c → s.sections[i].filter = .clear →
    c.samples ≤ s.sections[i].occupiedRun + 1 → s.running g = some (inst, r) →
    (∀ h : Fin 8, h ≠ g → s.instances[h] = none) → inst.state = .open → inst.entered = false →
    inst.progressAt (k + 1) = .notReached → inst.released = [] → inst.faultMarks = [] →
    pathPlace r ⟨0, i.val⟩ = some (k + 1) → (pathSections r)[k + 1]? = some (index, q) →
    k + 2 < (pathSections r).length → s.sections[i].lock = some l → l.ref = s.ownRef inst.route →
    s.sections[i].sequenceFault = false → s.signals[g].aspect = .proceed → s.signals[g].stopInput = false →
    Completes (.sectionSample i true) s fun t =>
      t.sections[i].sequenceFault = true ∧ t.signals[g].aspect = .stop
        ∧ t.counts[faultIndex .sequenceFault] = min 255 (s.counts[faultIndex .sequenceFault] + 1)
        ∧ ∃ j, t.instances[g] = some j ∧ j.route = inst.route ∧ j.state = .held ∧ j.faultMarks = [index]
            ∧ j.progress = inst.progress.set (k + 1) .occupied)
  ∧ ∀ (i : Fin 16) (s : State) (g : Fin 8) (inst : RouteInst) (r : RouteRecord) (later : List Progress)
      (l : RouteLock),
    s.sampled → s.equipped (.track i) = true → s.sections[i].filter = .occupied →
    s.sections[i].clearTimer.isSome = true → s.running g = some (inst, r) →
    (∀ h : Fin 8, h ≠ g → s.instances[h] = none) → inst.state = .entered → inst.faultMarks = [] →
    inst.released = [] → inst.portions = [] → inst.flank = [] → inst.progress = .occupied :: .occupied :: later →
    pathPlace r ⟨0, i.val⟩ = some 0 →
    (∀ y, (pathSections r)[1]? = some y → sectionOf y.2 ≠ ⟨0, i.val⟩ ∧ s.imageOf (sectionOf y.2) ≠ .clear) →
    s.sections[i].lock = some l → l.ref = s.ownRef inst.route → l.releasePending = false →
    s.pointsIn i = [] → s.signals[r.entry].aspect = .stop →
    Completes (.clearTimerExpiry i) s fun t =>
      t.sections[i].lock = none ∧ t.sections[i].train = none
        ∧ t.locksFreed s inst r (freedWith r 0)
        ∧ ∀ j, t.instances[g] = some j → j.route = inst.route ∧ j.progress = .released :: .occupied :: later

/-- The stale mark is set and nothing else changes but that the report queue is drained (R178); a stale capture has
age 65535 (R26, R27). -/
def Obligations.StaleMarkChangesNothingElse : Prop :=
  (∀ (i : Fin 16) (s : State) (v : Stamp), s.ready → s.sections[i].entryCapture = some ⟨v, false⟩ →
    CompletesDraining (.staleMark (.track i)) s fun t =>
      t = s.setSection i { s.sections[i] with entryCapture := some ⟨v, true⟩ } ∧ t.captureAge i = 65535)
  ∧ ∀ (station index : Nat) (s : State) (e : RemoteEntry) (v : Stamp), s.ready →
    s.remoteEntry ⟨station, index⟩ = some e → e.capture = some ⟨v, false⟩ →
    CompletesDraining (.staleMark (.remote station index)) s fun t =>
      t = { s with remote := t.remote }
        ∧ t.remoteEntry ⟨station, index⟩ = some { e with capture := some ⟨v, true⟩ }
        ∧ ∀ x, x ≠ ⟨station, index⟩ → t.remoteEntry x = s.remoteEntry x

/-! ## Points -/

/-- At REST, detection leaving the commanded position makes the point UNPROVEN and records POINT_DETECTION_LOST;
drive and commanded position stay (R47). An OPEN route that locks the point is told, and is HELD with its signal at
STOP; another station that claims it is sent LAPSE (R49, R108, R149) behind the notices and before any REPORT (log
entry 26). -/
def Obligations.LostDetectionUnprovesPoint : Prop :=
  (∀ (p : Fin 8) (contactN contactR : Bool) (s : State) (x : Position),
    s.sampled → s.equipped (.points p) = true → s.points[p].drive = .rest →
    s.points[p].commanded = some x → s.points[p].detected = some x → s.points[p].lock = none →
    s.points[p].claims = [] → (detectionOf contactN contactR).position ≠ some x →
    Completes (.detectionChange p contactN contactR) s fun t =>
      t.points[p] = { s.points[p] with contactN := contactN, contactR := contactR }
        ∧ t.points[p].supervision = .unproven ∧ t.sections = s.sections ∧ t.signals = s.signals ∧ t.sameRoutes s
        ∧ t.counts[faultIndex .pointDetectionLost] = min 255 (s.counts[faultIndex .pointDetectionLost] + 1))
  ∧ ∀ (p : Fin 8) (contactN contactR : Bool) (s : State) (x : Position),
    s.sampled → s.equipped (.points p) = true → s.points[p].drive = .rest →
    s.points[p].commanded = some x → s.points[p].detected = some x →
    (detectionOf contactN contactR).position ≠ some x →
    (∀ (l : RouteLock) (g : Fin 8) (i : RouteInst), s.points[p].lock = some l → s.points[p].claims = [] →
      l.ref = s.ownRef i.route → s.instanceOf i.route = some (g, i) → i.state = .open →
      s.signals[g].aspect = .proceed → s.signals[g].stopInput = false →
      Completes (.detectionChange p contactN contactR) s fun t =>
        t.points[p] = { s.points[p] with contactN := contactN, contactR := contactR } ∧ t.sections = s.sections
          ∧ t.instances[g] = some { i with state := .held } ∧ t.signals[g].aspect = .stop
          ∧ t.signals[g].stopLamp = .awaiting ∧ t.signals[g].proceedLamp = .dark)
    ∧ ∀ (c : ClaimEntry) (r : RegisterEntry) (e : ClaimedElem), s.points[p].lock = none →
      s.points[p].claims = [c] → c.claimant.station ≠ s.own → s.activeClaims c.claimant = some r →
      r.elems.find? (·.elem == .points p) = some e → e.mark = .proven → s.sendQueue.length + 2 ≤ 32 →
      CompletesDraining (.detectionChange p contactN contactR) s fun t =>
        t.points[p] = { s.points[p] with contactN := contactN, contactR := contactR } ∧ t.sections = s.sections
          ∧ t.signals = s.signals ∧ t.instances = s.instances
          ∧ ∃ between, t.sendQueue = s.sendQueue ++ between
              ++ [placed c.claimant.station (.lapse e.tag c.claimant (some (16 + p.val)) .detection)]

/-- In THROWING, detection of the drive target completes the move: output off under the reversal lock, timers
stopped, REST, ACHIEVED (R38, R42, R48). The route that called the point and locks it is told; in POSITIONING with
its proof then complete it asks for PROCEED (R49, R57, R105). -/
def Obligations.DetectionCompletesThrow : Prop :=
  ∀ (p : Fin 8) (contactN contactR : Bool) (s : State) (c : PointCfg) (x : Position),
    s.sampled → s.cfg.points[p] = some c → s.points[p].drive = .throwing x → s.points[p].claims = [] →
    s.points[p].detection ≠ .at x → detectionOf contactN contactR = .at x →
    let after := { s.points[p] with
      contactN := contactN, contactR := contactR, drive := .rest, returnPosition := none
      throwTimer := none, overCurrentTimer := none, requesters := [], lastResult := .achieved
      reversalLock := some (x, c.deadInterval) }
    (s.points[p].lock = none → s.points[p].requesters = [.desk] →
      Completes (.detectionChange p contactN contactR) s fun t =>
        t.points[p] = after ∧ t.points[p].output = none ∧ t.sections = s.sections ∧ t.signals = s.signals
          ∧ t.sameRoutes s ∧ t.boundaries = s.boundaries)
    ∧ ∀ (l : RouteLock) (g : Fin 8) (i : RouteInst) (r : RouteRecord), s.points[p].lock = some l →
      s.points[p].requesters = [.holder l.ref] → s.points[p].commanded = some x → l.ref = s.ownRef i.route →
      s.instanceOf i.route = some (g, i) → s.running g = some (i, r) → i.state = .positioning →
      i.inStep = false → (s.setPoint p after).firstMissing g i r = none →
      (s.setPoint p after).clearRefusal g l.ref = none → s.signals[g].proceedInput = false →
      Completes (.detectionChange p contactN contactR) s fun t =>
        t.points[p] = after ∧ t.sections = s.sections ∧ t.boundaries = s.boundaries
          ∧ t.instances[g] = some { i with inStep := true } ∧ t.signals[g].aspect = .proceed
          ∧ t.signals[g].proceedLamp = .awaiting ∧ t.signals[g].clearingRoute = some l.ref

/-- The over-current timer follows the current sense in THROWING and SWING_BACK; in the other drive states the sense
is not acted on (R43). -/
def Obligations.CurrentSenseRunsTimerWhileDriving : Prop :=
  ∀ (p : Fin 8) (active : Bool) (s : State) (c : PointCfg),
    s.sampled → s.cfg.points[p] = some c →
    Completes (.currentSenseChange p active) s fun t =>
      let driving := ∃ x, s.points[p].drive = .throwing x ∨ s.points[p].drive = .swingBack x
      t.sections = s.sections ∧ t.signals = s.signals ∧ t.sameRoutes s
        ∧ (driving ∧ active ≠ s.points[p].senseActive → t.points[p] = { s.points[p] with
            senseActive := active, overCurrentTimer := if active then some c.overCurrentTime else none })
        ∧ (¬ (driving ∧ active ≠ s.points[p].senseActive) →
            t.points[p] = { s.points[p] with senseActive := active })

/-- A throw that fails by its throw timer or by over-current goes to DEAD for the swing-back, with the output off
under the reversal lock; over-current records its fault. A swing-back that fails leaves the point FAILED, with
POINT_NO_DETECTION (R43, R44, R45). -/
def Obligations.FailedThrowWaitsForSwingBack : Prop :=
  (∀ (p : Fin 8) (s : State) (c : PointCfg) (x y : Position),
    s.sampled → s.cfg.points[p] = some c → s.points[p].drive = .throwing x →
    s.points[p].returnPosition = some y → y ≠ x →
    let after := { s.points[p] with
      drive := .dead x .swingBack, throwTimer := none, overCurrentTimer := none
      reversalLock := some (x, c.deadInterval) }
    (s.points[p].throwTimer.isSome = true → Completes (.throwTimerExpiry p) s fun t =>
      t.points[p] = after ∧ t.points[p].output = none ∧ t.counts = s.counts ∧ t.sections = s.sections
        ∧ t.signals = s.signals ∧ t.sameRoutes s)
    ∧ (s.points[p].overCurrentTimer.isSome = true → Completes (.overCurrentExpiry p) s fun t =>
      t.points[p] = after ∧ t.points[p].output = none ∧ t.sections = s.sections ∧ t.signals = s.signals
        ∧ t.sameRoutes s
        ∧ t.counts[faultIndex .pointOvercurrent] = min 255 (s.counts[faultIndex .pointOvercurrent] + 1)))
  ∧ ∀ (p : Fin 8) (s : State) (c : PointCfg) (x y : Position),
    s.sampled → s.cfg.points[p] = some c → s.points[p].drive = .swingBack x →
    s.points[p].returnPosition = some y → s.points[p].throwTimer.isSome = true → s.points[p].lock = none →
    s.points[p].claims = [] → s.points[p].requesters = [.desk] →
    Completes (.throwTimerExpiry p) s fun t =>
      t.points[p] = { s.points[p] with
          drive := .failed, returnPosition := none, throwTimer := none, overCurrentTimer := none
          requesters := [], lastResult := .failed, reversalLock := some (y, c.deadInterval) }
        ∧ t.points[p].supervision = .failed ∧ t.points[p].output = none ∧ t.sections = s.sections
        ∧ t.signals = s.signals ∧ t.sameRoutes s
        ∧ t.counts[faultIndex .pointNoDetection] = min 255 (s.counts[faultIndex .pointNoDetection] + 1)

/-- The reversal lock clears; a point waiting in DEAD for a throw or for the swing-back then drives, but only with
its section CLEAR (R38, R41, R50). -/
def Obligations.ReversalExpiryStartsWaitingThrow : Prop :=
  ∀ (p : Fin 8) (s : State) (c : PointCfg),
    s.sampled → s.cfg.points[p] = some c → s.points[p].reversalLock.isSome = true →
    (∀ x, s.points[p].drive = .dead x .throw → s.points[p].detection ≠ .at x →
      Completes (.reversalLockExpiry p) s fun t =>
        t.sections = s.sections ∧ t.signals = s.signals ∧ t.sameRoutes s
          ∧ t.points[p] =
            if s.sections[c.track].occupied then { s.points[p] with reversalLock := none }
            else { s.points[p] with
              reversalLock := none, drive := .throwing x, throwTimer := some c.throwTime
              overCurrentTimer := if s.points[p].senseActive then some c.overCurrentTime else none })
    ∧ (∀ x y, s.points[p].drive = .dead x .swingBack → s.points[p].returnPosition = some y →
        s.points[p].detection ≠ .at x → s.points[p].detection ≠ .at y →
        Completes (.reversalLockExpiry p) s fun t =>
          t.sections = s.sections ∧ t.signals = s.signals ∧ t.sameRoutes s
            ∧ t.points[p] =
              if s.sections[c.track].occupied then { s.points[p] with reversalLock := none }
              else { s.points[p] with
                reversalLock := none, drive := .swingBack x, throwTimer := some c.throwTime
                overCurrentTimer := if s.points[p].senseActive then some c.overCurrentTime else none })
    ∧ ((∀ x n, s.points[p].drive ≠ .dead x n) → Completes (.reversalLockExpiry p) s fun t =>
        t.points[p] = { s.points[p] with reversalLock := none } ∧ t.sections = s.sections
          ∧ t.signals = s.signals ∧ t.sameRoutes s)

/-! ## Signals -/

/-- The lit lamp's input drops and comes back: LIT and INTERRUPTED, both proven, with the lamp proving timer between
(R53, R55). A PROCEED lamp that proves from AWAITING ends the step into OPEN: its route is OPEN (R58, R106). -/
def Obligations.LitLampFlickersProven : Prop :=
  (∀ (g : Fin 8) (s : State) (i : RouteInst),
    s.sampled → s.equipped (.signal g) = true → s.signals[g].aspect = .proceed →
    s.signals[g].proceedLamp = .awaiting → s.signals[g].proceedInput = false → s.signals[g].exitProof = true →
    s.instances[g] = some i → i.inStep = true → s.signals[g].clearingRoute = some (s.ownRef i.route) →
    Completes (.lampProvingInputChange g .proceed true) s fun t =>
      t.signals[g].aspect = .proceed ∧ t.signals[g].proceedLamp = .lit ∧ t.signals[g].provingTimer = none
        ∧ t.signals[g].supervision = .proven ∧ t.points = s.points ∧ t.sections = s.sections
        ∧ t.reservations = s.reservations
        ∧ t.instances[g] = some { i with state := .open, inStep := false, settingTimer := none })
  ∧ ∀ (g : Fin 8) (lamp : Lamp) (s : State) (c : SignalCfg),
    s.sampled → s.cfg.signals[g] = some c → s.signals[g].aspect = lampAspect lamp →
    (s.signals[g].litLamp = .lit → s.signals[g].input (lampAspect lamp) = true →
      Completes (.lampProvingInputChange g lamp false) s fun t =>
        t.signals[g].litLamp = .interrupted ∧ t.signals[g].provingTimer = some c.provingTime
          ∧ t.signals[g].supervision = .proven ∧ t.signals[g].aspect = s.signals[g].aspect
          ∧ t.signals[g].exitProof = s.signals[g].exitProof ∧ t.points = s.points ∧ t.sections = s.sections
          ∧ t.sameRoutes s)
    ∧ (s.signals[g].litLamp = .interrupted → s.signals[g].input (lampAspect lamp) = false →
      Completes (.lampProvingInputChange g lamp true) s fun t =>
        t.signals[g].litLamp = .lit ∧ t.signals[g].provingTimer = none ∧ t.signals[g].supervision = .proven
          ∧ t.signals[g].aspect = s.signals[g].aspect ∧ t.signals[g].exitProof = s.signals[g].exitProof
          ∧ t.points = s.points ∧ t.sections = s.sections ∧ t.sameRoutes s)

/-- The STOP lamp that does not prove is OUT: UNPROVEN, exit proof ABSENT, LAMP_STOP_FAIL (R55, R60). The PROCEED
lamp that does not prove replaces the signal with LAMP_PROCEED_FAIL, and its route, OPEN or in step, is HELD (R59,
R107, R108). -/
def Obligations.UnprovenStopLampFails : Prop :=
  (∀ (g : Fin 8) (s : State) (ref : RouteRef) (h : Fin 8) (i : RouteInst),
    s.sampled → s.equipped (.signal g) = true → s.signals[g].aspect = .proceed →
    (s.signals[g].proceedLamp = .awaiting ∨ s.signals[g].proceedLamp = .interrupted) →
    s.signals[g].provingTimer.isSome = true → s.signals[g].stopInput = false →
    s.signals[g].clearingRoute = some ref → s.instanceOf ref.route = some (h, i) →
    (i.state = .open ∨ i.inStep = true) →
    Completes (.lampProvingTimerExpiry g) s fun t =>
      t.signals[g].aspect = .stop ∧ t.signals[g].stopLamp = .awaiting ∧ t.signals[g].proceedLamp = .dark
        ∧ t.signals[g].clearingRoute = none ∧ t.points = s.points ∧ t.sections = s.sections
        ∧ t.instances[h] = some { i with state := .held, inStep := false, settingTimer := none }
        ∧ t.counts[faultIndex .lampProceedFail] = min 255 (s.counts[faultIndex .lampProceedFail] + 1))
  ∧ ∀ (g : Fin 8) (s : State),
    s.sampled → s.equipped (.signal g) = true → s.signals[g].aspect = .stop →
    (s.signals[g].stopLamp = .awaiting ∨ s.signals[g].stopLamp = .interrupted) →
    s.signals[g].provingTimer.isSome = true → s.exitTasks g false = [] →
    Completes (.lampProvingTimerExpiry g) s fun t =>
      t.signals[g] = { s.signals[g] with stopLamp := .out, provingTimer := none, exitProof := false }
        ∧ t.signals[g].supervision = .unproven ∧ t.points = s.points ∧ t.sections = s.sections ∧ t.sameRoutes s
        ∧ t.counts[faultIndex .lampStopFail] = min 255 (s.counts[faultIndex .lampStopFail] + 1)

/-! ## The area line -/

/-- A station that wins the header starts its frame and counts the attempt; one that loses counts nothing and
contends again without a yield gap (R68, R69). The idle bits and line levels are the command's operands (the model's
choice, log entry 8). -/
def Obligations.ContentionWinsOrLosesTheHeader : Prop :=
  ∀ (idle : Nat) (levels : BitVec 18) (s : State) (k : Nat) (e : SendEntry),
    s.ready → s.lineUsed = true → s.sending = none → s.nextFrame = some k → s.sendQueue[k]? = some e →
    s.idleNeeded ≤ idle →
    (levels = headerBits s.own e.telegram → CompletesDraining (.contention idle levels) s fun t => t = { s with
      idleCount := 0, sending := some (frameLevels s.own e.telegram)
      sendQueue := s.sendQueue.modify k fun e => { e with attempts := e.attempts + 1 } })
    ∧ (arbitrationLost (headerBits s.own e.telegram) levels = true →
      CompletesDraining (.contention idle levels) s fun t => t = { s with idleCount := 0, yieldGap := false })

/-- A line error at the sender: the telegram stays the next frame until its third attempt, which gives it up with
LINE_ERROR, kept as the first fault if there was none (R70, R182). Given up, a class 0 telegram forces a break and
an OFFER fails at its record (R73, R86, R87, R169). That a telegram whose pending entry has gone before changes neither
requests nor boundaries when it is given up (the settled clause of `State.gaveUp`) is the model's reading (log entry
36). -/
def Obligations.LineErrorRepeatsThenGivesUp : Prop :=
  ∀ (s : State) (k : Nat) (e : SendEntry), s.ready → s.onLine = some k → s.sendQueue[k]? = some e →
    e.doomed = false →
    (e.attempts < 3 → CompletesDraining .abortMark s fun t =>
      t = { s with sending := none, yieldGap := true, idleCount := 0 })
    ∧ (3 ≤ e.attempts → bodyTag e.telegram.body = none → telegramClass e.telegram ≠ 0 →
      Completes .abortMark s fun t =>
        t.sending = none ∧ t.yieldGap = true ∧ t.idleCount = 0
          ∧ (∃ more, t.sendQueue = s.sendQueue.eraseIdx k ++ more) ∧ t.sameElements s ∧ t.sameRoutes s
          ∧ t.counts[faultIndex .lineError] = min 255 (s.counts[faultIndex .lineError] + 1)
          ∧ t.firstFault = s.firstFault.or (some ⟨.lineError, .controller, none, s.captureTimer⟩))
    ∧ (3 ≤ e.attempts → Completes .abortMark s fun t =>
        t.sending = none ∧ t.yieldGap = true ∧ t.idleCount = 0 ∧ t.gaveUp s e .lineError)

/-- A dominant slot delivers, and a broadcast is delivered whatever the slot shows: the telegram leaves the queue, a
tagged request with a pending entry starts its answer deadline, and a PRESENCE announces the muting marks it left
out (R72, R79, R86). The entry freed drains the report queue while 8 entries are free (R178). A recessive slot
repeats within three attempts, and the third gives the telegram up (R72, R73). That a telegram whose pending entry has
gone before starts no deadline when it is delivered, and changes neither requests nor boundaries when it is given up
(`SendEntry.pendingTag`, the settled clause of `State.gaveUp`), is the model's reading (log entry 36). -/
def Obligations.SlotDeliversOrRepeats : Prop :=
  ∀ (s : State) (k : Nat) (e : SendEntry), s.ready → s.onLine = some k → s.sendQueue[k]? = some e →
    e.doomed = false →
    (∀ dominant, dominant = true ∨ e.telegram.dest = 0 → Completes (.acknowledgementSlot dominant) s fun t =>
      t.sending = none ∧ t.yieldGap = true ∧ t.idleCount = 0 ∧ t.sameElements s ∧ t.sameRoutes s
        ∧ (s.reports = [] → t.sendQueue = s.sendQueue.eraseIdx k ∧ t.reports = [])
        ∧ (∃ more, t.sendQueue = s.sendQueue.eraseIdx k ++ more)
        ∧ (∃ n, t.reports = s.reports.drop n)
        ∧ (s.lineUsed = true → t.reports = [] ∨ 32 < t.sendQueue.length + 8)
        ∧ (bodyKind e.telegram.body = .presence → t.peers = s.peers.map fun p =>
            if p.muting = .pending ∧ !e.mutedLater.contains p.address then { p with muting := .announced } else p)
        ∧ t.requests = match e.pendingTag with
          | some tag => s.requests.map fun q =>
              if q.tag = tag then { q with state := .waiting s.cfg.answerTimeout } else q
          | none => s.requests)
    ∧ (e.telegram.dest ≠ 0 → e.attempts < 3 →
      CompletesDraining (.acknowledgementSlot false) s fun t =>
        t = { s with sending := none, yieldGap := true, idleCount := 0 })
    ∧ (e.telegram.dest ≠ 0 → 3 ≤ e.attempts → Completes (.acknowledgementSlot false) s fun t =>
      t.sending = none ∧ t.yieldGap = true ∧ t.idleCount = 0 ∧ t.gaveUp s e .undelivered)

/-- An intact frame to this station is acknowledged where the receive queue has room and is discarded without record
where it has none; a wrong check records LINE_ERROR (R71). That a frame received ends the yield gap is the model's
reading of R68 (log entry 8). -/
def Obligations.IntactFrameIsTakenAndAcknowledged : Prop :=
  ∀ (idle : Nat) (levels : List Bool) (s : State) (own : Nat),
    s.ready → s.lineUsed = true → s.sending = none → 11 ≤ idle → s.address = some own →
    (∀ x, readFrame levels = .intact own x → s.recvQueue.length < 16 →
      CompletesDraining (.frameReceive idle levels) s fun t => t = { s with
        idleCount := 0, yieldGap := false, slotDriven := true, recvQueue := s.recvQueue ++ [x] })
    ∧ (∀ x, readFrame levels = .intact own x → 16 ≤ s.recvQueue.length →
      CompletesDraining (.frameReceive idle levels) s fun t =>
        t = { s with idleCount := 0, yieldGap := false, slotDriven := false })
    ∧ (readFrame levels = .badCheck own →
      Completes (.frameReceive idle levels) s fun t =>
        t.slotDriven = false ∧ t.recvQueue = s.recvQueue ∧ t.sameElements s ∧ t.sameRoutes s
          ∧ t.counts[faultIndex .lineError] = min 255 (s.counts[faultIndex .lineError] + 1))

/-- A peer not yet PRESENT moves by the view of its PRESENCE: to PRESENT with its last request cleared, or to HALF;
its silence timer starts afresh for 3 P (R81, R83, R84). One already PRESENT stays so, or breaks where the view no
longer has this station; one whose muting mark is PENDING is not heard (R86, R87). -/
def Obligations.PresenceMovesPeerByView : Prop :=
  ∀ (source blocking own : Nat) (service : ServiceState) (view : BitVec 24) (s : State) (p : PeerEntry),
    s.ready → s.lineUsed = true → s.address = some own → 1 ≤ own → own ≤ 24 → s.peer source = some p →
    (p.muting ≠ .pending → p.state ≠ .present → Completes (.presence source service blocking view) s fun t =>
      t.sameElements s ∧ t.sameRoutes s ∧ t.boundaries = s.boundaries
        ∧ t.peer source =
          if view.getLsbD (own - 1) then
            some { p with
              state := .present, silence := some (3 * s.presencePeriod), lastRequest := none, muting := .absent }
          else some { p with state := .half, silence := some (3 * s.presencePeriod), muting := .absent })
    ∧ (p.muting ≠ .pending → p.state = .present → view.getLsbD (own - 1) = true →
      CompletesDraining (.presence source service blocking view) s fun t =>
        t.sameElements s ∧ t.sameRoutes s ∧ t.boundaries = s.boundaries ∧ t.requests = s.requests
          ∧ t.sendQueue = s.sendQueue
          ∧ t.peer source = some { p with silence := some (3 * s.presencePeriod), muting := .absent })
    ∧ (p.muting ≠ .pending → p.state = .present → view.getLsbD (own - 1) = false → s.vacant →
      s.noBoundaryAt source → Completes (.presence source service blocking view) s fun t =>
        t.sameElements s ∧ t.requests = s.requests.filter (·.dest != source)
          ∧ t.counts[faultIndex .peerBreak] = min 255 (s.counts[faultIndex .peerBreak] + 1)
          ∧ t.peer source =
            some { p with state := .half, silence := some (3 * s.presencePeriod), muting := .absent })
    ∧ (p.muting = .pending → CompletesDraining (.presence source service blocking view) s (· = s))

/-- Each presence period a PRESENCE is placed with the service state, the blocking count and the view; one that
finds no room is dropped with UNDELIVERED (R73, R82). -/
def Obligations.PresencePeriodAnnounces : Prop :=
  ∀ s : State, s.ready → s.presenceTimer.isSome = true →
    (s.sendQueue.length + 8 ≤ 32 → CompletesDraining .presencePeriod s fun t =>
      t.presenceTimer = some s.presencePeriod
        ∧ t.sendQueue = s.sendQueue ++ [placed 0 (.presence s.service s.blocking.length s.view)]
        ∧ t.sameElements s ∧ t.sameRoutes s ∧ t.counts = s.counts ∧ t.reports = s.reports)
    ∧ (32 < s.sendQueue.length + 8 → Completes .presencePeriod s fun t =>
      t.presenceTimer = some s.presencePeriod ∧ t.sameElements s ∧ t.sameRoutes s
        ∧ min 255 (s.counts[faultIndex .undelivered] + 1) ≤ t.counts[faultIndex .undelivered])

/-- A peer's silence makes it LOST. From PRESENT this is a break: its pending requests and telegrams are removed,
its reservations here are orphaned, the images of its sections forgotten, PEER_BREAK recorded (R34, R84, R87, R138).
A boundary toward it loses its outbound queue and returns from ASKING; a route past setting with a portion there
goes to EMERGENCY for the orphan time, and one being set is rolled back (R114, R136, R164, R175). A boundary holds
up to four claims and waiting routes together (R160). -/
def Obligations.SilenceLosesPeerAndOrphans : Prop :=
  ∀ (a : Nat) (s : State) (p : PeerEntry), s.ready → s.peer a = some p → p.silence.isSome = true →
    (p.state ≠ .present → Completes (.silenceTimerExpiry a) s fun t =>
      t.peer a = some { p with state := .lost, silence := none } ∧ t.sameElements s ∧ t.sameRoutes s
        ∧ t.requests = s.requests)
    ∧ (p.state = .present → a ≠ 0 → s.vacant → s.sending = none →
      (∀ b : Fin 4, s.boundaries[b].claims.length + s.boundaries[b].waiting.length ≤ 4) →
      Completes (.silenceTimerExpiry a) s fun t =>
        (∀ (b : Fin 4) (c : BoundaryCfg), s.cfg.boundaries[b] = some c → t.boundaries[b] =
            if c.neighbour = a then
              match s.boundaries[b].direction with
              | .asking previous =>
                { s.boundaries[b] with outbound := [], direction := returned previous, waiting := [] }
              | _ => { s.boundaries[b] with outbound := [] }
            else s.boundaries[b])
          ∧ t.peer a = some { p with state := .lost, silence := none } ∧ t.sameElements s
          ∧ t.requests = s.requests.filter (·.dest != a) ∧ (∀ e ∈ t.sendQueue, e.telegram.dest ≠ a)
          ∧ t.reservations = s.reservations.map (fun r =>
            if r.ref.station = a ∧ r.state = .active then { r with state := .orphaned (some s.cfg.orphanTime) }
            else r)
          ∧ (∀ e ∈ t.remote, e.station = a → e.image = .unknown ∧ e.capture = none ∧ e.heldBy = [])
          ∧ t.counts[faultIndex .peerBreak] = min 255 (s.counts[faultIndex .peerBreak] + 1))
    ∧ ∀ (g : Fin 8) (i : RouteInst) (r : RouteRecord) (x : Portion), p.state = .present →
      s.plainRoute g i r → (∀ h : Fin 8, h ≠ g → s.instances[h] = none) → i.portions = [x] → x.owner = a →
      (i.beingSet = false → i.state ≠ .emergency → x.state.holding = true →
        s.holdsLock (s.ownRef i.route) = true → Completes (.silenceTimerExpiry a) s fun t =>
          t.sameElements s ∧ t.instances[g] = some { i with
            portions := [{ x with state := .void }], inStep := false, approachTimer := none
            overlapTimer := if i.state = .entered then .stopped else i.overlapTimer
            emergencyTimer := .running s.cfg.orphanTime, state := .emergency })
      ∧ (i.beingSet = true → x.state = .pending ∨ x.state.holding = true →
        Completes (.silenceTimerExpiry a) s fun t =>
          t.routeOver s g i (some ⟨.peerAbsent, x.indices.headD 0⟩) ∧ t.locksFreed s i r (i.left r))

/-- When the answer deadline of an OFFER passes, its entry is removed and the outbound record is UNANSWERED; of a
DIRECTION REQUEST, the boundary returns to its previous direction; of a RESERVE, the route is rolled back with
PEER_ABSENT; of a FLANK CLAIM without substitute, the route fails and the claim's elements are released (R79, R96,
R112, R145, R146, R162, R169). The owner that has not answered a RESERVE is sent a RELEASE under its tag too (R112).
-/
def Obligations.PassedDeadlineLeavesOfferUnanswered : Prop :=
  ∀ (s : State) (q : Request) (left : Nat),
    s.ready → s.requestsHold → q ∈ s.requests → q.state = .waiting left →
    (∀ b : Fin 4, q.subject = .offer b → CompletesDraining (.answerDeadline q.tag) s fun t =>
      t.requests = s.requests.filter (·.tag != q.tag) ∧ t.sameElements s ∧ t.sameRoutes s
        ∧ t.sendQueue = s.sendQueue
        ∧ t.boundaries[b].outbound = s.boundaries[b].outbound.map (fun o =>
          if o.tag = q.tag ∧ o.state = .offered then { o with state := .unanswered none } else o))
    ∧ (∀ (b : Fin 4) (previous : PreviousDirection), q.subject = .direction b →
      s.boundaries[b].direction = .asking previous → s.boundaries[b].waiting = [] →
      CompletesDraining (.answerDeadline q.tag) s fun t =>
        t.requests = s.requests.filter (·.tag != q.tag) ∧ t.sameElements s ∧ t.sameRoutes s
          ∧ t.sendQueue = s.sendQueue
          ∧ t.boundaries[b] = { s.boundaries[b] with direction := returned previous })
    ∧ (∀ (g : Fin 8) (i : RouteInst) (r : RouteRecord) (x : Portion), q.subject = .portion g i.route →
      s.plainRoute g i r → i.beingSet = true → x ∈ i.portions → x.owner = q.dest → x.state = .pending →
      x.tag = some q.tag → Completes (.answerDeadline q.tag) s fun t =>
        t.routeOver s g i (some ⟨.peerAbsent, x.indices.headD 0⟩) ∧ t.locksFreed s i r (i.left r)
          ∧ t.releasesPlaced s i r (i.left r) ∧ t.reservations = s.reservations
          ∧ (i.released = [] → x.indices ≠ [] → s.isPresent q.dest = true →
            s.sendQueue.length + i.portions.length + 1 ≤ 32 →
            placed q.dest (.release q.tag (s.ownRef i.route) (wireElems r x.indices)) ∈ t.sendQueue))
    ∧ ∀ (g : Fin 8) (i : RouteInst) (r : RouteRecord) (f : FlankEntry) (x : FlankPortion) (elems : List Nat),
      q.subject = .flank g i.route elems → s.running g = some (i, r) → s.instanceOf i.route = some (g, i) →
      i.state = .positioning → r.flank = [f] → f.substitute = none → i.flank = [x] → x.state = .pending →
      x.owner ≠ 0 → x.tag = some q.tag → i.portionsFit r →
      (i.directionHeld = true → (exitBoundary r).isSome = true) → (∀ h : Fin 8, s.signals[h].aspect = .stop) →
      Completes (.answerDeadline q.tag) s fun t =>
        t.routeOver s g i (some ⟨.peerAbsent, 21⟩) ∧ t.locksFreed s i r (i.left r)
          ∧ (s.isPresent q.dest = true → s.sendQueue.length + i.portions.length + 2 ≤ 32 →
            placed q.dest (.flankRelease q.tag (s.ownRef i.route) elems) ∈ t.sendQueue)

/-- Which telegrams of known kind the checks of R75 pass, and how they turn the others away: a wrong sender
NOT_PERMITTED, a class or a body that does not fit the kind BAD_TELEGRAM or LINE_ERROR, an absent peer PEER_ABSENT,
a repetition ignored (R75, R76, R81). That a malformed REPORT, ALERT or addressed PRESENCE counts as LINE_ERROR is
the model's choice (log entry 32). -/
def Obligations.ChecksPassOrTurnAway : Prop :=
  ∀ (s : State) (x : RawTelegram) (k : Kind) (body : Body),
    s.service ≠ .configFault → Kind.ofCode x.kind = some k →
    let turned := fun reason : Reason =>
      if k.tagged then Vetting.refused (s.refusalOf k x.bytes reason) else .ignored
    (s.peer x.source = none → s.vet x = turned .notPermitted)
    ∧ ∀ p, s.peer x.source = some p →
      (k = .command → p.role ≠ .desk → s.vet x = turned .notPermitted)
      ∧ (k.request = true → k ≠ .command → p.role ≠ .neighbour → s.vet x = turned .notPermitted)
      ∧ ((k = .command → p.role = .desk) → (k.request = true → k ≠ .command → p.role = .neighbour) →
        (¬(k.cls = x.cls ∧ k.unexamined = true) → (k.cls = x.cls → decodeBody k x.bytes = none) →
          s.vet x = if k.tagged then .refused (s.refusalOf k x.bytes .badTelegram) else .lineError)
        ∧ (k.cls = x.cls → k.unexamined = true → s.vet x = .ignored)
        ∧ (k.cls = x.cls → decodeBody k x.bytes = some body → k.unexamined = false →
          s.vet x =
            if k.request = true ∧ p.state ≠ .present then turned .peerAbsent
            else if k.tagged = true ∧ p.lastRequest = some (tagOf x.bytes, x.kind) then .ignored
            else .passed body))

/-- A telegram of unknown kind is refused BAD_TELEGRAM in class 1 and discarded with LINE_ERROR in the others; a
COMMAND ANSWER, REPORT or ALERT is ignored (R75, R76). That an unknown kind has no check 2 is the model's reading
(log entry 11). -/
def Obligations.UnknownAndIgnoredTelegrams : Prop :=
  ∀ (s : State) (x : RawTelegram) (rest : List RawTelegram) (p : PeerEntry),
    s.ready → s.service ≠ .configFault → s.recvQueue = x :: rest → s.peer x.source = some p →
    (Kind.ofCode x.kind = none → x.cls ≠ 1 → Completes .unknownKind s fun t =>
      t.recvQueue = rest ∧ t.sameElements s ∧ t.sameRoutes s
        ∧ t.counts[faultIndex .lineError] = min 255 (s.counts[faultIndex .lineError] + 1))
    ∧ (Kind.ofCode x.kind = none → x.cls = 1 → s.sendQueue.length < 32 → CompletesDraining .unknownKind s fun t =>
      t.recvQueue = rest ∧ t.sameElements s ∧ t.sameRoutes s ∧ t.counts = s.counts
        ∧ ∃ index, t.sendQueue = s.sendQueue
            ++ [placed x.source (.reserveAnswer (x.bytes.headD 0) ⟨0, 0⟩ (some .badTelegram) index [])])
    ∧ ((x.kind = 0x25 ∨ x.kind = 0x26) → x.cls = 2 →
      CompletesDraining .commandAnswerReceived s (· = { s with recvQueue := rest }))
    ∧ (x.kind = 0x31 → x.cls = 3 → CompletesDraining .commandAnswerReceived s (· = { s with recvQueue := rest }))

/-! ## Reservations and claims at the owner -/

/-- An admitted RESERVE: GRANTED is placed, the entry is made, every element locked, and every point called for the
route (R14, R40, R97, R98). A point out of position is at REST with no requester left, and the queue has room for
GRANTED and PROVEN. A refused RESERVE is answered with reason and index and changes nothing. That the entry of a
RESERVE that names only an EXIT is kept, though it lists no element, is the model's choice (log entry 33). -/
def Obligations.ReserveLocksAndGrantsOrRefuses : Prop :=
  (∀ (s : State) (source : Nat) (tag : Byte) (ref : RouteRef) (reqs : List WireReq) (rest : List RawTelegram),
    s.ready → s.hands source (.reserve tag ref reqs) rest → s.reserveRefusal source ref reqs = none →
    s.reservation ref = none → s.admissionRefusal ref reqs = none → s.sendQueue.length + 2 ≤ 32 →
    source ≠ s.own → (∀ q ∈ reqs, s.callable q.elem q.state) →
    Completes .reserve s fun t =>
      t.recvQueue = rest
        ∧ (∃ e, t.reservation ref = some e ∧ e.tag = tag ∧ e.elems = lockedElems reqs
            ∧ e.exitSignal = reservedExit reqs ∧ e.state = .active)
        ∧ (∀ x ∈ lockedElems reqs, ∃ l, t.lockOf x.elem = some l ∧ l.ref = ref ∧ l.role = x.role
            ∧ l.releasePending = false)
        ∧ (∀ x ∈ lockedElems reqs, ∀ p : Fin 8, x.elem = .points p → t.called s p x.state (.holder ref))
        ∧ t.instances = s.instances ∧ t.register = s.register ∧ t.boundaries = s.boundaries
        ∧ ∃ index more, t.sendQueue = s.sendQueue ++ placed source
            (.reserveAnswer tag ref none index ((lockedElems reqs).map fun x => elemNumber x.elem)) :: more)
  ∧ ∀ (s : State) (source : Nat) (tag : Byte) (ref : RouteRef) (reqs : List WireReq) (rest : List RawTelegram)
    (f : Failure),
    s.ready → s.hands source (.reserve tag ref reqs) rest → s.sendQueue.length < 32 →
    (s.reserveRefusal source ref reqs = some f
      ∨ s.reserveRefusal source ref reqs = none ∧ s.activeReservation ref = none
        ∧ s.admissionRefusal ref reqs = some f) →
    CompletesDraining .reserve s fun t =>
      t.recvQueue = rest ∧ t.sameElements s ∧ t.sameRoutes s ∧ t.boundaries = s.boundaries
        ∧ t.sendQueue = s.sendQueue ++ [placed source (.reserveAnswer tag ref (some f.reason) f.index [])]

/-- A RELEASE of one section: with the section CLEAR its lock goes, with flag and train record, and the element
leaves the entry; with it OCCUPIED the lock is release-pending (R9, R28, R99, R101, R165). -/
def Obligations.ReleaseFreesOrMarksPending : Prop :=
  ∀ (s : State) (tag : Byte) (ref : RouteRef) (i : Fin 16) (rest : List RawTelegram) (r : Reservation)
    (l : RouteLock),
    s.ready → s.reservationsHold → s.hands ref.station (.release tag ref [i.val]) rest →
    s.reservation ref = some r → r.state = .active → r.tag = tag → (r.elems.any (·.elem == .track i)) = true →
    s.sections[i].lock = some l → l.ref = ref → ref.station ≠ s.own → s.sendQueue.length < 32 →
    Completes .release s fun t =>
      t.recvQueue = rest ∧ t.points = s.points ∧ t.signals = s.signals ∧ t.instances = s.instances
        ∧ (if s.sections[i].occupied then
            t.sections[i].lock = some { l with releasePending := true }
              ∧ (t.reservation ref).map (·.elems) = some r.elems
          else
            t.sections[i].lock = none ∧ t.sections[i].sequenceFault = false ∧ t.sections[i].train = none
              ∧ (t.reservation ref).map (·.elems) =
                (let left := r.elems.filter (·.elem != .track i)
                 if left.isEmpty then none else some left))

/-- A FLANK CLAIM that is granted a point enters the claim and the register, calls the point and is answered; a
FLANK RELEASE of the point under its tag frees it again, whatever else the register holds (R10, R17, R40, R147,
R148, R150). -/
def Obligations.FlankClaimEntersAndReleaseFrees : Prop :=
  (∀ (s : State) (source : Nat) (tag : Byte) (ref : RouteRef) (p : Fin 8) (role : Role) (state : Required)
    (rest : List RawTelegram),
    s.ready → s.hands source (.flankClaim tag ref [⟨16 + p.val, role, state⟩]) rest →
    s.claimRefusal source ref [⟨16 + p.val, role, state⟩] = none → s.registered ref = none →
    s.claimVerdict ref (.points p) state = none → source ≠ s.own → s.callable (16 + p.val) state →
    s.sendQueue.length + 2 ≤ 32 →
    Completes .flankClaim s fun t =>
      t.recvQueue = rest ∧ t.points[p].claims = addClaimIn ref state s.points[p].claims
        ∧ t.called s p state (.claimant ref)
        ∧ (s.points[p].commanded = requiredPosition state → t.points[p].drive = s.points[p].drive)
        ∧ t.sections = s.sections ∧ t.signals = s.signals ∧ t.instances = s.instances
        ∧ (∃ mark, t.registered ref = some ⟨ref, .active, [⟨.points p, state, tag, mark⟩]⟩)
        ∧ ∃ index more, t.sendQueue =
            s.sendQueue ++ placed source (.flankAnswer tag ref none index [(16 + p.val, none)]) :: more)
  ∧ ∀ (s : State) (tag : Byte) (ref : RouteRef) (p : Fin 8) (r : RegisterEntry) (rest : List RawTelegram),
    s.ready → s.hands ref.station (.flankRelease tag ref [16 + p.val]) rest → (s.register.map (·.ref)).Nodup →
    s.registered ref = some r → r.state = .active →
    (r.elems.any fun c => c.elem == .points p && c.tag == tag) = true →
    Completes .flankRelease s fun t =>
      t.recvQueue = rest ∧ t.points[p].claims = freeClaimIn ref s.points[p].claims
        ∧ (t.registered ref).map (·.elems) =
          (let left := r.elems.filter (·.elem != .points p)
           if left.isEmpty then none else some left)
        ∧ (∀ other, other ≠ ref → t.registered other = s.registered other)
        ∧ t.sections = s.sections ∧ t.signals = s.signals ∧ t.instances = s.instances

/-- Expiry of the orphan timers: a reservation's section is freed, or left release-pending while OCCUPIED; a claim
is freed and its entry ends (R139, R156). -/
def Obligations.OrphanExpiryFreesElements : Prop :=
  (∀ (s : State) (ref : RouteRef) (i : Fin 16) (r : Reservation) (role : Role) (state : Required) (l : RouteLock)
    (left : Nat),
    s.ready → s.reservationsHold → s.reservation ref = some r → r.state = .orphaned (some left) →
    r.elems = [⟨.track i, role, state⟩] → s.sections[i].lock = some l → l.ref = ref → ref.station ≠ s.own →
    Completes (.orphanTimerExpiry ref) s fun t =>
      t.points = s.points ∧ t.signals = s.signals ∧ t.instances = s.instances
        ∧ (if s.sections[i].occupied then
            t.sections[i].lock = some { l with releasePending := true }
              ∧ t.reservation ref = some { r with exitSignal := none, state := .orphaned none }
          else t.sections[i].lock = none ∧ t.reservation ref = none))
  ∧ ∀ (s : State) (ref : RouteRef) (p : Fin 8) (state : Required) (tag : Byte) (mark : ProofMark) (left : Nat),
    s.ready → s.register = [⟨ref, .orphaned (some left), [⟨.points p, state, tag, mark⟩]⟩] →
    Completes (.claimOrphanExpiry ref) s fun t =>
      t.register = [] ∧ t.points[p].claims = freeClaimIn ref s.points[p].claims ∧ t.sections = s.sections
        ∧ t.signals = s.signals ∧ t.instances = s.instances

/-! ## Handover -/

/-- A DIRECTION REQUEST is checked in R161's order and refused NOT_IN_SERVICE, UNKNOWN_ELEMENT, NOT_PERMITTED or
BLOCKED; else it is granted in NEUTRAL and IN, and in OUT with nothing held there, where claims or trains refuse it.
In ASKING the lower address wins: the request of the higher is refused CONTENDED, that of the lower is granted and
this station's own withdrawn (R161). No route waits at an ASKING boundary that grants. -/
def Obligations.DirectionRequestIsGrantedOrRefused : Prop :=
  ∀ (s : State) (source index : Nat) (tag : Byte) (rest : List RawTelegram),
    s.ready → s.hands source (.directionRequest tag index) rest → s.sendQueue.length < 32 →
    let answers := fun (reason : Option Reason) (P : State → Prop) => CompletesDraining .directionRequest s fun t =>
      t.recvQueue = rest ∧ t.sameElements s ∧ t.sameRoutes s ∧ P t
        ∧ ∃ before, t.sendQueue = before ++ [placed source (.directionAnswer tag index reason)]
          ∧ (t.requests = s.requests → before = s.sendQueue)
    let refused := fun reason : Reason =>
      answers (some reason) fun t => t.boundaries = s.boundaries ∧ t.requests = s.requests
    let inUse := s.service = .outOfService ∨ s.service = .inService
    (¬inUse → refused .notInService)
    ∧ (inUse → s.boundaryAt index = none → refused .unknownElement)
    ∧ ∀ (b : Fin 4) (c : BoundaryCfg), inUse → s.boundaryAt index = some (b, c) →
      (c.neighbour ≠ source → refused .notPermitted)
      ∧ (c.neighbour = source → (s.blockOf (.boundary b)).isSome = true → s.boundaries[b].direction ≠ .into →
        refused .blocked)
      ∧ (c.neighbour = source → s.blockOf (.boundary b) = none ∨ s.boundaries[b].direction = .into →
        let held := s.boundaries[b].direction = .out ∧ ¬ (s.boundaries[b].claims = []
          ∧ s.boundaries[b].outbound = [] ∧ s.boundaries[b].inbound = [])
        (held → refused .directionRefused)
        ∧ (¬held → (∀ previous, s.boundaries[b].direction ≠ .asking previous) → answers none fun t =>
            t.boundaries[b] = { s.boundaries[b] with direction := .into } ∧ t.requests = s.requests)
        ∧ ∀ previous, s.boundaries[b].direction = .asking previous →
          (s.own ≤ source → refused .contended)
          ∧ ∀ q ∈ s.requests, source < s.own → s.boundaries[b].waiting = [] → s.requestsHold →
            (∀ x ∈ s.requests, x.subject = .direction b → x = q) → q.subject = .direction b →
            answers none fun t => t.boundaries[b] = { s.boundaries[b] with direction := .into }
              ∧ t.requests = s.requests.filter (·.tag != q.tag))

/-- An OFFER at a boundary that is IN joins the inbound queue with ACCEPT, or is refused QUEUE_FULL (R172). -/
def Obligations.OfferJoinsInboundQueue : Prop :=
  ∀ (s : State) (source index train speed receiving : Nat) (tag : Byte) (rest : List RawTelegram) (b : Fin 4)
    (c : BoundaryCfg),
    s.ready → s.hands source (.offer tag index train speed receiving) rest →
    (s.service = .outOfService ∨ s.service = .inService) → s.boundaryAt index = some (b, c) →
    c.neighbour = source → receiving = c.edge.val → s.boundaries[b].direction = .into →
    s.sendQueue.length + 4 ≤ 32 →
    CompletesDraining .offer s fun t =>
      t.recvQueue = rest ∧ t.sameElements s ∧ t.sameRoutes s
        ∧ (if s.boundaries[b].inbound.length < 4 then
            t.boundaries[b].inbound = s.boundaries[b].inbound ++ [⟨train, speed, tag⟩]
              ∧ t.sendQueue = s.sendQueue ++ [placed source (.offerAnswer tag index none)]
          else
            t.boundaries = s.boundaries
              ∧ t.sendQueue = s.sendQueue ++ [placed source (.offerAnswer tag index (some .queueFull))])

/-- A CONFIRM removes the outbound record of its train, and one taken twice changes nothing; without one, the
confirm timer removes the record with HANDOVER_UNCONFIRMED (R170, R171). -/
def Obligations.ConfirmOrTimerEndsOutboundRecord : Prop :=
  ∀ (s : State) (b : Fin 4) (o : OutboundRec) (more : List OutboundRec), s.ready →
    (∀ (source index : Nat) (tag : Byte) (rest : List RawTelegram) (c : BoundaryCfg),
      s.hands source (.confirm tag index o.train) rest → s.boundaryAt index = some (b, c) →
      c.neighbour = source →
      (s.boundaries[b].lastConfirm ≠ some (o.train, tag) → s.boundaries[b].outbound = o :: more →
        Completes .confirm s fun t =>
          t.recvQueue = rest ∧ t.sameElements s ∧ t.sameRoutes s
            ∧ t.boundaries[b] = { s.boundaries[b] with outbound := more, lastConfirm := some (o.train, tag) })
      ∧ (s.boundaries[b].lastConfirm = some (o.train, tag) → CompletesDraining .confirm s (· = { s with recvQueue := rest })))
    ∧ (s.boundaries[b].outbound = o :: more → o.confirmTimer.isSome = true →
      Completes (.confirmTimerExpiry b o.tag) s fun t =>
        t.boundaries[b] = { s.boundaries[b] with outbound := more } ∧ t.sameElements s ∧ t.sameRoutes s
          ∧ t.counts[faultIndex .handoverUnconfirmed] =
            min 255 (s.counts[faultIndex .handoverUnconfirmed] + 1))

/-- Answers that settle a boundary's request: GRANTED makes an ASKING boundary OUT, a refusal returns it to its
previous direction, and an OFFER ANSWER marks the outbound record (R80, R162, R169). A route that waits there holds
its claim and, with no remote portion, enters POSITIONING; refused, it is rolled back with DIRECTION_REFUSED or
CONTENDED (R93, R105, R112). -/
def Obligations.BoundaryAnswersAreTaken : Prop :=
  ∀ (s : State) (q : Request) (b : Fin 4) (index : Nat) (reason : Option Reason) (rest : List RawTelegram)
    (c : BoundaryCfg),
    s.ready → s.requestsHold → q ∈ s.requests → s.cfg.boundaries[b] = some c → c.neighbourIndex = index →
    (∀ previous, q.subject = .direction b → s.boundaries[b].direction = .asking previous →
      s.boundaries[b].waiting = [] → s.hands q.dest (.directionAnswer q.tag index reason) rest →
      Completes .directionAnswer s fun t =>
        t.recvQueue = rest ∧ t.requests = s.requests.filter (·.tag != q.tag) ∧ t.sameElements s ∧ t.sameRoutes s
          ∧ t.boundaries[b] = { s.boundaries[b] with
            direction := if reason = none then .out else returned previous })
    ∧ (∀ (previous : PreviousDirection) (g : Fin 8) (i : RouteInst) (r : RouteRecord), q.subject = .direction b →
      s.boundaries[b].direction = .asking previous → s.boundaries[b].waiting = [i.route] → s.plainRoute g i r →
      s.instanceOf i.route = some (g, i) → i.state = .setting → i.awaitingDirection = true →
      exitBoundary r = some b → s.hands q.dest (.directionAnswer q.tag index reason) rest →
      (reason = none → i.portions = [] → s.signals[g].proceedInput = false →
        Completes .directionAnswer s fun t =>
          t.recvQueue = rest ∧ t.sections = s.sections ∧ t.points = s.points
            ∧ t.boundaries[b] = { s.boundaries[b] with
              direction := .out, waiting := [], claims := s.boundaries[b].claims ++ [i.route] }
            ∧ ∃ j, t.instances[g] = some j ∧ j.route = i.route ∧ j.state = .positioning
              ∧ j.awaitingDirection = false ∧ j.directionHeld = true)
      ∧ ∀ x, reason = some x → Completes .directionAnswer s fun t =>
          t.recvQueue = rest
            ∧ t.boundaries[b] = { s.boundaries[b] with direction := returned previous, waiting := [] }
            ∧ t.routeOver s g i
              (some ⟨if x = .contended then .contended else .directionRefused, boundaryIndex r⟩)
            ∧ t.locksFreed s i r (i.left r))
    ∧ (q.subject = .offer b → s.hands q.dest (.offerAnswer q.tag index reason) rest →
      Completes .offerAnswer s fun t =>
        t.recvQueue = rest ∧ t.requests = s.requests.filter (·.tag != q.tag) ∧ t.sameElements s ∧ t.sameRoutes s
          ∧ t.boundaries[b].outbound = s.boundaries[b].outbound.map (fun o =>
            if o.tag = q.tag ∧ o.state = .offered then
              { o with state := match reason with
                | none => .accepted
                | some r => .unanswered (some r) }
            else o))

/-! ## Routes at their controller -/

/-- A STATE NOTICE writes the image and the converted capture of the section it names; one that no route names is
discarded (R33). -/
def Obligations.NoticeWritesImageAndCapture : Prop :=
  ∀ (s : State) (source elem age : Nat) (occupied proven bit2 refresh : Bool) (rest : List RawTelegram),
    s.ready → s.vacant → s.hands source (.stateNotice elem occupied proven bit2 refresh age) rest →
    Completes .stateNotice s fun t =>
      t.recvQueue = rest ∧ t.sameElements s ∧ t.instances = s.instances ∧ t.reservations = s.reservations
        ∧ (∀ e, s.remoteEntry ⟨source, elem⟩ = some e →
          t.remoteEntry ⟨source, elem⟩ = some { e with
            image := if occupied = true ∨ proven = false then .occupied else .clear
            capture := if age < 60000 then some ⟨s.captureTimer - BitVec.ofNat 16 age, false⟩ else none })
        ∧ (s.remoteEntry ⟨source, elem⟩ = none → t.remote = s.remote)

/-- PROVEN and LAPSE reach the portion at their source (R102): a PROVEN that completes the proof of a route in
POSITIONING makes it ask for PROCEED, which is granted (R57, R105); a LAPSE makes an OPEN route HELD with its signal
replaced (R108). -/
def Obligations.ProofAndLapseReachPortion : Prop :=
  ∀ (s : State) (source : Nat) (tag : Byte) (ref : RouteRef) (g : Fin 8) (i : RouteInst) (p : Portion)
    (rest : List RawTelegram),
    s.ready → ref.station = s.own → s.instanceOf ref.route = some (g, i) → p ∈ i.portions → p.owner = source →
    p.tag = some tag → p.state.holding = true →
    let proven := { i with
      portions := i.portions.map fun p => if p.owner = source then { p with state := .proven } else p }
    (s.hands source (.proven tag ref none) rest → i.state ≠ .positioning →
      Completes .proven s fun t =>
        t.recvQueue = rest ∧ t.sameElements s ∧ t.boundaries = s.boundaries ∧ t.instances[g] = some proven)
    ∧ (∀ r, s.hands source (.proven tag ref none) rest → s.running g = some (i, r) → i.state = .positioning →
      i.inStep = false → s.firstMissing g proven r = none → s.clearRefusal g ref = none →
      s.signals[g].proceedInput = false →
      Completes .proven s fun t =>
        t.recvQueue = rest ∧ t.sections = s.sections ∧ t.points = s.points ∧ t.boundaries = s.boundaries
          ∧ t.instances[g] = some { proven with inStep := true } ∧ t.signals[g].aspect = .proceed
          ∧ t.signals[g].proceedLamp = .awaiting ∧ t.signals[g].clearingRoute = some ref)
    ∧ ∀ reason, s.hands source (.lapse tag ref none reason) rest → i.state = .open →
      s.signals[g].aspect = .proceed → s.signals[g].stopInput = false →
      Completes .lapse s fun t =>
        t.recvQueue = rest ∧ t.signals[g].aspect = .stop ∧ t.signals[g].stopLamp = .awaiting
          ∧ t.signals[g].proceedLamp = .dark ∧ t.points = s.points ∧ t.sections = s.sections
          ∧ t.instances[g] = some { i with
            state := .held
            portions := i.portions.map fun p =>
              if p.owner = source then { p with state := .lapsed reason } else p }

/-- GRANTED for the first of two portions asks the second owner, under a new tag (R77, R94, R95). A late GRANTED is
returned by a RELEASE of what it lists, with its tag (R80). A REFUSED answer and the GRANTED of the last owner are
not stated here. -/
def Obligations.GrantAsksNextOwnerOrIsReturned : Prop :=
  (∀ (s : State) (g : Fin 8) (i : RouteInst) (r : RouteRecord) (p n : Portion) (q : Request) (tag : Byte)
    (index : Nat) (granted : List Nat) (rest : List RawTelegram),
    s.ready → s.requestsHold → s.running g = some (i, r) → i.state = .setting → i.portions = [p, n] →
    p.state = .pending → p.tag = some tag → n.state = .none → n.owner ≠ p.owner →
    q ∈ s.requests → q.tag = tag → q.dest = p.owner → q.subject = .portion g i.route →
    s.isPresent n.owner = true → s.sendQueue.length + 2 ≤ 32 →
    s.hands p.owner (.reserveAnswer tag (s.ownRef i.route) none index granted) rest →
    CompletesDraining .reserveAnswer s fun t =>
      t.recvQueue = rest ∧ t.sameElements s ∧ t.boundaries = s.boundaries
        ∧ t.instances[g] = some { i with portions :=
            [{ p with state := .granted }, { n with state := .pending, tag := some t.tagCounter }] }
        ∧ t.requests = s.requests.filter (·.tag != tag) ++ [⟨t.tagCounter, n.owner, .portion g i.route, .queued⟩]
        ∧ (∃ before, t.sendQueue = before
            ++ [placed n.owner (.reserve t.tagCounter (s.ownRef i.route) (wireReqs r n.indices))]))
  ∧ ∀ (s : State) (source : Nat) (tag : Byte) (ref : RouteRef) (index : Nat) (granted : List Nat)
    (rest : List RawTelegram),
    s.ready → s.hands source (.reserveAnswer tag ref none index granted) rest →
    (∀ q ∈ s.requests, q.tag ≠ tag) → s.isPresent source = true → s.sendQueue.length + 2 ≤ 32 →
    CompletesDraining .reserveAnswer s fun t =>
      t.recvQueue = rest ∧ t.sameElements s ∧ t.sameRoutes s ∧ t.requests = s.requests
        ∧ t.sendQueue = s.sendQueue ++ [placed source (.release tag ref granted)]

/-- A granted verdict of a FLANK ANSWER makes the pending flank portion GRANTED (R144). -/
def Obligations.FlankVerdictGrantsPortion : Prop :=
  ∀ (s : State) (g : Fin 8) (i : RouteInst) (r : RouteRecord) (f : FlankEntry) (x : FlankPortion) (q : Request)
    (tag : Byte) (index : Nat) (rest : List RawTelegram),
    s.ready → s.requestsHold → s.running g = some (i, r) → i.state = .positioning → r.flank = [f] →
    i.flank = [x] → x.state = .pending → x.owner ≠ 0 → x.tag = some tag → q ∈ s.requests → q.tag = tag →
    q.dest = x.owner → q.subject = .flank g i.route [(inUseReq f x.inUse).elem] →
    s.hands x.owner (.flankAnswer tag (s.ownRef i.route) none index [((inUseReq f x.inUse).elem, none)]) rest →
    Completes .flankAnswer s fun t =>
      t.recvQueue = rest ∧ t.sameElements s ∧ t.boundaries = s.boundaries
        ∧ t.requests = s.requests.filter (·.tag != tag)
        ∧ t.instances[g] = some { i with flank := [{ x with state := .granted }] }

/-- An accepted SET: every local requirement locked, every point called for the route, the instance in SETTING with
its setting limit running, ACCEPTED placed, and the first owner asked (R14, R40, R91, R92, R94); or, for a route to
a boundary that is NEUTRAL, the boundary ASKING and its neighbour asked for direction (R93, R160). A point out of
position is at REST with no requester left, and nothing is taken over. -/
def Obligations.AcceptedSetLocksAndAsks : Prop :=
  ∀ (s : State) (desk : Nat) (tag : Byte) (n : Nat) (r : RouteRecord) (rest : List RawTelegram),
    s.ready → s.handsCommand desk tag (.set n) rest → s.service = .inService → s.routeRecord n = some r →
    s.instances[r.entry] = none → s.instanceOf n = none → s.setRefusal r = none →
    s.judge (some r.entry) [] (localPart r) = none → s.takeovers r = [] →
    (∀ q ∈ localPart r, s.callable q.elem q.state) → s.sendQueue.length + 4 ≤ 32 → s.requests.length < 16 →
    let locked := fun t : State =>
      (∀ q ∈ localPart r, q.role ≠ .exit → ∀ e, elemOfNumber q.elem = some e → (∀ b, e ≠ .boundary b) →
        ∃ l, t.lockOf e = some l ∧ l.ref = s.ownRef n ∧ l.role = q.role)
      ∧ (∀ q ∈ localPart r, ∀ p, elemOfNumber q.elem = some (.points p) → t.called s p q.state (.holder (s.ownRef n)))
    (∀ (o : Nat) (os : List Nat), exitBoundary r = none → ownersOf r = o :: os → CompletesDraining .set s fun t =>
      t.recvQueue = rest ∧ locked t
        ∧ (∃ i, t.instances[r.entry] = some i ∧ i.route = n ∧ i.state = .setting ∧ i.inStep = false
            ∧ i.lastFailure = none ∧ i.settingTimer = some s.cfg.settingLimit
            ∧ i.portions.head? = some ⟨o, ownedIndices r o, .pending, some t.tagCounter⟩)
        ∧ t.reservations = s.reservations ∧ t.boundaries = s.boundaries
        ∧ ∃ index, t.sendQueue = s.sendQueue
            ++ [placed desk (.commandAnswer tag 1 none index []),
                placed o (.reserve t.tagCounter (s.ownRef n) (wireReqs r (ownedIndices r o)))])
    ∧ ∀ (b : Fin 4) (c : BoundaryCfg), exitBoundary r = some b → s.cfg.boundaries[b] = some c →
      s.boundaries[b].direction = .neutral → CompletesDraining .set s fun t =>
        t.recvQueue = rest ∧ locked t ∧ t.reservations = s.reservations
          ∧ (∃ i, t.instances[r.entry] = some i ∧ i.route = n ∧ i.state = .setting ∧ i.awaitingDirection = true
              ∧ i.directionHeld = false ∧ i.settingTimer = some s.cfg.settingLimit)
          ∧ t.boundaries[b] = { s.boundaries[b] with
            direction := .asking .neutral, waiting := s.boundaries[b].waiting ++ [n] }
          ∧ t.requests = s.requests ++ [⟨t.tagCounter, c.neighbour, .direction b, .queued⟩]
          ∧ ∃ index, t.sendQueue = s.sendQueue
              ++ [placed desk (.commandAnswer tag 1 none index []),
                  placed c.neighbour (.directionRequest t.tagCounter c.neighbourIndex)]

/-- A refused SET carries the first failing check's reason and index and changes nothing (R91). The index of
PEER_ABSENT where several stations are absent, or the neighbour alone, is the model's choice (log entry 29). -/
def Obligations.RefusedSetChangesNothing : Prop :=
  ∀ (s : State) (desk : Nat) (tag : Byte) (n : Nat) (rest : List RawTelegram),
    s.ready → s.handsCommand desk tag (.set n) rest → s.sendQueue.length + 4 ≤ 32 →
    let refused := fun (reason : Reason) (index : Option Nat) => CompletesDraining .set s fun t =>
      t.recvQueue = rest ∧ t.sections = s.sections ∧ t.sameElements s ∧ t.sameRoutes s
        ∧ t.boundaries = s.boundaries ∧ t.requests = s.requests ∧ t.tagCounter = s.tagCounter
        ∧ ∃ k, (∀ x, index = some x → k = x)
          ∧ t.sendQueue = s.sendQueue ++ [placed desk (.commandAnswer tag 1 (some reason) k [])]
    (s.service ≠ .inService → refused .notInService none)
    ∧ (s.service = .inService → s.routeRecord n = none → refused .unknownRoute none)
    ∧ ∀ r, s.service = .inService → s.routeRecord n = some r →
      (∀ i, s.instances[r.entry] = some i → (i.route ≠ n ∨ i.state ≠ .held) → refused .entryBusy none)
      ∧ (s.instances[r.entry] = none → ∀ f, s.setRefusal r = some f → refused f.reason (some f.index))
      ∧ (s.instances[r.entry] = none → s.setRefusal r = none →
          ∀ f, s.judge (some r.entry) [] (localPart r) = some f → refused f.reason (some f.index))

/-- A CANCEL of an OPEN or HELD route with its approach occupied: the signal at STOP, CANCELLING, with D and v
recorded and the approach release timer running for D. D follows R133: from the measured v, else the record's, else
T_max, always within T_min and T_max, where v lies within 1 to 9999 and t_stop within 1 to 99990; an image that is
loaded has T_min at most T_max (R127, R132, R133). That the answer precedes the STATE NOTICEs of the replaced signal
is the model's choice (log entry 15). -/
def Obligations.CancelRunsApproachDelay : Prop :=
  (∀ (s : State) (desk : Nat) (tag : Byte) (n : Nat) (r : RouteRecord) (g : Fin 8) (i : RouteInst)
    (rest : List RawTelegram),
    s.ready → s.handsCommand desk tag (.cancel n) rest → s.service = .inService → s.routeRecord n = some r →
    s.instanceOf n = some (g, i) → i.state = .open ∨ i.state = .held → i.faultMarks = [] →
    (s.signals[g].aspect = .proceed → s.signals[g].stopInput = false) →
    (s.approachOccupied ⟨0, r.approach.val⟩ = true ∨ s.approachOccupied r.distant = true) →
    s.sendQueue.length + 4 ≤ 32 →
    Completes .cancel s fun t =>
      t.recvQueue = rest ∧ t.signalStopped s g ∧ t.reservations = s.reservations ∧ t.answered s desk tag 2 none
        ∧ t.instances[g] = some { i with
          state := .cancelling, inStep := false, delay := some (s.approachDelay r).1
          speedUsed := (s.approachDelay r).2, approachTimer := some ((s.approachDelay r).1 * 100) })
  ∧ (∀ (s : State) (r : RouteRecord), 10 ≤ r.decel → 10 ≤ r.distantLength → r.tMin ≤ r.tMax →
    let stopTime := fun v : Nat => (v * 100 + r.decel - 1) / r.decel
    let delay := fun v : Nat => min r.tMax (max r.tMin ((stopTime v + 99) / 100 + r.margin))
    r.tMin ≤ (s.approachDelay r).1 ∧ (s.approachDelay r).1 ≤ r.tMax
      ∧ (∀ d, s.validSpan r = some d →
          let v := min 9999 (r.distantLength * 10000 / d)
          s.approachDelay r = (delay v, some v) ∧ 1 ≤ v ∧ v ≤ 9999 ∧ 1 ≤ stopTime v ∧ stopTime v ≤ 99990)
      ∧ (∀ x, s.validSpan r = none → s.sections[r.approach].train = some x → x.speed ≠ 0 →
          s.approachDelay r = (delay x.speed, some x.speed))
      ∧ (s.validSpan r = none → (∀ x, s.sections[r.approach].train = some x → x.speed = 0) →
          s.approachDelay r = (r.tMax, none)))
  ∧ ∀ im : Image, ∀ r ∈ im.clamped.1.toConfig.routes, r.tMin ≤ r.tMax

/-- An EMERGENCY_RELEASE of a route past setting: its signal at STOP, EMERGENCY, the other timers stopped, the
emergency timer running for T_max; a route already in EMERGENCY is accepted with no change (R134). That the answer
precedes the STATE NOTICEs of the replaced signal is the model's choice (log entry 15). -/
def Obligations.EmergencyReleaseRunsTmax : Prop :=
  ∀ (s : State) (desk : Nat) (tag : Byte) (n : Nat) (r : RouteRecord) (g : Fin 8) (i : RouteInst)
    (rest : List RawTelegram),
    s.ready → s.handsCommand desk tag (.emergencyRelease n) rest → s.service = .inService →
    s.routeRecord n = some r → s.instanceOf n = some (g, i) → i.beingSet = false →
    (s.signals[g].aspect = .proceed → s.signals[g].stopInput = false) → s.sendQueue.length + 4 ≤ 32 →
    Completes .emergencyRelease s fun t =>
      t.recvQueue = rest ∧ t.reservations = s.reservations ∧ t.answered s desk tag 3 none
        ∧ (i.state = .emergency → t.instances = s.instances ∧ t.sections = s.sections ∧ t.points = s.points
            ∧ t.signals = s.signals)
        ∧ (i.state ≠ .emergency → t.signalStopped s g ∧ t.instances[g] = some { i with
          state := .emergency, inStep := false, settingTimer := none, approachTimer := none
          overlapTimer := .stopped, emergencyTimer := .running (r.tMax * 100) })

/-- The setting limit rolls a route back with NOT_PROVEN, and the approach release and emergency timers free all a
route holds: every local lock gone or release-pending under a train, a RELEASE placed for each portion held, and the
instance ended, or in EMERGENCY with its timer expired while a lock stands (R9, R90, R111 to R113, R128, R129,
R135). No flank is held and every signal stands at STOP. The index in SETTING is the model's reading of R111 (log
entry 22). -/
def Obligations.ExpiredTimersEndRoutes : Prop :=
  ∀ (s : State) (g : Fin 8) (i : RouteInst) (r : RouteRecord),
    s.ready → s.plainRoute g i r →
    let ends := fun (c : Instr) (failure : Option Failure) => Completes c s fun t =>
      t.routeOver s g i failure ∧ t.locksFreed s i r (i.left r) ∧ t.releasesPlaced s i r (i.left r)
        ∧ t.points.map (·.drive) = s.points.map (·.drive) ∧ t.reservations = s.reservations
    (i.beingSet = true → i.settingTimer.isSome = true →
      ends (.settingLimitExpiry g) (some ⟨.notProven, s.limitIndex g i r⟩))
    ∧ (i.state = .cancelling → i.approachTimer.isSome = true →
      ends (.approachReleaseExpiry g) i.lastFailure)
    ∧ (i.state = .emergency → i.emergencyTimer.isRunning = true →
      ends (.emergencyTimerExpiry g) i.lastFailure)

/-- Expiry of the overlap timer: with a fault mark nothing is freed; without one every overlap requirement still
held is released: its lock gone or release-pending under a train, a RELEASE placed for a remote one, and the route
ended where it then holds nothing (R9, R90, R125). No flank is held and every signal stands at STOP. That the timer
of an instance that stays is kept EXPIRED, with a fault mark or without, is the model's reading (log entry 18). -/
def Obligations.OverlapExpiryReleasesOverlap : Prop :=
  ∀ (s : State) (g : Fin 8) (i : RouteInst) (r : RouteRecord),
    s.ready → s.running g = some (i, r) → i.overlapTimer.isRunning = true → r.flank = [] →
    (∀ h : Fin 8, s.signals[h].aspect = .stop) →
    Completes (.overlapTimerExpiry g) s fun t =>
      (i.faultMarks ≠ [] → t.instances[g] = some { i with overlapTimer := .expired } ∧ t.sameElements s)
      ∧ (i.faultMarks = [] →
          (t.instances[g] = none ∧ t.lastEnded[g] = some ⟨i.route, i.lastFailure⟩
              ∧ t.holdsLock (s.ownRef i.route) = false
            ∨ ∃ j, t.instances[g] = some j ∧ j.route = i.route ∧ j.overlapTimer = .expired
              ∧ t.holdsNothing j = false ∧ ∀ k ∈ heldOverlap i r, k ∈ j.released)
          ∧ t.locksFreed s i r (heldOverlap i r) ∧ t.releasesPlaced s i r (heldOverlap i r))

/-! ## Desk commands on elements and reports -/

/-- BLOCK and UNBLOCK: the blocking table by R12 and R13, and no effect on locks, claims or throws. The next
judgement of a blocked element is refused BLOCKED, the one after UNBLOCK is not (R13, R14, R15). -/
def Obligations.BlockingCommandsWriteTheTable : Prop :=
  ∀ (s : State) (desk : Nat) (tag : Byte) (n : Nat) (rest : List RawTelegram),
    s.ready → (s.service = .outOfService ∨ s.service = .inService) → s.sendQueue.length + 4 ≤ 32 →
    (∀ kind, s.handsCommand desk tag (.block n kind) rest → Completes .block s fun t =>
      t.recvQueue = rest ∧ t.sameElements s ∧ t.sameRoutes s
        ∧ (s.equippedElem n = none → t.blocking = s.blocking
            ∧ t.answered s desk tag 4 (some .unknownElement))
        ∧ ∀ e, s.equippedElem n = some e →
          if s.isBlocked e then
            t.blocking = s.blocking.map (fun x => if x.1 = e then (e, kind) else x) ∧ t.blockOf e = some kind
              ∧ t.answered s desk tag 4 none
          else if 8 ≤ s.blocking.length then
            t.blocking = s.blocking ∧ t.answered s desk tag 4 (some .tableFull)
          else
            t.blocking = s.blocking ++ [(e, kind)] ∧ t.blockOf e = some kind ∧ t.answered s desk tag 4 none)
    ∧ (∀ kind, s.handsCommand desk tag (.block n kind) rest → Completes .block s fun t =>
      ∀ (e : Elem) (entry : Option (Fin 8)) (q : LockReq), t.blockOf e = some kind →
        s.equippedElem n = some e → elemOfNumber q.elem = some e → fits e q.role q.state = true →
        (kind = .noRoute ∨ (∃ x, e = .signal x) ∨ ∃ x, e = .boundary x) →
        (∀ x, e = .signal x → q.role ≠ .exit) → t.judge entry [] [q] = some ⟨.blocked, q.index⟩)
    ∧ (s.handsCommand desk tag (.unblock n) rest → Completes .unblock s fun t =>
      t.recvQueue = rest ∧ t.sameElements s ∧ t.sameRoutes s
        ∧ (s.equippedElem n = none → t.blocking = s.blocking
            ∧ t.answered s desk tag 5 (some .unknownElement))
        ∧ ∀ e, s.equippedElem n = some e →
          t.blocking = s.blocking.filter (·.1 != e) ∧ t.blockOf e = none ∧ t.answered s desk tag 5 none
            ∧ ∀ (entry : Option (Fin 8)) (seen : List Elem) (q : LockReq),
              t.judgeOne entry seen e q ≠ some .blocked)

/-- An accepted POINT_MOVE of a point at REST elsewhere: commanded and driven toward the target, with the DESK as
requester and the detected position to return to (R40, R51). -/
def Obligations.PointMoveDrivesFreePoint : Prop :=
  ∀ (s : State) (desk : Nat) (tag : Byte) (p : Fin 8) (target : Nat) (x : Position) (c : PointCfg)
    (rest : List RawTelegram),
    s.ready → s.handsCommand desk tag (.pointMove (16 + p.val) target) rest →
    (s.service = .outOfService ∨ s.service = .inService) → s.cfg.points[p] = some c →
    targetPosition target = some x → s.moveRefusal p = none → s.points[p].drive = .rest →
    s.points[p].detection ≠ .at x → s.points[p].requesters = [] →
    s.points[p].lockedToward (otherPosition x) = false → s.sendQueue.length + 4 ≤ 32 →
    Completes .pointMove s fun t =>
      t.recvQueue = rest ∧ t.sections = s.sections ∧ t.signals = s.signals ∧ t.sameRoutes s
        ∧ t.answered s desk tag 6 none
        ∧ t.points[p] = { s.points[p] with
          commanded := some x, returnPosition := s.points[p].detected, returnPending := false
          drive := .throwing x, throwTimer := some c.throwTime
          overCurrentTimer := if s.points[p].senseActive then some c.overCurrentTime else none
          requesters := [.desk] }

/-- DESCRIBE gives a section a record that keeps the speed, ERASE removes it, and HANDOVER_CLEAR empties a
boundary's queues and takes its pending OFFERs away; direction, claims, the other sections and the other boundaries
stay (R167, R174). -/
def Obligations.DescriberCommandsWriteRecords : Prop :=
  ∀ (s : State) (desk : Nat) (tag : Byte) (rest : List RawTelegram),
    s.ready → s.sendQueue.length + 4 ≤ 32 →
    (∀ (i : Fin 16) (train : Nat), s.handsCommand desk tag (.describe i.val train) rest →
      s.describeRefusal i.val train = none → Completes .describe s fun t =>
        t.recvQueue = rest ∧ t.answered s desk tag 7 none ∧ t.sameElements s ∧ t.sameRoutes s
          ∧ t.sections = s.sections.set i { s.sections[i] with
            train := some ⟨train, (s.sections[i].train.map (·.speed)).getD 0⟩ }
          ∧ t.boundaries = s.boundaries ∧ t.requests = s.requests)
    ∧ (∀ i : Fin 16, s.handsCommand desk tag (.erase i.val) rest → s.sectionRefusal i.val = none →
      Completes .erase s fun t =>
        t.recvQueue = rest ∧ t.answered s desk tag 8 none ∧ t.sameElements s ∧ t.sameRoutes s
          ∧ t.sections = s.sections.set i { s.sections[i] with train := none }
          ∧ t.boundaries = s.boundaries ∧ t.requests = s.requests)
    ∧ (∀ b : Fin 4, s.handsCommand desk tag (.handoverClear (32 + b.val)) rest →
      s.handoverRefusal (32 + b.val) = none → Completes .handoverClear s fun t =>
        t.recvQueue = rest ∧ t.sections = s.sections ∧ t.sameElements s ∧ t.sameRoutes s
          ∧ t.boundaries = s.boundaries.set b { s.boundaries[b] with
            outbound := [], inbound := [], offersLost := 0, lastConfirm := none }
          ∧ (∃ index contents, placed desk (.commandAnswer tag 9 none index contents) ∈ t.sendQueue)
          ∧ (s.requestsHold → t.requests = s.requests.filter fun q =>
              !(q.subject == .offer b && s.boundaries[b].outbound.any fun o => o.state == .offered && o.tag == q.tag)))

/-- STATUS places its subject, FAULT_FETCH answers with the faults and clears them, and REARM arms the alert or
sends it again (R181, R185, R186). That REARM's ALERT precedes its answer is the model's choice (log entry 15). -/
def Obligations.ReportUnitCommandsAnswer : Prop :=
  ∀ (s : State) (desk : Nat) (tag : Byte) (rest : List RawTelegram),
    s.ready → s.sendQueue.length + 5 ≤ 32 →
    (∀ (n : Nat) (x : Subject), s.handsCommand desk tag (.status n) rest → statusSubjects n = some [x] →
      s.reportable x = true → CompletesDraining .status s fun t =>
        t.recvQueue = rest ∧ t.answered s desk tag 10 none ∧ t.sameElements s ∧ t.sameRoutes s
          ∧ t.reports = if s.reports.contains x then s.reports else s.reports ++ [x])
    ∧ (s.handsCommand desk tag .faultFetch rest → CompletesDraining .faultFetch s fun t =>
      t.recvQueue = rest ∧ t.firstFault = none ∧ t.counts = Vector.replicate 15 0 ∧ t.alertArmed = s.alertArmed
        ∧ t.sameElements s ∧ t.sameRoutes s
        ∧ ∃ index, t.sendQueue = s.sendQueue ++ [placed desk (.commandAnswer tag 11 none index
            (s.firstFaultBytes ++ s.counts.toList.map byte ++ twoBytes s.captureTimer.toNat))])
    ∧ (s.handsCommand desk tag .rearm rest → CompletesDraining .rearm s fun t =>
      t.recvQueue = rest ∧ t.sameElements s ∧ t.sameRoutes s ∧ t.firstFault = s.firstFault
        ∧ t.alertArmed = s.firstFault.isNone
        ∧ ∃ index, t.sendQueue = s.sendQueue
          ++ (if s.firstFault.isNone then [] else
            [placed 0 (.alert (s.firstFaultBytes ++ twoBytes s.captureTimer.toNat))])
          ++ [placed desk (.commandAnswer tag 12 none index [])])

/-- ADMIT in OUT_OF_SERVICE enters IN_SERVICE with the key ON and is remembered with it OFF; WITHDRAW clears the
mark, or leaves IN_SERVICE with every signal at STOP (R195, R196, R197). -/
def Obligations.AdmitAndWithdrawMoveService : Prop :=
  ∀ (s : State) (desk : Nat) (tag : Byte) (rest : List RawTelegram), s.resetHeld = false →
    (s.service = .outOfService → s.handsCommand desk tag .admission rest → Completes .admitCommand s fun t =>
      t.recvQueue = rest ∧ t.keyOn = s.keyOn ∧ t.blocking = s.blocking
        ∧ t.service = (if s.keyOn then .inService else .outOfService) ∧ t.admission = !s.keyOn)
    ∧ (s.service = .outOfService → s.handsCommand desk tag .withdraw rest → Completes .withdraw s fun t =>
      t.recvQueue = rest ∧ t.service = .outOfService ∧ t.admission = false ∧ t.blocking = s.blocking)
    ∧ (s.service = .inService → s.handsCommand desk tag .withdraw rest → Completes .withdraw s fun t =>
      t.recvQueue = rest ∧ t.service = .outOfService ∧ t.inServiceOutput = false ∧ t.blocking = s.blocking
        ∧ ∀ g : Fin 8, t.signals[g].aspect = .stop)

/-- Draining: the oldest subject leaves the queue and its REPORT is placed, one after the other while at least 8
send queue entries are free (R178). -/
def Obligations.DrainingReportsTheOldest : Prop :=
  ∀ (s : State) (x : Subject) (xs : List Subject),
    s.ready → s.lineUsed = true → s.reports = x :: xs → s.reports.length ≤ 45 → s.sendQueue.length + 8 ≤ 32 →
    Completes .reportDrain s fun t =>
      t.sameElements s ∧ t.sameRoutes s ∧ t.boundaries = s.boundaries ∧ t.counts = s.counts
        ∧ (∃ k, t.reports = xs.drop k)
        ∧ (t.reports = [] ∨ 32 < t.sendQueue.length + 8)
        ∧ ∃ more, t.sendQueue =
          s.sendQueue ++ placed 0 (.report (subjectCode x) s.captureTimer (s.contents x)) :: more

/-! ## Encodings -/

/-- A body read back from its bytes is the body that was written, for every field in its range (R200). That a CONFIRM
may carry the train number 65535 is the model's choice (log entry 49): R200 gives its train number no range. -/
def Obligations.DecodedBodyIsTheEncodedBody : Prop :=
  ∀ b : Body, bodyFits b → decodeBody (bodyKind b) (encodeBody b) = some b

/-- A frame read back from its stuffed levels is intact and carries the telegram that was sent (R66, R67, R199). -/
def Obligations.ReadFrameIsTheSentFrame : Prop :=
  ∀ (source : Nat) (t : Telegram), source < 32 → t.dest < 32 → (encodeBody t.body).length ≤ 64 →
    readFrame (frameLevels source t)
      = .intact t.dest ⟨telegramClass t, source, (bodyKind t.body).code, encodeBody t.body⟩

/-! ## Invariants of every step -/

/-- After reset every invariant below holds. -/
def Obligations.ResetMeetsTheInvariants : Prop :=
  State.reset.blockingHolds ∧ State.reset.receiveHolds ∧ State.reset.sendHolds ∧ State.reset.reportsHold
    ∧ State.reset.requestsHold ∧ State.reset.reservationsHold ∧ State.reset.darkOutsideService
    ∧ State.reset.lampsHold ∧ State.reset.drainedOut ∧ State.reset.pointsHold ∧ State.reset.clearTimersStopped

/-- Every step keeps the blocking table without repeats and within 8 entries, the receive queue within 16 and the
send queue within 32 entries, and the report queue without a repeated subject and with none that could be drained
(R12, R73, R75, R177, R178). -/
def Obligations.StepKeepsQueueBounds : Prop :=
  ∀ s t : State, step s = .next t →
    (s.blockingHolds → t.blockingHolds) ∧ (s.receiveHolds → t.receiveHolds) ∧ (s.sendHolds → t.sendHolds)
      ∧ (s.reportsHold → t.reportsHold) ∧ (s.drainedOut → t.drainedOut)

/-- Every step keeps the pending request table within 16 entries with no tag twice, and the Reservation List within
16 entries with no route reference twice (R78, R99). -/
def Obligations.StepKeepsRequestsAndReservationsUnique : Prop :=
  ∀ s t : State, step s = .next t →
    (s.requestsHold → t.requestsHold) ∧ (s.reservationsHold → t.reservationsHold)

/-- The IN SERVICE output is on exactly in IN_SERVICE, out of reset, and the PROCEED outputs follow it: no step
leaves a signal commanded PROCEED outside IN_SERVICE, nor a PROCEED lamp lit at a signal commanded STOP, so that
outside IN_SERVICE every PROCEED output is off (R54, R57, R64, R198). -/
def Obligations.StepKeepsSignalsDarkOutsideService : Prop :=
  (∀ s : State, s.inServiceOutput = true ↔ s.resetHeld = false ∧ s.service = .inService)
  ∧ (∀ s t : State, step s = .next t →
      (s.darkOutsideService → t.darkOutsideService) ∧ (s.lampsHold → t.lampsHold))
  ∧ ∀ s t : State, s.darkOutsideService → s.lampsHold → step s = .next t → t.service ≠ .inService →
      ∀ g : Fin 8, t.signals[g].proceedLamp.output = false

/-- Every step keeps each point's route lock, flank claims and move in flight in its commanded position, and none
energises a drive output of a point whose section is OCCUPIED (R40, R50). -/
def Obligations.StepKeepsLocksInPositionAndThrowsClear : Prop :=
  ∀ s t : State, step s = .next t →
    (s.pointsHold → t.pointsHold)
      ∧ ∀ (p : Fin 8) (x : Position), t.points[p].output = some x → s.points[p].output ≠ some x →
          t.pointOccupied p = false
end

