-- ==== Sys2Proof/Laws/State.lean ====
section
/-! SUPPORT. What each update of the state leaves alone: one lemma for each field and each update, and what it
writes. No later proof unfolds an update. -/

namespace Sys2Proof.Machine

/-! ## What an update writes -/

@[simp] theorem State.setSection_get (s : State) (i : Fin 16) (r : SectionRec) (n : Nat) (h : n < 16) :
    (s.setSection i r).sections[n] = if i.val = n then r else s.sections[n] := by
  simp [State.setSection, Vector.getElem_set]

@[simp] theorem State.setPoint_get (s : State) (p : Fin 8) (r : PointRec) (n : Nat) (h : n < 8) :
    (s.setPoint p r).points[n] = if p.val = n then r else s.points[n] := by
  simp [State.setPoint, Vector.getElem_set]

@[simp] theorem State.setSignal_get (s : State) (g : Fin 8) (r : SignalRec) (n : Nat) (h : n < 8) :
    (s.setSignal g r).signals[n] = if g.val = n then r else s.signals[n] := by
  simp [State.setSignal, Vector.getElem_set]

@[simp] theorem State.setBoundary_get (s : State) (b : Fin 4) (r : BoundaryRec) (n : Nat) (h : n < 4) :
    (s.setBoundary b r).boundaries[n] = if b.val = n then r else s.boundaries[n] := by
  simp [State.setBoundary, Vector.getElem_set]

@[simp] theorem State.setInstance_get (s : State) (g : Fin 8) (r : Option RouteInst) (n : Nat) (h : n < 8) :
    (s.setInstance g r).instances[n] = if g.val = n then r else s.instances[n] := by
  simp [State.setInstance, Vector.getElem_set]

@[simp] theorem State.changeInstance_get (s : State) (g : Fin 8) (f : RouteInst → RouteInst) (n : Nat)
    (h : n < 8) :
    (s.changeInstance g f).instances[n] = if g.val = n then s.instances[g].map f else s.instances[n] := by
  simp [State.changeInstance]

@[simp] theorem State.draw_fresh (s : State) (n : Nat) : (s.draw n).fresh = s.fresh + n := rfl

@[simp] theorem State.enqueue_sendQueue (s : State) (t : Telegram) :
    (s.enqueue t).sendQueue = s.sendQueue ++ [⟨t, 0, false, [], false⟩] := rfl

/-! ## The work of an event -/

@[simp] theorem Work.begin_st (s : State) : (Work.begin s).st = s := rfl
@[simp] theorem Work.begin_out (s : State) : (Work.begin s).out = [] := rfl
@[simp] theorem Work.begin_said (s : State) : (Work.begin s).said = [] := rfl
@[simp] theorem Work.begin_returns (s : State) : (Work.begin s).returns = [] := rfl
@[simp] theorem Work.begin_turned (s : State) : (Work.begin s).turned = [] := rfl
@[simp] theorem Work.begin_answers (s : State) : (Work.begin s).answers = [] := rfl
@[simp] theorem Work.on_st (w : Work) (f : State → State) : (w.on f).st = f w.st := rfl
@[simp] theorem Work.on_out (w : Work) (f : State → State) : (w.on f).out = w.out := rfl
@[simp] theorem Work.on_said (w : Work) (f : State → State) : (w.on f).said = w.said := rfl
@[simp] theorem Work.on_returns (w : Work) (f : State → State) : (w.on f).returns = w.returns := rfl
@[simp] theorem Work.on_turned (w : Work) (f : State → State) : (w.on f).turned = w.turned := rfl
@[simp] theorem Work.on_answers (w : Work) (f : State → State) : (w.on f).answers = w.answers := rfl
@[simp] theorem Work.emit_st (w : Work) (ts : List Task) : (w.emit ts).st = w.st := rfl
@[simp] theorem Work.emit_out (w : Work) (ts : List Task) : (w.emit ts).out = w.out ++ ts := rfl
@[simp] theorem Work.emit_said (w : Work) (ts : List Task) : (w.emit ts).said = w.said := rfl
@[simp] theorem Work.emit_returns (w : Work) (ts : List Task) : (w.emit ts).returns = w.returns := rfl
@[simp] theorem Work.emit_turned (w : Work) (ts : List Task) : (w.emit ts).turned = w.turned := rfl
@[simp] theorem Work.emit_answers (w : Work) (ts : List Task) : (w.emit ts).answers = w.answers := rfl
@[simp] theorem Work.giveBack_st (w : Work) (x : FlankReturn) : (w.giveBack x).st = w.st := rfl
@[simp] theorem Work.giveBack_out (w : Work) (x : FlankReturn) : (w.giveBack x).out = w.out := rfl
@[simp] theorem Work.giveBack_said (w : Work) (x : FlankReturn) : (w.giveBack x).said = w.said := rfl
@[simp] theorem Work.giveBack_returns (w : Work) (x : FlankReturn) : (w.giveBack x).returns = w.returns ++ [x] := rfl
@[simp] theorem Work.giveBack_turned (w : Work) (x : FlankReturn) : (w.giveBack x).turned = w.turned := rfl
@[simp] theorem Work.giveBack_answers (w : Work) (x : FlankReturn) : (w.giveBack x).answers = w.answers := rfl
@[simp] theorem Work.turn_st (w : Work) (g : Fin 8) : (w.turn g).st = w.st := rfl
@[simp] theorem Work.turn_out (w : Work) (g : Fin 8) : (w.turn g).out = w.out := rfl
@[simp] theorem Work.turn_said (w : Work) (g : Fin 8) : (w.turn g).said = w.said := rfl
@[simp] theorem Work.turn_returns (w : Work) (g : Fin 8) : (w.turn g).returns = w.returns := rfl
@[simp] theorem Work.turn_turned (w : Work) (g : Fin 8) : (w.turn g).turned = w.turned ++ [g] := rfl
@[simp] theorem Work.turn_answers (w : Work) (g : Fin 8) : (w.turn g).answers = w.answers := rfl
@[simp] theorem Work.answerLast_st (w : Work) (dest : Nat) (tag : Byte) (code : Nat) :
    (w.answerLast dest tag code).st = w.st := rfl
@[simp] theorem Work.answerLast_out (w : Work) (dest : Nat) (tag : Byte) (code : Nat) :
    (w.answerLast dest tag code).out = w.out := rfl
@[simp] theorem Work.answerLast_said (w : Work) (dest : Nat) (tag : Byte) (code : Nat) :
    (w.answerLast dest tag code).said = w.said := rfl
@[simp] theorem Work.answerLast_returns (w : Work) (dest : Nat) (tag : Byte) (code : Nat) :
    (w.answerLast dest tag code).returns = w.returns := rfl
@[simp] theorem Work.answerLast_turned (w : Work) (dest : Nat) (tag : Byte) (code : Nat) :
    (w.answerLast dest tag code).turned = w.turned := rfl
@[simp] theorem Work.answerLast_answers (w : Work) (dest : Nat) (tag : Byte) (code : Nat) :
    (w.answerLast dest tag code).answers = w.answers ++ [(dest, tag, code)] := rfl

/-! ## What an update leaves alone -/


@[simp] theorem State.setSection_pending (s : State) (i : Fin 16) (r : SectionRec) :
    (s.setSection i r).pending = s.pending := rfl
@[simp] theorem State.setSection_resetHeld (s : State) (i : Fin 16) (r : SectionRec) :
    (s.setSection i r).resetHeld = s.resetHeld := rfl
@[simp] theorem State.setSection_service (s : State) (i : Fin 16) (r : SectionRec) :
    (s.setSection i r).service = s.service := rfl
@[simp] theorem State.setSection_loadResult (s : State) (i : Fin 16) (r : SectionRec) :
    (s.setSection i r).loadResult = s.loadResult := rfl
@[simp] theorem State.setSection_address (s : State) (i : Fin 16) (r : SectionRec) :
    (s.setSection i r).address = s.address := rfl
@[simp] theorem State.setSection_startHoldTimer (s : State) (i : Fin 16) (r : SectionRec) :
    (s.setSection i r).startHoldTimer = s.startHoldTimer := rfl
@[simp] theorem State.setSection_admission (s : State) (i : Fin 16) (r : SectionRec) :
    (s.setSection i r).admission = s.admission := rfl
@[simp] theorem State.setSection_keyOn (s : State) (i : Fin 16) (r : SectionRec) :
    (s.setSection i r).keyOn = s.keyOn := rfl
@[simp] theorem State.setSection_captureTimer (s : State) (i : Fin 16) (r : SectionRec) :
    (s.setSection i r).captureTimer = s.captureTimer := rfl
@[simp] theorem State.setSection_cfg (s : State) (i : Fin 16) (r : SectionRec) :
    (s.setSection i r).cfg = s.cfg := rfl
@[simp] theorem State.setSection_points (s : State) (i : Fin 16) (r : SectionRec) :
    (s.setSection i r).points = s.points := rfl
@[simp] theorem State.setSection_signals (s : State) (i : Fin 16) (r : SectionRec) :
    (s.setSection i r).signals = s.signals := rfl
@[simp] theorem State.setSection_boundaries (s : State) (i : Fin 16) (r : SectionRec) :
    (s.setSection i r).boundaries = s.boundaries := rfl
@[simp] theorem State.setSection_blocking (s : State) (i : Fin 16) (r : SectionRec) :
    (s.setSection i r).blocking = s.blocking := rfl
@[simp] theorem State.setSection_remote (s : State) (i : Fin 16) (r : SectionRec) :
    (s.setSection i r).remote = s.remote := rfl
@[simp] theorem State.setSection_instances (s : State) (i : Fin 16) (r : SectionRec) :
    (s.setSection i r).instances = s.instances := rfl
@[simp] theorem State.setSection_lastEnded (s : State) (i : Fin 16) (r : SectionRec) :
    (s.setSection i r).lastEnded = s.lastEnded := rfl
@[simp] theorem State.setSection_reservations (s : State) (i : Fin 16) (r : SectionRec) :
    (s.setSection i r).reservations = s.reservations := rfl
@[simp] theorem State.setSection_register (s : State) (i : Fin 16) (r : SectionRec) :
    (s.setSection i r).register = s.register := rfl
@[simp] theorem State.setSection_bitRate (s : State) (i : Fin 16) (r : SectionRec) :
    (s.setSection i r).bitRate = s.bitRate := rfl
@[simp] theorem State.setSection_idleCount (s : State) (i : Fin 16) (r : SectionRec) :
    (s.setSection i r).idleCount = s.idleCount := rfl
@[simp] theorem State.setSection_yieldGap (s : State) (i : Fin 16) (r : SectionRec) :
    (s.setSection i r).yieldGap = s.yieldGap := rfl
@[simp] theorem State.setSection_sending (s : State) (i : Fin 16) (r : SectionRec) :
    (s.setSection i r).sending = s.sending := rfl
@[simp] theorem State.setSection_slotDriven (s : State) (i : Fin 16) (r : SectionRec) :
    (s.setSection i r).slotDriven = s.slotDriven := rfl
@[simp] theorem State.setSection_recvQueue (s : State) (i : Fin 16) (r : SectionRec) :
    (s.setSection i r).recvQueue = s.recvQueue := rfl
@[simp] theorem State.setSection_sendQueue (s : State) (i : Fin 16) (r : SectionRec) :
    (s.setSection i r).sendQueue = s.sendQueue := rfl
@[simp] theorem State.setSection_tagCounter (s : State) (i : Fin 16) (r : SectionRec) :
    (s.setSection i r).tagCounter = s.tagCounter := rfl
@[simp] theorem State.setSection_requests (s : State) (i : Fin 16) (r : SectionRec) :
    (s.setSection i r).requests = s.requests := rfl
@[simp] theorem State.setSection_peers (s : State) (i : Fin 16) (r : SectionRec) :
    (s.setSection i r).peers = s.peers := rfl
@[simp] theorem State.setSection_presenceTimer (s : State) (i : Fin 16) (r : SectionRec) :
    (s.setSection i r).presenceTimer = s.presenceTimer := rfl
@[simp] theorem State.setSection_reports (s : State) (i : Fin 16) (r : SectionRec) :
    (s.setSection i r).reports = s.reports := rfl
@[simp] theorem State.setSection_firstFault (s : State) (i : Fin 16) (r : SectionRec) :
    (s.setSection i r).firstFault = s.firstFault := rfl
@[simp] theorem State.setSection_counts (s : State) (i : Fin 16) (r : SectionRec) :
    (s.setSection i r).counts = s.counts := rfl
@[simp] theorem State.setSection_alertArmed (s : State) (i : Fin 16) (r : SectionRec) :
    (s.setSection i r).alertArmed = s.alertArmed := rfl
@[simp] theorem State.setSection_fresh (s : State) (i : Fin 16) (r : SectionRec) :
    (s.setSection i r).fresh = s.fresh := rfl
@[simp] theorem State.setSection_agenda (s : State) (i : Fin 16) (r : SectionRec) :
    (s.setSection i r).agenda = s.agenda := rfl

@[simp] theorem State.setPoint_pending (s : State) (p : Fin 8) (r : PointRec) :
    (s.setPoint p r).pending = s.pending := rfl
@[simp] theorem State.setPoint_resetHeld (s : State) (p : Fin 8) (r : PointRec) :
    (s.setPoint p r).resetHeld = s.resetHeld := rfl
@[simp] theorem State.setPoint_service (s : State) (p : Fin 8) (r : PointRec) :
    (s.setPoint p r).service = s.service := rfl
@[simp] theorem State.setPoint_loadResult (s : State) (p : Fin 8) (r : PointRec) :
    (s.setPoint p r).loadResult = s.loadResult := rfl
@[simp] theorem State.setPoint_address (s : State) (p : Fin 8) (r : PointRec) :
    (s.setPoint p r).address = s.address := rfl
@[simp] theorem State.setPoint_startHoldTimer (s : State) (p : Fin 8) (r : PointRec) :
    (s.setPoint p r).startHoldTimer = s.startHoldTimer := rfl
@[simp] theorem State.setPoint_admission (s : State) (p : Fin 8) (r : PointRec) :
    (s.setPoint p r).admission = s.admission := rfl
@[simp] theorem State.setPoint_keyOn (s : State) (p : Fin 8) (r : PointRec) :
    (s.setPoint p r).keyOn = s.keyOn := rfl
@[simp] theorem State.setPoint_captureTimer (s : State) (p : Fin 8) (r : PointRec) :
    (s.setPoint p r).captureTimer = s.captureTimer := rfl
@[simp] theorem State.setPoint_cfg (s : State) (p : Fin 8) (r : PointRec) :
    (s.setPoint p r).cfg = s.cfg := rfl
@[simp] theorem State.setPoint_sections (s : State) (p : Fin 8) (r : PointRec) :
    (s.setPoint p r).sections = s.sections := rfl
@[simp] theorem State.setPoint_signals (s : State) (p : Fin 8) (r : PointRec) :
    (s.setPoint p r).signals = s.signals := rfl
@[simp] theorem State.setPoint_boundaries (s : State) (p : Fin 8) (r : PointRec) :
    (s.setPoint p r).boundaries = s.boundaries := rfl
@[simp] theorem State.setPoint_blocking (s : State) (p : Fin 8) (r : PointRec) :
    (s.setPoint p r).blocking = s.blocking := rfl
@[simp] theorem State.setPoint_remote (s : State) (p : Fin 8) (r : PointRec) :
    (s.setPoint p r).remote = s.remote := rfl
@[simp] theorem State.setPoint_instances (s : State) (p : Fin 8) (r : PointRec) :
    (s.setPoint p r).instances = s.instances := rfl
@[simp] theorem State.setPoint_lastEnded (s : State) (p : Fin 8) (r : PointRec) :
    (s.setPoint p r).lastEnded = s.lastEnded := rfl
@[simp] theorem State.setPoint_reservations (s : State) (p : Fin 8) (r : PointRec) :
    (s.setPoint p r).reservations = s.reservations := rfl
@[simp] theorem State.setPoint_register (s : State) (p : Fin 8) (r : PointRec) :
    (s.setPoint p r).register = s.register := rfl
@[simp] theorem State.setPoint_bitRate (s : State) (p : Fin 8) (r : PointRec) :
    (s.setPoint p r).bitRate = s.bitRate := rfl
@[simp] theorem State.setPoint_idleCount (s : State) (p : Fin 8) (r : PointRec) :
    (s.setPoint p r).idleCount = s.idleCount := rfl
@[simp] theorem State.setPoint_yieldGap (s : State) (p : Fin 8) (r : PointRec) :
    (s.setPoint p r).yieldGap = s.yieldGap := rfl
@[simp] theorem State.setPoint_sending (s : State) (p : Fin 8) (r : PointRec) :
    (s.setPoint p r).sending = s.sending := rfl
@[simp] theorem State.setPoint_slotDriven (s : State) (p : Fin 8) (r : PointRec) :
    (s.setPoint p r).slotDriven = s.slotDriven := rfl
@[simp] theorem State.setPoint_recvQueue (s : State) (p : Fin 8) (r : PointRec) :
    (s.setPoint p r).recvQueue = s.recvQueue := rfl
@[simp] theorem State.setPoint_sendQueue (s : State) (p : Fin 8) (r : PointRec) :
    (s.setPoint p r).sendQueue = s.sendQueue := rfl
@[simp] theorem State.setPoint_tagCounter (s : State) (p : Fin 8) (r : PointRec) :
    (s.setPoint p r).tagCounter = s.tagCounter := rfl
@[simp] theorem State.setPoint_requests (s : State) (p : Fin 8) (r : PointRec) :
    (s.setPoint p r).requests = s.requests := rfl
@[simp] theorem State.setPoint_peers (s : State) (p : Fin 8) (r : PointRec) :
    (s.setPoint p r).peers = s.peers := rfl
@[simp] theorem State.setPoint_presenceTimer (s : State) (p : Fin 8) (r : PointRec) :
    (s.setPoint p r).presenceTimer = s.presenceTimer := rfl
@[simp] theorem State.setPoint_reports (s : State) (p : Fin 8) (r : PointRec) :
    (s.setPoint p r).reports = s.reports := rfl
@[simp] theorem State.setPoint_firstFault (s : State) (p : Fin 8) (r : PointRec) :
    (s.setPoint p r).firstFault = s.firstFault := rfl
@[simp] theorem State.setPoint_counts (s : State) (p : Fin 8) (r : PointRec) :
    (s.setPoint p r).counts = s.counts := rfl
@[simp] theorem State.setPoint_alertArmed (s : State) (p : Fin 8) (r : PointRec) :
    (s.setPoint p r).alertArmed = s.alertArmed := rfl
@[simp] theorem State.setPoint_fresh (s : State) (p : Fin 8) (r : PointRec) :
    (s.setPoint p r).fresh = s.fresh := rfl
@[simp] theorem State.setPoint_agenda (s : State) (p : Fin 8) (r : PointRec) :
    (s.setPoint p r).agenda = s.agenda := rfl

@[simp] theorem State.setSignal_pending (s : State) (g : Fin 8) (r : SignalRec) :
    (s.setSignal g r).pending = s.pending := rfl
@[simp] theorem State.setSignal_resetHeld (s : State) (g : Fin 8) (r : SignalRec) :
    (s.setSignal g r).resetHeld = s.resetHeld := rfl
@[simp] theorem State.setSignal_service (s : State) (g : Fin 8) (r : SignalRec) :
    (s.setSignal g r).service = s.service := rfl
@[simp] theorem State.setSignal_loadResult (s : State) (g : Fin 8) (r : SignalRec) :
    (s.setSignal g r).loadResult = s.loadResult := rfl
@[simp] theorem State.setSignal_address (s : State) (g : Fin 8) (r : SignalRec) :
    (s.setSignal g r).address = s.address := rfl
@[simp] theorem State.setSignal_startHoldTimer (s : State) (g : Fin 8) (r : SignalRec) :
    (s.setSignal g r).startHoldTimer = s.startHoldTimer := rfl
@[simp] theorem State.setSignal_admission (s : State) (g : Fin 8) (r : SignalRec) :
    (s.setSignal g r).admission = s.admission := rfl
@[simp] theorem State.setSignal_keyOn (s : State) (g : Fin 8) (r : SignalRec) :
    (s.setSignal g r).keyOn = s.keyOn := rfl
@[simp] theorem State.setSignal_captureTimer (s : State) (g : Fin 8) (r : SignalRec) :
    (s.setSignal g r).captureTimer = s.captureTimer := rfl
@[simp] theorem State.setSignal_cfg (s : State) (g : Fin 8) (r : SignalRec) :
    (s.setSignal g r).cfg = s.cfg := rfl
@[simp] theorem State.setSignal_sections (s : State) (g : Fin 8) (r : SignalRec) :
    (s.setSignal g r).sections = s.sections := rfl
@[simp] theorem State.setSignal_points (s : State) (g : Fin 8) (r : SignalRec) :
    (s.setSignal g r).points = s.points := rfl
@[simp] theorem State.setSignal_boundaries (s : State) (g : Fin 8) (r : SignalRec) :
    (s.setSignal g r).boundaries = s.boundaries := rfl
@[simp] theorem State.setSignal_blocking (s : State) (g : Fin 8) (r : SignalRec) :
    (s.setSignal g r).blocking = s.blocking := rfl
@[simp] theorem State.setSignal_remote (s : State) (g : Fin 8) (r : SignalRec) :
    (s.setSignal g r).remote = s.remote := rfl
@[simp] theorem State.setSignal_instances (s : State) (g : Fin 8) (r : SignalRec) :
    (s.setSignal g r).instances = s.instances := rfl
@[simp] theorem State.setSignal_lastEnded (s : State) (g : Fin 8) (r : SignalRec) :
    (s.setSignal g r).lastEnded = s.lastEnded := rfl
@[simp] theorem State.setSignal_reservations (s : State) (g : Fin 8) (r : SignalRec) :
    (s.setSignal g r).reservations = s.reservations := rfl
@[simp] theorem State.setSignal_register (s : State) (g : Fin 8) (r : SignalRec) :
    (s.setSignal g r).register = s.register := rfl
@[simp] theorem State.setSignal_bitRate (s : State) (g : Fin 8) (r : SignalRec) :
    (s.setSignal g r).bitRate = s.bitRate := rfl
@[simp] theorem State.setSignal_idleCount (s : State) (g : Fin 8) (r : SignalRec) :
    (s.setSignal g r).idleCount = s.idleCount := rfl
@[simp] theorem State.setSignal_yieldGap (s : State) (g : Fin 8) (r : SignalRec) :
    (s.setSignal g r).yieldGap = s.yieldGap := rfl
@[simp] theorem State.setSignal_sending (s : State) (g : Fin 8) (r : SignalRec) :
    (s.setSignal g r).sending = s.sending := rfl
@[simp] theorem State.setSignal_slotDriven (s : State) (g : Fin 8) (r : SignalRec) :
    (s.setSignal g r).slotDriven = s.slotDriven := rfl
@[simp] theorem State.setSignal_recvQueue (s : State) (g : Fin 8) (r : SignalRec) :
    (s.setSignal g r).recvQueue = s.recvQueue := rfl
@[simp] theorem State.setSignal_sendQueue (s : State) (g : Fin 8) (r : SignalRec) :
    (s.setSignal g r).sendQueue = s.sendQueue := rfl
@[simp] theorem State.setSignal_tagCounter (s : State) (g : Fin 8) (r : SignalRec) :
    (s.setSignal g r).tagCounter = s.tagCounter := rfl
@[simp] theorem State.setSignal_requests (s : State) (g : Fin 8) (r : SignalRec) :
    (s.setSignal g r).requests = s.requests := rfl
@[simp] theorem State.setSignal_peers (s : State) (g : Fin 8) (r : SignalRec) :
    (s.setSignal g r).peers = s.peers := rfl
@[simp] theorem State.setSignal_presenceTimer (s : State) (g : Fin 8) (r : SignalRec) :
    (s.setSignal g r).presenceTimer = s.presenceTimer := rfl
@[simp] theorem State.setSignal_reports (s : State) (g : Fin 8) (r : SignalRec) :
    (s.setSignal g r).reports = s.reports := rfl
@[simp] theorem State.setSignal_firstFault (s : State) (g : Fin 8) (r : SignalRec) :
    (s.setSignal g r).firstFault = s.firstFault := rfl
@[simp] theorem State.setSignal_counts (s : State) (g : Fin 8) (r : SignalRec) :
    (s.setSignal g r).counts = s.counts := rfl
@[simp] theorem State.setSignal_alertArmed (s : State) (g : Fin 8) (r : SignalRec) :
    (s.setSignal g r).alertArmed = s.alertArmed := rfl
@[simp] theorem State.setSignal_fresh (s : State) (g : Fin 8) (r : SignalRec) :
    (s.setSignal g r).fresh = s.fresh := rfl
@[simp] theorem State.setSignal_agenda (s : State) (g : Fin 8) (r : SignalRec) :
    (s.setSignal g r).agenda = s.agenda := rfl

@[simp] theorem State.setBoundary_pending (s : State) (b : Fin 4) (r : BoundaryRec) :
    (s.setBoundary b r).pending = s.pending := rfl
@[simp] theorem State.setBoundary_resetHeld (s : State) (b : Fin 4) (r : BoundaryRec) :
    (s.setBoundary b r).resetHeld = s.resetHeld := rfl
@[simp] theorem State.setBoundary_service (s : State) (b : Fin 4) (r : BoundaryRec) :
    (s.setBoundary b r).service = s.service := rfl
@[simp] theorem State.setBoundary_loadResult (s : State) (b : Fin 4) (r : BoundaryRec) :
    (s.setBoundary b r).loadResult = s.loadResult := rfl
@[simp] theorem State.setBoundary_address (s : State) (b : Fin 4) (r : BoundaryRec) :
    (s.setBoundary b r).address = s.address := rfl
@[simp] theorem State.setBoundary_startHoldTimer (s : State) (b : Fin 4) (r : BoundaryRec) :
    (s.setBoundary b r).startHoldTimer = s.startHoldTimer := rfl
@[simp] theorem State.setBoundary_admission (s : State) (b : Fin 4) (r : BoundaryRec) :
    (s.setBoundary b r).admission = s.admission := rfl
@[simp] theorem State.setBoundary_keyOn (s : State) (b : Fin 4) (r : BoundaryRec) :
    (s.setBoundary b r).keyOn = s.keyOn := rfl
@[simp] theorem State.setBoundary_captureTimer (s : State) (b : Fin 4) (r : BoundaryRec) :
    (s.setBoundary b r).captureTimer = s.captureTimer := rfl
@[simp] theorem State.setBoundary_cfg (s : State) (b : Fin 4) (r : BoundaryRec) :
    (s.setBoundary b r).cfg = s.cfg := rfl
@[simp] theorem State.setBoundary_sections (s : State) (b : Fin 4) (r : BoundaryRec) :
    (s.setBoundary b r).sections = s.sections := rfl
@[simp] theorem State.setBoundary_points (s : State) (b : Fin 4) (r : BoundaryRec) :
    (s.setBoundary b r).points = s.points := rfl
@[simp] theorem State.setBoundary_signals (s : State) (b : Fin 4) (r : BoundaryRec) :
    (s.setBoundary b r).signals = s.signals := rfl
@[simp] theorem State.setBoundary_blocking (s : State) (b : Fin 4) (r : BoundaryRec) :
    (s.setBoundary b r).blocking = s.blocking := rfl
@[simp] theorem State.setBoundary_remote (s : State) (b : Fin 4) (r : BoundaryRec) :
    (s.setBoundary b r).remote = s.remote := rfl
@[simp] theorem State.setBoundary_instances (s : State) (b : Fin 4) (r : BoundaryRec) :
    (s.setBoundary b r).instances = s.instances := rfl
@[simp] theorem State.setBoundary_lastEnded (s : State) (b : Fin 4) (r : BoundaryRec) :
    (s.setBoundary b r).lastEnded = s.lastEnded := rfl
@[simp] theorem State.setBoundary_reservations (s : State) (b : Fin 4) (r : BoundaryRec) :
    (s.setBoundary b r).reservations = s.reservations := rfl
@[simp] theorem State.setBoundary_register (s : State) (b : Fin 4) (r : BoundaryRec) :
    (s.setBoundary b r).register = s.register := rfl
@[simp] theorem State.setBoundary_bitRate (s : State) (b : Fin 4) (r : BoundaryRec) :
    (s.setBoundary b r).bitRate = s.bitRate := rfl
@[simp] theorem State.setBoundary_idleCount (s : State) (b : Fin 4) (r : BoundaryRec) :
    (s.setBoundary b r).idleCount = s.idleCount := rfl
@[simp] theorem State.setBoundary_yieldGap (s : State) (b : Fin 4) (r : BoundaryRec) :
    (s.setBoundary b r).yieldGap = s.yieldGap := rfl
@[simp] theorem State.setBoundary_sending (s : State) (b : Fin 4) (r : BoundaryRec) :
    (s.setBoundary b r).sending = s.sending := rfl
@[simp] theorem State.setBoundary_slotDriven (s : State) (b : Fin 4) (r : BoundaryRec) :
    (s.setBoundary b r).slotDriven = s.slotDriven := rfl
@[simp] theorem State.setBoundary_recvQueue (s : State) (b : Fin 4) (r : BoundaryRec) :
    (s.setBoundary b r).recvQueue = s.recvQueue := rfl
@[simp] theorem State.setBoundary_sendQueue (s : State) (b : Fin 4) (r : BoundaryRec) :
    (s.setBoundary b r).sendQueue = s.sendQueue := rfl
@[simp] theorem State.setBoundary_tagCounter (s : State) (b : Fin 4) (r : BoundaryRec) :
    (s.setBoundary b r).tagCounter = s.tagCounter := rfl
@[simp] theorem State.setBoundary_requests (s : State) (b : Fin 4) (r : BoundaryRec) :
    (s.setBoundary b r).requests = s.requests := rfl
@[simp] theorem State.setBoundary_peers (s : State) (b : Fin 4) (r : BoundaryRec) :
    (s.setBoundary b r).peers = s.peers := rfl
@[simp] theorem State.setBoundary_presenceTimer (s : State) (b : Fin 4) (r : BoundaryRec) :
    (s.setBoundary b r).presenceTimer = s.presenceTimer := rfl
@[simp] theorem State.setBoundary_reports (s : State) (b : Fin 4) (r : BoundaryRec) :
    (s.setBoundary b r).reports = s.reports := rfl
@[simp] theorem State.setBoundary_firstFault (s : State) (b : Fin 4) (r : BoundaryRec) :
    (s.setBoundary b r).firstFault = s.firstFault := rfl
@[simp] theorem State.setBoundary_counts (s : State) (b : Fin 4) (r : BoundaryRec) :
    (s.setBoundary b r).counts = s.counts := rfl
@[simp] theorem State.setBoundary_alertArmed (s : State) (b : Fin 4) (r : BoundaryRec) :
    (s.setBoundary b r).alertArmed = s.alertArmed := rfl
@[simp] theorem State.setBoundary_fresh (s : State) (b : Fin 4) (r : BoundaryRec) :
    (s.setBoundary b r).fresh = s.fresh := rfl
@[simp] theorem State.setBoundary_agenda (s : State) (b : Fin 4) (r : BoundaryRec) :
    (s.setBoundary b r).agenda = s.agenda := rfl

@[simp] theorem State.setInstance_pending (s : State) (g : Fin 8) (i : Option RouteInst) :
    (s.setInstance g i).pending = s.pending := rfl
@[simp] theorem State.setInstance_resetHeld (s : State) (g : Fin 8) (i : Option RouteInst) :
    (s.setInstance g i).resetHeld = s.resetHeld := rfl
@[simp] theorem State.setInstance_service (s : State) (g : Fin 8) (i : Option RouteInst) :
    (s.setInstance g i).service = s.service := rfl
@[simp] theorem State.setInstance_loadResult (s : State) (g : Fin 8) (i : Option RouteInst) :
    (s.setInstance g i).loadResult = s.loadResult := rfl
@[simp] theorem State.setInstance_address (s : State) (g : Fin 8) (i : Option RouteInst) :
    (s.setInstance g i).address = s.address := rfl
@[simp] theorem State.setInstance_startHoldTimer (s : State) (g : Fin 8) (i : Option RouteInst) :
    (s.setInstance g i).startHoldTimer = s.startHoldTimer := rfl
@[simp] theorem State.setInstance_admission (s : State) (g : Fin 8) (i : Option RouteInst) :
    (s.setInstance g i).admission = s.admission := rfl
@[simp] theorem State.setInstance_keyOn (s : State) (g : Fin 8) (i : Option RouteInst) :
    (s.setInstance g i).keyOn = s.keyOn := rfl
@[simp] theorem State.setInstance_captureTimer (s : State) (g : Fin 8) (i : Option RouteInst) :
    (s.setInstance g i).captureTimer = s.captureTimer := rfl
@[simp] theorem State.setInstance_cfg (s : State) (g : Fin 8) (i : Option RouteInst) :
    (s.setInstance g i).cfg = s.cfg := rfl
@[simp] theorem State.setInstance_sections (s : State) (g : Fin 8) (i : Option RouteInst) :
    (s.setInstance g i).sections = s.sections := rfl
@[simp] theorem State.setInstance_points (s : State) (g : Fin 8) (i : Option RouteInst) :
    (s.setInstance g i).points = s.points := rfl
@[simp] theorem State.setInstance_signals (s : State) (g : Fin 8) (i : Option RouteInst) :
    (s.setInstance g i).signals = s.signals := rfl
@[simp] theorem State.setInstance_boundaries (s : State) (g : Fin 8) (i : Option RouteInst) :
    (s.setInstance g i).boundaries = s.boundaries := rfl
@[simp] theorem State.setInstance_blocking (s : State) (g : Fin 8) (i : Option RouteInst) :
    (s.setInstance g i).blocking = s.blocking := rfl
@[simp] theorem State.setInstance_remote (s : State) (g : Fin 8) (i : Option RouteInst) :
    (s.setInstance g i).remote = s.remote := rfl
@[simp] theorem State.setInstance_lastEnded (s : State) (g : Fin 8) (i : Option RouteInst) :
    (s.setInstance g i).lastEnded = s.lastEnded := rfl
@[simp] theorem State.setInstance_reservations (s : State) (g : Fin 8) (i : Option RouteInst) :
    (s.setInstance g i).reservations = s.reservations := rfl
@[simp] theorem State.setInstance_register (s : State) (g : Fin 8) (i : Option RouteInst) :
    (s.setInstance g i).register = s.register := rfl
@[simp] theorem State.setInstance_bitRate (s : State) (g : Fin 8) (i : Option RouteInst) :
    (s.setInstance g i).bitRate = s.bitRate := rfl
@[simp] theorem State.setInstance_idleCount (s : State) (g : Fin 8) (i : Option RouteInst) :
    (s.setInstance g i).idleCount = s.idleCount := rfl
@[simp] theorem State.setInstance_yieldGap (s : State) (g : Fin 8) (i : Option RouteInst) :
    (s.setInstance g i).yieldGap = s.yieldGap := rfl
@[simp] theorem State.setInstance_sending (s : State) (g : Fin 8) (i : Option RouteInst) :
    (s.setInstance g i).sending = s.sending := rfl
@[simp] theorem State.setInstance_slotDriven (s : State) (g : Fin 8) (i : Option RouteInst) :
    (s.setInstance g i).slotDriven = s.slotDriven := rfl
@[simp] theorem State.setInstance_recvQueue (s : State) (g : Fin 8) (i : Option RouteInst) :
    (s.setInstance g i).recvQueue = s.recvQueue := rfl
@[simp] theorem State.setInstance_sendQueue (s : State) (g : Fin 8) (i : Option RouteInst) :
    (s.setInstance g i).sendQueue = s.sendQueue := rfl
@[simp] theorem State.setInstance_tagCounter (s : State) (g : Fin 8) (i : Option RouteInst) :
    (s.setInstance g i).tagCounter = s.tagCounter := rfl
@[simp] theorem State.setInstance_requests (s : State) (g : Fin 8) (i : Option RouteInst) :
    (s.setInstance g i).requests = s.requests := rfl
@[simp] theorem State.setInstance_peers (s : State) (g : Fin 8) (i : Option RouteInst) :
    (s.setInstance g i).peers = s.peers := rfl
@[simp] theorem State.setInstance_presenceTimer (s : State) (g : Fin 8) (i : Option RouteInst) :
    (s.setInstance g i).presenceTimer = s.presenceTimer := rfl
@[simp] theorem State.setInstance_reports (s : State) (g : Fin 8) (i : Option RouteInst) :
    (s.setInstance g i).reports = s.reports := rfl
@[simp] theorem State.setInstance_firstFault (s : State) (g : Fin 8) (i : Option RouteInst) :
    (s.setInstance g i).firstFault = s.firstFault := rfl
@[simp] theorem State.setInstance_counts (s : State) (g : Fin 8) (i : Option RouteInst) :
    (s.setInstance g i).counts = s.counts := rfl
@[simp] theorem State.setInstance_alertArmed (s : State) (g : Fin 8) (i : Option RouteInst) :
    (s.setInstance g i).alertArmed = s.alertArmed := rfl
@[simp] theorem State.setInstance_fresh (s : State) (g : Fin 8) (i : Option RouteInst) :
    (s.setInstance g i).fresh = s.fresh := rfl
@[simp] theorem State.setInstance_agenda (s : State) (g : Fin 8) (i : Option RouteInst) :
    (s.setInstance g i).agenda = s.agenda := rfl

@[simp] theorem State.changeInstance_pending (s : State) (g : Fin 8) (f : RouteInst → RouteInst) :
    (s.changeInstance g f).pending = s.pending := rfl
@[simp] theorem State.changeInstance_resetHeld (s : State) (g : Fin 8) (f : RouteInst → RouteInst) :
    (s.changeInstance g f).resetHeld = s.resetHeld := rfl
@[simp] theorem State.changeInstance_service (s : State) (g : Fin 8) (f : RouteInst → RouteInst) :
    (s.changeInstance g f).service = s.service := rfl
@[simp] theorem State.changeInstance_loadResult (s : State) (g : Fin 8) (f : RouteInst → RouteInst) :
    (s.changeInstance g f).loadResult = s.loadResult := rfl
@[simp] theorem State.changeInstance_address (s : State) (g : Fin 8) (f : RouteInst → RouteInst) :
    (s.changeInstance g f).address = s.address := rfl
@[simp] theorem State.changeInstance_startHoldTimer (s : State) (g : Fin 8) (f : RouteInst → RouteInst) :
    (s.changeInstance g f).startHoldTimer = s.startHoldTimer := rfl
@[simp] theorem State.changeInstance_admission (s : State) (g : Fin 8) (f : RouteInst → RouteInst) :
    (s.changeInstance g f).admission = s.admission := rfl
@[simp] theorem State.changeInstance_keyOn (s : State) (g : Fin 8) (f : RouteInst → RouteInst) :
    (s.changeInstance g f).keyOn = s.keyOn := rfl
@[simp] theorem State.changeInstance_captureTimer (s : State) (g : Fin 8) (f : RouteInst → RouteInst) :
    (s.changeInstance g f).captureTimer = s.captureTimer := rfl
@[simp] theorem State.changeInstance_cfg (s : State) (g : Fin 8) (f : RouteInst → RouteInst) :
    (s.changeInstance g f).cfg = s.cfg := rfl
@[simp] theorem State.changeInstance_sections (s : State) (g : Fin 8) (f : RouteInst → RouteInst) :
    (s.changeInstance g f).sections = s.sections := rfl
@[simp] theorem State.changeInstance_points (s : State) (g : Fin 8) (f : RouteInst → RouteInst) :
    (s.changeInstance g f).points = s.points := rfl
@[simp] theorem State.changeInstance_signals (s : State) (g : Fin 8) (f : RouteInst → RouteInst) :
    (s.changeInstance g f).signals = s.signals := rfl
@[simp] theorem State.changeInstance_boundaries (s : State) (g : Fin 8) (f : RouteInst → RouteInst) :
    (s.changeInstance g f).boundaries = s.boundaries := rfl
@[simp] theorem State.changeInstance_blocking (s : State) (g : Fin 8) (f : RouteInst → RouteInst) :
    (s.changeInstance g f).blocking = s.blocking := rfl
@[simp] theorem State.changeInstance_remote (s : State) (g : Fin 8) (f : RouteInst → RouteInst) :
    (s.changeInstance g f).remote = s.remote := rfl
@[simp] theorem State.changeInstance_lastEnded (s : State) (g : Fin 8) (f : RouteInst → RouteInst) :
    (s.changeInstance g f).lastEnded = s.lastEnded := rfl
@[simp] theorem State.changeInstance_reservations (s : State) (g : Fin 8) (f : RouteInst → RouteInst) :
    (s.changeInstance g f).reservations = s.reservations := rfl
@[simp] theorem State.changeInstance_register (s : State) (g : Fin 8) (f : RouteInst → RouteInst) :
    (s.changeInstance g f).register = s.register := rfl
@[simp] theorem State.changeInstance_bitRate (s : State) (g : Fin 8) (f : RouteInst → RouteInst) :
    (s.changeInstance g f).bitRate = s.bitRate := rfl
@[simp] theorem State.changeInstance_idleCount (s : State) (g : Fin 8) (f : RouteInst → RouteInst) :
    (s.changeInstance g f).idleCount = s.idleCount := rfl
@[simp] theorem State.changeInstance_yieldGap (s : State) (g : Fin 8) (f : RouteInst → RouteInst) :
    (s.changeInstance g f).yieldGap = s.yieldGap := rfl
@[simp] theorem State.changeInstance_sending (s : State) (g : Fin 8) (f : RouteInst → RouteInst) :
    (s.changeInstance g f).sending = s.sending := rfl
@[simp] theorem State.changeInstance_slotDriven (s : State) (g : Fin 8) (f : RouteInst → RouteInst) :
    (s.changeInstance g f).slotDriven = s.slotDriven := rfl
@[simp] theorem State.changeInstance_recvQueue (s : State) (g : Fin 8) (f : RouteInst → RouteInst) :
    (s.changeInstance g f).recvQueue = s.recvQueue := rfl
@[simp] theorem State.changeInstance_sendQueue (s : State) (g : Fin 8) (f : RouteInst → RouteInst) :
    (s.changeInstance g f).sendQueue = s.sendQueue := rfl
@[simp] theorem State.changeInstance_tagCounter (s : State) (g : Fin 8) (f : RouteInst → RouteInst) :
    (s.changeInstance g f).tagCounter = s.tagCounter := rfl
@[simp] theorem State.changeInstance_requests (s : State) (g : Fin 8) (f : RouteInst → RouteInst) :
    (s.changeInstance g f).requests = s.requests := rfl
@[simp] theorem State.changeInstance_peers (s : State) (g : Fin 8) (f : RouteInst → RouteInst) :
    (s.changeInstance g f).peers = s.peers := rfl
@[simp] theorem State.changeInstance_presenceTimer (s : State) (g : Fin 8) (f : RouteInst → RouteInst) :
    (s.changeInstance g f).presenceTimer = s.presenceTimer := rfl
@[simp] theorem State.changeInstance_reports (s : State) (g : Fin 8) (f : RouteInst → RouteInst) :
    (s.changeInstance g f).reports = s.reports := rfl
@[simp] theorem State.changeInstance_firstFault (s : State) (g : Fin 8) (f : RouteInst → RouteInst) :
    (s.changeInstance g f).firstFault = s.firstFault := rfl
@[simp] theorem State.changeInstance_counts (s : State) (g : Fin 8) (f : RouteInst → RouteInst) :
    (s.changeInstance g f).counts = s.counts := rfl
@[simp] theorem State.changeInstance_alertArmed (s : State) (g : Fin 8) (f : RouteInst → RouteInst) :
    (s.changeInstance g f).alertArmed = s.alertArmed := rfl
@[simp] theorem State.changeInstance_fresh (s : State) (g : Fin 8) (f : RouteInst → RouteInst) :
    (s.changeInstance g f).fresh = s.fresh := rfl
@[simp] theorem State.changeInstance_agenda (s : State) (g : Fin 8) (f : RouteInst → RouteInst) :
    (s.changeInstance g f).agenda = s.agenda := rfl

@[simp] theorem State.changePeer_pending (s : State) (a : Nat) (f : PeerEntry → PeerEntry) :
    (s.changePeer a f).pending = s.pending := rfl
@[simp] theorem State.changePeer_resetHeld (s : State) (a : Nat) (f : PeerEntry → PeerEntry) :
    (s.changePeer a f).resetHeld = s.resetHeld := rfl
@[simp] theorem State.changePeer_service (s : State) (a : Nat) (f : PeerEntry → PeerEntry) :
    (s.changePeer a f).service = s.service := rfl
@[simp] theorem State.changePeer_loadResult (s : State) (a : Nat) (f : PeerEntry → PeerEntry) :
    (s.changePeer a f).loadResult = s.loadResult := rfl
@[simp] theorem State.changePeer_address (s : State) (a : Nat) (f : PeerEntry → PeerEntry) :
    (s.changePeer a f).address = s.address := rfl
@[simp] theorem State.changePeer_startHoldTimer (s : State) (a : Nat) (f : PeerEntry → PeerEntry) :
    (s.changePeer a f).startHoldTimer = s.startHoldTimer := rfl
@[simp] theorem State.changePeer_admission (s : State) (a : Nat) (f : PeerEntry → PeerEntry) :
    (s.changePeer a f).admission = s.admission := rfl
@[simp] theorem State.changePeer_keyOn (s : State) (a : Nat) (f : PeerEntry → PeerEntry) :
    (s.changePeer a f).keyOn = s.keyOn := rfl
@[simp] theorem State.changePeer_captureTimer (s : State) (a : Nat) (f : PeerEntry → PeerEntry) :
    (s.changePeer a f).captureTimer = s.captureTimer := rfl
@[simp] theorem State.changePeer_cfg (s : State) (a : Nat) (f : PeerEntry → PeerEntry) :
    (s.changePeer a f).cfg = s.cfg := rfl
@[simp] theorem State.changePeer_sections (s : State) (a : Nat) (f : PeerEntry → PeerEntry) :
    (s.changePeer a f).sections = s.sections := rfl
@[simp] theorem State.changePeer_points (s : State) (a : Nat) (f : PeerEntry → PeerEntry) :
    (s.changePeer a f).points = s.points := rfl
@[simp] theorem State.changePeer_signals (s : State) (a : Nat) (f : PeerEntry → PeerEntry) :
    (s.changePeer a f).signals = s.signals := rfl
@[simp] theorem State.changePeer_boundaries (s : State) (a : Nat) (f : PeerEntry → PeerEntry) :
    (s.changePeer a f).boundaries = s.boundaries := rfl
@[simp] theorem State.changePeer_blocking (s : State) (a : Nat) (f : PeerEntry → PeerEntry) :
    (s.changePeer a f).blocking = s.blocking := rfl
@[simp] theorem State.changePeer_remote (s : State) (a : Nat) (f : PeerEntry → PeerEntry) :
    (s.changePeer a f).remote = s.remote := rfl
@[simp] theorem State.changePeer_instances (s : State) (a : Nat) (f : PeerEntry → PeerEntry) :
    (s.changePeer a f).instances = s.instances := rfl
@[simp] theorem State.changePeer_lastEnded (s : State) (a : Nat) (f : PeerEntry → PeerEntry) :
    (s.changePeer a f).lastEnded = s.lastEnded := rfl
@[simp] theorem State.changePeer_reservations (s : State) (a : Nat) (f : PeerEntry → PeerEntry) :
    (s.changePeer a f).reservations = s.reservations := rfl
@[simp] theorem State.changePeer_register (s : State) (a : Nat) (f : PeerEntry → PeerEntry) :
    (s.changePeer a f).register = s.register := rfl
@[simp] theorem State.changePeer_bitRate (s : State) (a : Nat) (f : PeerEntry → PeerEntry) :
    (s.changePeer a f).bitRate = s.bitRate := rfl
@[simp] theorem State.changePeer_idleCount (s : State) (a : Nat) (f : PeerEntry → PeerEntry) :
    (s.changePeer a f).idleCount = s.idleCount := rfl
@[simp] theorem State.changePeer_yieldGap (s : State) (a : Nat) (f : PeerEntry → PeerEntry) :
    (s.changePeer a f).yieldGap = s.yieldGap := rfl
@[simp] theorem State.changePeer_sending (s : State) (a : Nat) (f : PeerEntry → PeerEntry) :
    (s.changePeer a f).sending = s.sending := rfl
@[simp] theorem State.changePeer_slotDriven (s : State) (a : Nat) (f : PeerEntry → PeerEntry) :
    (s.changePeer a f).slotDriven = s.slotDriven := rfl
@[simp] theorem State.changePeer_recvQueue (s : State) (a : Nat) (f : PeerEntry → PeerEntry) :
    (s.changePeer a f).recvQueue = s.recvQueue := rfl
@[simp] theorem State.changePeer_sendQueue (s : State) (a : Nat) (f : PeerEntry → PeerEntry) :
    (s.changePeer a f).sendQueue = s.sendQueue := rfl
@[simp] theorem State.changePeer_tagCounter (s : State) (a : Nat) (f : PeerEntry → PeerEntry) :
    (s.changePeer a f).tagCounter = s.tagCounter := rfl
@[simp] theorem State.changePeer_requests (s : State) (a : Nat) (f : PeerEntry → PeerEntry) :
    (s.changePeer a f).requests = s.requests := rfl
@[simp] theorem State.changePeer_presenceTimer (s : State) (a : Nat) (f : PeerEntry → PeerEntry) :
    (s.changePeer a f).presenceTimer = s.presenceTimer := rfl
@[simp] theorem State.changePeer_reports (s : State) (a : Nat) (f : PeerEntry → PeerEntry) :
    (s.changePeer a f).reports = s.reports := rfl
@[simp] theorem State.changePeer_firstFault (s : State) (a : Nat) (f : PeerEntry → PeerEntry) :
    (s.changePeer a f).firstFault = s.firstFault := rfl
@[simp] theorem State.changePeer_counts (s : State) (a : Nat) (f : PeerEntry → PeerEntry) :
    (s.changePeer a f).counts = s.counts := rfl
@[simp] theorem State.changePeer_alertArmed (s : State) (a : Nat) (f : PeerEntry → PeerEntry) :
    (s.changePeer a f).alertArmed = s.alertArmed := rfl
@[simp] theorem State.changePeer_fresh (s : State) (a : Nat) (f : PeerEntry → PeerEntry) :
    (s.changePeer a f).fresh = s.fresh := rfl
@[simp] theorem State.changePeer_agenda (s : State) (a : Nat) (f : PeerEntry → PeerEntry) :
    (s.changePeer a f).agenda = s.agenda := rfl

@[simp] theorem State.changeReservation_pending (s : State) (ref : RouteRef) (f : Reservation → Reservation) :
    (s.changeReservation ref f).pending = s.pending := rfl
@[simp] theorem State.changeReservation_resetHeld (s : State) (ref : RouteRef) (f : Reservation → Reservation) :
    (s.changeReservation ref f).resetHeld = s.resetHeld := rfl
@[simp] theorem State.changeReservation_service (s : State) (ref : RouteRef) (f : Reservation → Reservation) :
    (s.changeReservation ref f).service = s.service := rfl
@[simp] theorem State.changeReservation_loadResult (s : State) (ref : RouteRef) (f : Reservation → Reservation) :
    (s.changeReservation ref f).loadResult = s.loadResult := rfl
@[simp] theorem State.changeReservation_address (s : State) (ref : RouteRef) (f : Reservation → Reservation) :
    (s.changeReservation ref f).address = s.address := rfl
@[simp] theorem State.changeReservation_startHoldTimer (s : State) (ref : RouteRef) (f : Reservation → Reservation) :
    (s.changeReservation ref f).startHoldTimer = s.startHoldTimer := rfl
@[simp] theorem State.changeReservation_admission (s : State) (ref : RouteRef) (f : Reservation → Reservation) :
    (s.changeReservation ref f).admission = s.admission := rfl
@[simp] theorem State.changeReservation_keyOn (s : State) (ref : RouteRef) (f : Reservation → Reservation) :
    (s.changeReservation ref f).keyOn = s.keyOn := rfl
@[simp] theorem State.changeReservation_captureTimer (s : State) (ref : RouteRef) (f : Reservation → Reservation) :
    (s.changeReservation ref f).captureTimer = s.captureTimer := rfl
@[simp] theorem State.changeReservation_cfg (s : State) (ref : RouteRef) (f : Reservation → Reservation) :
    (s.changeReservation ref f).cfg = s.cfg := rfl
@[simp] theorem State.changeReservation_sections (s : State) (ref : RouteRef) (f : Reservation → Reservation) :
    (s.changeReservation ref f).sections = s.sections := rfl
@[simp] theorem State.changeReservation_points (s : State) (ref : RouteRef) (f : Reservation → Reservation) :
    (s.changeReservation ref f).points = s.points := rfl
@[simp] theorem State.changeReservation_signals (s : State) (ref : RouteRef) (f : Reservation → Reservation) :
    (s.changeReservation ref f).signals = s.signals := rfl
@[simp] theorem State.changeReservation_boundaries (s : State) (ref : RouteRef) (f : Reservation → Reservation) :
    (s.changeReservation ref f).boundaries = s.boundaries := rfl
@[simp] theorem State.changeReservation_blocking (s : State) (ref : RouteRef) (f : Reservation → Reservation) :
    (s.changeReservation ref f).blocking = s.blocking := rfl
@[simp] theorem State.changeReservation_remote (s : State) (ref : RouteRef) (f : Reservation → Reservation) :
    (s.changeReservation ref f).remote = s.remote := rfl
@[simp] theorem State.changeReservation_instances (s : State) (ref : RouteRef) (f : Reservation → Reservation) :
    (s.changeReservation ref f).instances = s.instances := rfl
@[simp] theorem State.changeReservation_lastEnded (s : State) (ref : RouteRef) (f : Reservation → Reservation) :
    (s.changeReservation ref f).lastEnded = s.lastEnded := rfl
@[simp] theorem State.changeReservation_register (s : State) (ref : RouteRef) (f : Reservation → Reservation) :
    (s.changeReservation ref f).register = s.register := rfl
@[simp] theorem State.changeReservation_bitRate (s : State) (ref : RouteRef) (f : Reservation → Reservation) :
    (s.changeReservation ref f).bitRate = s.bitRate := rfl
@[simp] theorem State.changeReservation_idleCount (s : State) (ref : RouteRef) (f : Reservation → Reservation) :
    (s.changeReservation ref f).idleCount = s.idleCount := rfl
@[simp] theorem State.changeReservation_yieldGap (s : State) (ref : RouteRef) (f : Reservation → Reservation) :
    (s.changeReservation ref f).yieldGap = s.yieldGap := rfl
@[simp] theorem State.changeReservation_sending (s : State) (ref : RouteRef) (f : Reservation → Reservation) :
    (s.changeReservation ref f).sending = s.sending := rfl
@[simp] theorem State.changeReservation_slotDriven (s : State) (ref : RouteRef) (f : Reservation → Reservation) :
    (s.changeReservation ref f).slotDriven = s.slotDriven := rfl
@[simp] theorem State.changeReservation_recvQueue (s : State) (ref : RouteRef) (f : Reservation → Reservation) :
    (s.changeReservation ref f).recvQueue = s.recvQueue := rfl
@[simp] theorem State.changeReservation_sendQueue (s : State) (ref : RouteRef) (f : Reservation → Reservation) :
    (s.changeReservation ref f).sendQueue = s.sendQueue := rfl
@[simp] theorem State.changeReservation_tagCounter (s : State) (ref : RouteRef) (f : Reservation → Reservation) :
    (s.changeReservation ref f).tagCounter = s.tagCounter := rfl
@[simp] theorem State.changeReservation_requests (s : State) (ref : RouteRef) (f : Reservation → Reservation) :
    (s.changeReservation ref f).requests = s.requests := rfl
@[simp] theorem State.changeReservation_peers (s : State) (ref : RouteRef) (f : Reservation → Reservation) :
    (s.changeReservation ref f).peers = s.peers := rfl
@[simp] theorem State.changeReservation_presenceTimer (s : State) (ref : RouteRef) (f : Reservation → Reservation) :
    (s.changeReservation ref f).presenceTimer = s.presenceTimer := rfl
@[simp] theorem State.changeReservation_reports (s : State) (ref : RouteRef) (f : Reservation → Reservation) :
    (s.changeReservation ref f).reports = s.reports := rfl
@[simp] theorem State.changeReservation_firstFault (s : State) (ref : RouteRef) (f : Reservation → Reservation) :
    (s.changeReservation ref f).firstFault = s.firstFault := rfl
@[simp] theorem State.changeReservation_counts (s : State) (ref : RouteRef) (f : Reservation → Reservation) :
    (s.changeReservation ref f).counts = s.counts := rfl
@[simp] theorem State.changeReservation_alertArmed (s : State) (ref : RouteRef) (f : Reservation → Reservation) :
    (s.changeReservation ref f).alertArmed = s.alertArmed := rfl
@[simp] theorem State.changeReservation_fresh (s : State) (ref : RouteRef) (f : Reservation → Reservation) :
    (s.changeReservation ref f).fresh = s.fresh := rfl
@[simp] theorem State.changeReservation_agenda (s : State) (ref : RouteRef) (f : Reservation → Reservation) :
    (s.changeReservation ref f).agenda = s.agenda := rfl

@[simp] theorem State.changeRegister_pending (s : State) (ref : RouteRef) (f : RegisterEntry → RegisterEntry) :
    (s.changeRegister ref f).pending = s.pending := rfl
@[simp] theorem State.changeRegister_resetHeld (s : State) (ref : RouteRef) (f : RegisterEntry → RegisterEntry) :
    (s.changeRegister ref f).resetHeld = s.resetHeld := rfl
@[simp] theorem State.changeRegister_service (s : State) (ref : RouteRef) (f : RegisterEntry → RegisterEntry) :
    (s.changeRegister ref f).service = s.service := rfl
@[simp] theorem State.changeRegister_loadResult (s : State) (ref : RouteRef) (f : RegisterEntry → RegisterEntry) :
    (s.changeRegister ref f).loadResult = s.loadResult := rfl
@[simp] theorem State.changeRegister_address (s : State) (ref : RouteRef) (f : RegisterEntry → RegisterEntry) :
    (s.changeRegister ref f).address = s.address := rfl
@[simp] theorem State.changeRegister_startHoldTimer (s : State) (ref : RouteRef) (f : RegisterEntry → RegisterEntry) :
    (s.changeRegister ref f).startHoldTimer = s.startHoldTimer := rfl
@[simp] theorem State.changeRegister_admission (s : State) (ref : RouteRef) (f : RegisterEntry → RegisterEntry) :
    (s.changeRegister ref f).admission = s.admission := rfl
@[simp] theorem State.changeRegister_keyOn (s : State) (ref : RouteRef) (f : RegisterEntry → RegisterEntry) :
    (s.changeRegister ref f).keyOn = s.keyOn := rfl
@[simp] theorem State.changeRegister_captureTimer (s : State) (ref : RouteRef) (f : RegisterEntry → RegisterEntry) :
    (s.changeRegister ref f).captureTimer = s.captureTimer := rfl
@[simp] theorem State.changeRegister_cfg (s : State) (ref : RouteRef) (f : RegisterEntry → RegisterEntry) :
    (s.changeRegister ref f).cfg = s.cfg := rfl
@[simp] theorem State.changeRegister_sections (s : State) (ref : RouteRef) (f : RegisterEntry → RegisterEntry) :
    (s.changeRegister ref f).sections = s.sections := rfl
@[simp] theorem State.changeRegister_points (s : State) (ref : RouteRef) (f : RegisterEntry → RegisterEntry) :
    (s.changeRegister ref f).points = s.points := rfl
@[simp] theorem State.changeRegister_signals (s : State) (ref : RouteRef) (f : RegisterEntry → RegisterEntry) :
    (s.changeRegister ref f).signals = s.signals := rfl
@[simp] theorem State.changeRegister_boundaries (s : State) (ref : RouteRef) (f : RegisterEntry → RegisterEntry) :
    (s.changeRegister ref f).boundaries = s.boundaries := rfl
@[simp] theorem State.changeRegister_blocking (s : State) (ref : RouteRef) (f : RegisterEntry → RegisterEntry) :
    (s.changeRegister ref f).blocking = s.blocking := rfl
@[simp] theorem State.changeRegister_remote (s : State) (ref : RouteRef) (f : RegisterEntry → RegisterEntry) :
    (s.changeRegister ref f).remote = s.remote := rfl
@[simp] theorem State.changeRegister_instances (s : State) (ref : RouteRef) (f : RegisterEntry → RegisterEntry) :
    (s.changeRegister ref f).instances = s.instances := rfl
@[simp] theorem State.changeRegister_lastEnded (s : State) (ref : RouteRef) (f : RegisterEntry → RegisterEntry) :
    (s.changeRegister ref f).lastEnded = s.lastEnded := rfl
@[simp] theorem State.changeRegister_reservations (s : State) (ref : RouteRef) (f : RegisterEntry → RegisterEntry) :
    (s.changeRegister ref f).reservations = s.reservations := rfl
@[simp] theorem State.changeRegister_bitRate (s : State) (ref : RouteRef) (f : RegisterEntry → RegisterEntry) :
    (s.changeRegister ref f).bitRate = s.bitRate := rfl
@[simp] theorem State.changeRegister_idleCount (s : State) (ref : RouteRef) (f : RegisterEntry → RegisterEntry) :
    (s.changeRegister ref f).idleCount = s.idleCount := rfl
@[simp] theorem State.changeRegister_yieldGap (s : State) (ref : RouteRef) (f : RegisterEntry → RegisterEntry) :
    (s.changeRegister ref f).yieldGap = s.yieldGap := rfl
@[simp] theorem State.changeRegister_sending (s : State) (ref : RouteRef) (f : RegisterEntry → RegisterEntry) :
    (s.changeRegister ref f).sending = s.sending := rfl
@[simp] theorem State.changeRegister_slotDriven (s : State) (ref : RouteRef) (f : RegisterEntry → RegisterEntry) :
    (s.changeRegister ref f).slotDriven = s.slotDriven := rfl
@[simp] theorem State.changeRegister_recvQueue (s : State) (ref : RouteRef) (f : RegisterEntry → RegisterEntry) :
    (s.changeRegister ref f).recvQueue = s.recvQueue := rfl
@[simp] theorem State.changeRegister_sendQueue (s : State) (ref : RouteRef) (f : RegisterEntry → RegisterEntry) :
    (s.changeRegister ref f).sendQueue = s.sendQueue := rfl
@[simp] theorem State.changeRegister_tagCounter (s : State) (ref : RouteRef) (f : RegisterEntry → RegisterEntry) :
    (s.changeRegister ref f).tagCounter = s.tagCounter := rfl
@[simp] theorem State.changeRegister_requests (s : State) (ref : RouteRef) (f : RegisterEntry → RegisterEntry) :
    (s.changeRegister ref f).requests = s.requests := rfl
@[simp] theorem State.changeRegister_peers (s : State) (ref : RouteRef) (f : RegisterEntry → RegisterEntry) :
    (s.changeRegister ref f).peers = s.peers := rfl
@[simp] theorem State.changeRegister_presenceTimer (s : State) (ref : RouteRef) (f : RegisterEntry → RegisterEntry) :
    (s.changeRegister ref f).presenceTimer = s.presenceTimer := rfl
@[simp] theorem State.changeRegister_reports (s : State) (ref : RouteRef) (f : RegisterEntry → RegisterEntry) :
    (s.changeRegister ref f).reports = s.reports := rfl
@[simp] theorem State.changeRegister_firstFault (s : State) (ref : RouteRef) (f : RegisterEntry → RegisterEntry) :
    (s.changeRegister ref f).firstFault = s.firstFault := rfl
@[simp] theorem State.changeRegister_counts (s : State) (ref : RouteRef) (f : RegisterEntry → RegisterEntry) :
    (s.changeRegister ref f).counts = s.counts := rfl
@[simp] theorem State.changeRegister_alertArmed (s : State) (ref : RouteRef) (f : RegisterEntry → RegisterEntry) :
    (s.changeRegister ref f).alertArmed = s.alertArmed := rfl
@[simp] theorem State.changeRegister_fresh (s : State) (ref : RouteRef) (f : RegisterEntry → RegisterEntry) :
    (s.changeRegister ref f).fresh = s.fresh := rfl
@[simp] theorem State.changeRegister_agenda (s : State) (ref : RouteRef) (f : RegisterEntry → RegisterEntry) :
    (s.changeRegister ref f).agenda = s.agenda := rfl

@[simp] theorem State.changeRemote_pending (s : State) (x : SectionRef) (f : RemoteEntry → RemoteEntry) :
    (s.changeRemote x f).pending = s.pending := rfl
@[simp] theorem State.changeRemote_resetHeld (s : State) (x : SectionRef) (f : RemoteEntry → RemoteEntry) :
    (s.changeRemote x f).resetHeld = s.resetHeld := rfl
@[simp] theorem State.changeRemote_service (s : State) (x : SectionRef) (f : RemoteEntry → RemoteEntry) :
    (s.changeRemote x f).service = s.service := rfl
@[simp] theorem State.changeRemote_loadResult (s : State) (x : SectionRef) (f : RemoteEntry → RemoteEntry) :
    (s.changeRemote x f).loadResult = s.loadResult := rfl
@[simp] theorem State.changeRemote_address (s : State) (x : SectionRef) (f : RemoteEntry → RemoteEntry) :
    (s.changeRemote x f).address = s.address := rfl
@[simp] theorem State.changeRemote_startHoldTimer (s : State) (x : SectionRef) (f : RemoteEntry → RemoteEntry) :
    (s.changeRemote x f).startHoldTimer = s.startHoldTimer := rfl
@[simp] theorem State.changeRemote_admission (s : State) (x : SectionRef) (f : RemoteEntry → RemoteEntry) :
    (s.changeRemote x f).admission = s.admission := rfl
@[simp] theorem State.changeRemote_keyOn (s : State) (x : SectionRef) (f : RemoteEntry → RemoteEntry) :
    (s.changeRemote x f).keyOn = s.keyOn := rfl
@[simp] theorem State.changeRemote_captureTimer (s : State) (x : SectionRef) (f : RemoteEntry → RemoteEntry) :
    (s.changeRemote x f).captureTimer = s.captureTimer := rfl
@[simp] theorem State.changeRemote_cfg (s : State) (x : SectionRef) (f : RemoteEntry → RemoteEntry) :
    (s.changeRemote x f).cfg = s.cfg := rfl
@[simp] theorem State.changeRemote_sections (s : State) (x : SectionRef) (f : RemoteEntry → RemoteEntry) :
    (s.changeRemote x f).sections = s.sections := rfl
@[simp] theorem State.changeRemote_points (s : State) (x : SectionRef) (f : RemoteEntry → RemoteEntry) :
    (s.changeRemote x f).points = s.points := rfl
@[simp] theorem State.changeRemote_signals (s : State) (x : SectionRef) (f : RemoteEntry → RemoteEntry) :
    (s.changeRemote x f).signals = s.signals := rfl
@[simp] theorem State.changeRemote_boundaries (s : State) (x : SectionRef) (f : RemoteEntry → RemoteEntry) :
    (s.changeRemote x f).boundaries = s.boundaries := rfl
@[simp] theorem State.changeRemote_blocking (s : State) (x : SectionRef) (f : RemoteEntry → RemoteEntry) :
    (s.changeRemote x f).blocking = s.blocking := rfl
@[simp] theorem State.changeRemote_instances (s : State) (x : SectionRef) (f : RemoteEntry → RemoteEntry) :
    (s.changeRemote x f).instances = s.instances := rfl
@[simp] theorem State.changeRemote_lastEnded (s : State) (x : SectionRef) (f : RemoteEntry → RemoteEntry) :
    (s.changeRemote x f).lastEnded = s.lastEnded := rfl
@[simp] theorem State.changeRemote_reservations (s : State) (x : SectionRef) (f : RemoteEntry → RemoteEntry) :
    (s.changeRemote x f).reservations = s.reservations := rfl
@[simp] theorem State.changeRemote_register (s : State) (x : SectionRef) (f : RemoteEntry → RemoteEntry) :
    (s.changeRemote x f).register = s.register := rfl
@[simp] theorem State.changeRemote_bitRate (s : State) (x : SectionRef) (f : RemoteEntry → RemoteEntry) :
    (s.changeRemote x f).bitRate = s.bitRate := rfl
@[simp] theorem State.changeRemote_idleCount (s : State) (x : SectionRef) (f : RemoteEntry → RemoteEntry) :
    (s.changeRemote x f).idleCount = s.idleCount := rfl
@[simp] theorem State.changeRemote_yieldGap (s : State) (x : SectionRef) (f : RemoteEntry → RemoteEntry) :
    (s.changeRemote x f).yieldGap = s.yieldGap := rfl
@[simp] theorem State.changeRemote_sending (s : State) (x : SectionRef) (f : RemoteEntry → RemoteEntry) :
    (s.changeRemote x f).sending = s.sending := rfl
@[simp] theorem State.changeRemote_slotDriven (s : State) (x : SectionRef) (f : RemoteEntry → RemoteEntry) :
    (s.changeRemote x f).slotDriven = s.slotDriven := rfl
@[simp] theorem State.changeRemote_recvQueue (s : State) (x : SectionRef) (f : RemoteEntry → RemoteEntry) :
    (s.changeRemote x f).recvQueue = s.recvQueue := rfl
@[simp] theorem State.changeRemote_sendQueue (s : State) (x : SectionRef) (f : RemoteEntry → RemoteEntry) :
    (s.changeRemote x f).sendQueue = s.sendQueue := rfl
@[simp] theorem State.changeRemote_tagCounter (s : State) (x : SectionRef) (f : RemoteEntry → RemoteEntry) :
    (s.changeRemote x f).tagCounter = s.tagCounter := rfl
@[simp] theorem State.changeRemote_requests (s : State) (x : SectionRef) (f : RemoteEntry → RemoteEntry) :
    (s.changeRemote x f).requests = s.requests := rfl
@[simp] theorem State.changeRemote_peers (s : State) (x : SectionRef) (f : RemoteEntry → RemoteEntry) :
    (s.changeRemote x f).peers = s.peers := rfl
@[simp] theorem State.changeRemote_presenceTimer (s : State) (x : SectionRef) (f : RemoteEntry → RemoteEntry) :
    (s.changeRemote x f).presenceTimer = s.presenceTimer := rfl
@[simp] theorem State.changeRemote_reports (s : State) (x : SectionRef) (f : RemoteEntry → RemoteEntry) :
    (s.changeRemote x f).reports = s.reports := rfl
@[simp] theorem State.changeRemote_firstFault (s : State) (x : SectionRef) (f : RemoteEntry → RemoteEntry) :
    (s.changeRemote x f).firstFault = s.firstFault := rfl
@[simp] theorem State.changeRemote_counts (s : State) (x : SectionRef) (f : RemoteEntry → RemoteEntry) :
    (s.changeRemote x f).counts = s.counts := rfl
@[simp] theorem State.changeRemote_alertArmed (s : State) (x : SectionRef) (f : RemoteEntry → RemoteEntry) :
    (s.changeRemote x f).alertArmed = s.alertArmed := rfl
@[simp] theorem State.changeRemote_fresh (s : State) (x : SectionRef) (f : RemoteEntry → RemoteEntry) :
    (s.changeRemote x f).fresh = s.fresh := rfl
@[simp] theorem State.changeRemote_agenda (s : State) (x : SectionRef) (f : RemoteEntry → RemoteEntry) :
    (s.changeRemote x f).agenda = s.agenda := rfl

@[simp] theorem State.draw_pending (s : State) (n : Nat) :
    (s.draw n).pending = s.pending := rfl
@[simp] theorem State.draw_resetHeld (s : State) (n : Nat) :
    (s.draw n).resetHeld = s.resetHeld := rfl
@[simp] theorem State.draw_service (s : State) (n : Nat) :
    (s.draw n).service = s.service := rfl
@[simp] theorem State.draw_loadResult (s : State) (n : Nat) :
    (s.draw n).loadResult = s.loadResult := rfl
@[simp] theorem State.draw_address (s : State) (n : Nat) :
    (s.draw n).address = s.address := rfl
@[simp] theorem State.draw_startHoldTimer (s : State) (n : Nat) :
    (s.draw n).startHoldTimer = s.startHoldTimer := rfl
@[simp] theorem State.draw_admission (s : State) (n : Nat) :
    (s.draw n).admission = s.admission := rfl
@[simp] theorem State.draw_keyOn (s : State) (n : Nat) :
    (s.draw n).keyOn = s.keyOn := rfl
@[simp] theorem State.draw_captureTimer (s : State) (n : Nat) :
    (s.draw n).captureTimer = s.captureTimer := rfl
@[simp] theorem State.draw_cfg (s : State) (n : Nat) :
    (s.draw n).cfg = s.cfg := rfl
@[simp] theorem State.draw_sections (s : State) (n : Nat) :
    (s.draw n).sections = s.sections := rfl
@[simp] theorem State.draw_points (s : State) (n : Nat) :
    (s.draw n).points = s.points := rfl
@[simp] theorem State.draw_signals (s : State) (n : Nat) :
    (s.draw n).signals = s.signals := rfl
@[simp] theorem State.draw_boundaries (s : State) (n : Nat) :
    (s.draw n).boundaries = s.boundaries := rfl
@[simp] theorem State.draw_blocking (s : State) (n : Nat) :
    (s.draw n).blocking = s.blocking := rfl
@[simp] theorem State.draw_remote (s : State) (n : Nat) :
    (s.draw n).remote = s.remote := rfl
@[simp] theorem State.draw_instances (s : State) (n : Nat) :
    (s.draw n).instances = s.instances := rfl
@[simp] theorem State.draw_lastEnded (s : State) (n : Nat) :
    (s.draw n).lastEnded = s.lastEnded := rfl
@[simp] theorem State.draw_reservations (s : State) (n : Nat) :
    (s.draw n).reservations = s.reservations := rfl
@[simp] theorem State.draw_register (s : State) (n : Nat) :
    (s.draw n).register = s.register := rfl
@[simp] theorem State.draw_bitRate (s : State) (n : Nat) :
    (s.draw n).bitRate = s.bitRate := rfl
@[simp] theorem State.draw_idleCount (s : State) (n : Nat) :
    (s.draw n).idleCount = s.idleCount := rfl
@[simp] theorem State.draw_yieldGap (s : State) (n : Nat) :
    (s.draw n).yieldGap = s.yieldGap := rfl
@[simp] theorem State.draw_sending (s : State) (n : Nat) :
    (s.draw n).sending = s.sending := rfl
@[simp] theorem State.draw_slotDriven (s : State) (n : Nat) :
    (s.draw n).slotDriven = s.slotDriven := rfl
@[simp] theorem State.draw_recvQueue (s : State) (n : Nat) :
    (s.draw n).recvQueue = s.recvQueue := rfl
@[simp] theorem State.draw_sendQueue (s : State) (n : Nat) :
    (s.draw n).sendQueue = s.sendQueue := rfl
@[simp] theorem State.draw_tagCounter (s : State) (n : Nat) :
    (s.draw n).tagCounter = s.tagCounter := rfl
@[simp] theorem State.draw_requests (s : State) (n : Nat) :
    (s.draw n).requests = s.requests := rfl
@[simp] theorem State.draw_peers (s : State) (n : Nat) :
    (s.draw n).peers = s.peers := rfl
@[simp] theorem State.draw_presenceTimer (s : State) (n : Nat) :
    (s.draw n).presenceTimer = s.presenceTimer := rfl
@[simp] theorem State.draw_reports (s : State) (n : Nat) :
    (s.draw n).reports = s.reports := rfl
@[simp] theorem State.draw_firstFault (s : State) (n : Nat) :
    (s.draw n).firstFault = s.firstFault := rfl
@[simp] theorem State.draw_counts (s : State) (n : Nat) :
    (s.draw n).counts = s.counts := rfl
@[simp] theorem State.draw_alertArmed (s : State) (n : Nat) :
    (s.draw n).alertArmed = s.alertArmed := rfl
@[simp] theorem State.draw_agenda (s : State) (n : Nat) :
    (s.draw n).agenda = s.agenda := rfl

@[simp] theorem State.enqueue_pending (s : State) (t : Telegram) :
    (s.enqueue t).pending = s.pending := rfl
@[simp] theorem State.enqueue_resetHeld (s : State) (t : Telegram) :
    (s.enqueue t).resetHeld = s.resetHeld := rfl
@[simp] theorem State.enqueue_service (s : State) (t : Telegram) :
    (s.enqueue t).service = s.service := rfl
@[simp] theorem State.enqueue_loadResult (s : State) (t : Telegram) :
    (s.enqueue t).loadResult = s.loadResult := rfl
@[simp] theorem State.enqueue_address (s : State) (t : Telegram) :
    (s.enqueue t).address = s.address := rfl
@[simp] theorem State.enqueue_startHoldTimer (s : State) (t : Telegram) :
    (s.enqueue t).startHoldTimer = s.startHoldTimer := rfl
@[simp] theorem State.enqueue_admission (s : State) (t : Telegram) :
    (s.enqueue t).admission = s.admission := rfl
@[simp] theorem State.enqueue_keyOn (s : State) (t : Telegram) :
    (s.enqueue t).keyOn = s.keyOn := rfl
@[simp] theorem State.enqueue_captureTimer (s : State) (t : Telegram) :
    (s.enqueue t).captureTimer = s.captureTimer := rfl
@[simp] theorem State.enqueue_cfg (s : State) (t : Telegram) :
    (s.enqueue t).cfg = s.cfg := rfl
@[simp] theorem State.enqueue_sections (s : State) (t : Telegram) :
    (s.enqueue t).sections = s.sections := rfl
@[simp] theorem State.enqueue_points (s : State) (t : Telegram) :
    (s.enqueue t).points = s.points := rfl
@[simp] theorem State.enqueue_signals (s : State) (t : Telegram) :
    (s.enqueue t).signals = s.signals := rfl
@[simp] theorem State.enqueue_boundaries (s : State) (t : Telegram) :
    (s.enqueue t).boundaries = s.boundaries := rfl
@[simp] theorem State.enqueue_blocking (s : State) (t : Telegram) :
    (s.enqueue t).blocking = s.blocking := rfl
@[simp] theorem State.enqueue_remote (s : State) (t : Telegram) :
    (s.enqueue t).remote = s.remote := rfl
@[simp] theorem State.enqueue_instances (s : State) (t : Telegram) :
    (s.enqueue t).instances = s.instances := rfl
@[simp] theorem State.enqueue_lastEnded (s : State) (t : Telegram) :
    (s.enqueue t).lastEnded = s.lastEnded := rfl
@[simp] theorem State.enqueue_reservations (s : State) (t : Telegram) :
    (s.enqueue t).reservations = s.reservations := rfl
@[simp] theorem State.enqueue_register (s : State) (t : Telegram) :
    (s.enqueue t).register = s.register := rfl
@[simp] theorem State.enqueue_bitRate (s : State) (t : Telegram) :
    (s.enqueue t).bitRate = s.bitRate := rfl
@[simp] theorem State.enqueue_idleCount (s : State) (t : Telegram) :
    (s.enqueue t).idleCount = s.idleCount := rfl
@[simp] theorem State.enqueue_yieldGap (s : State) (t : Telegram) :
    (s.enqueue t).yieldGap = s.yieldGap := rfl
@[simp] theorem State.enqueue_sending (s : State) (t : Telegram) :
    (s.enqueue t).sending = s.sending := rfl
@[simp] theorem State.enqueue_slotDriven (s : State) (t : Telegram) :
    (s.enqueue t).slotDriven = s.slotDriven := rfl
@[simp] theorem State.enqueue_recvQueue (s : State) (t : Telegram) :
    (s.enqueue t).recvQueue = s.recvQueue := rfl
@[simp] theorem State.enqueue_tagCounter (s : State) (t : Telegram) :
    (s.enqueue t).tagCounter = s.tagCounter := rfl
@[simp] theorem State.enqueue_requests (s : State) (t : Telegram) :
    (s.enqueue t).requests = s.requests := rfl
@[simp] theorem State.enqueue_peers (s : State) (t : Telegram) :
    (s.enqueue t).peers = s.peers := rfl
@[simp] theorem State.enqueue_presenceTimer (s : State) (t : Telegram) :
    (s.enqueue t).presenceTimer = s.presenceTimer := rfl
@[simp] theorem State.enqueue_reports (s : State) (t : Telegram) :
    (s.enqueue t).reports = s.reports := rfl
@[simp] theorem State.enqueue_firstFault (s : State) (t : Telegram) :
    (s.enqueue t).firstFault = s.firstFault := rfl
@[simp] theorem State.enqueue_counts (s : State) (t : Telegram) :
    (s.enqueue t).counts = s.counts := rfl
@[simp] theorem State.enqueue_alertArmed (s : State) (t : Telegram) :
    (s.enqueue t).alertArmed = s.alertArmed := rfl
@[simp] theorem State.enqueue_fresh (s : State) (t : Telegram) :
    (s.enqueue t).fresh = s.fresh := rfl
@[simp] theorem State.enqueue_agenda (s : State) (t : Telegram) :
    (s.enqueue t).agenda = s.agenda := rfl

/-! ## What an event keeps from the command alone -/

@[simp] theorem State.keep_pending (k s : State) : (k.keep s).pending = k.pending := rfl
@[simp] theorem State.keep_resetHeld (k s : State) : (k.keep s).resetHeld = k.resetHeld := rfl
@[simp] theorem State.keep_service (k s : State) : (k.keep s).service = k.service := rfl
@[simp] theorem State.keep_loadResult (k s : State) : (k.keep s).loadResult = k.loadResult := rfl
@[simp] theorem State.keep_address (k s : State) : (k.keep s).address = k.address := rfl
@[simp] theorem State.keep_startHoldTimer (k s : State) : (k.keep s).startHoldTimer = k.startHoldTimer := rfl
@[simp] theorem State.keep_admission (k s : State) : (k.keep s).admission = k.admission := rfl
@[simp] theorem State.keep_keyOn (k s : State) : (k.keep s).keyOn = k.keyOn := rfl
@[simp] theorem State.keep_captureTimer (k s : State) : (k.keep s).captureTimer = k.captureTimer := rfl
@[simp] theorem State.keep_cfg (k s : State) : (k.keep s).cfg = k.cfg := rfl
@[simp] theorem State.keep_sections (k s : State) : (k.keep s).sections = s.sections := rfl
@[simp] theorem State.keep_points (k s : State) : (k.keep s).points = s.points := rfl
@[simp] theorem State.keep_signals (k s : State) : (k.keep s).signals = s.signals := rfl
@[simp] theorem State.keep_boundaries (k s : State) : (k.keep s).boundaries = s.boundaries := rfl
@[simp] theorem State.keep_blocking (k s : State) : (k.keep s).blocking = k.blocking := rfl
@[simp] theorem State.keep_remote (k s : State) : (k.keep s).remote = s.remote := rfl
@[simp] theorem State.keep_instances (k s : State) : (k.keep s).instances = s.instances := rfl
@[simp] theorem State.keep_lastEnded (k s : State) : (k.keep s).lastEnded = s.lastEnded := rfl
@[simp] theorem State.keep_reservations (k s : State) : (k.keep s).reservations = s.reservations := rfl
@[simp] theorem State.keep_register (k s : State) : (k.keep s).register = s.register := rfl
@[simp] theorem State.keep_bitRate (k s : State) : (k.keep s).bitRate = k.bitRate := rfl
@[simp] theorem State.keep_idleCount (k s : State) : (k.keep s).idleCount = k.idleCount := rfl
@[simp] theorem State.keep_yieldGap (k s : State) : (k.keep s).yieldGap = k.yieldGap := rfl
@[simp] theorem State.keep_sending (k s : State) : (k.keep s).sending = k.sending := rfl
@[simp] theorem State.keep_slotDriven (k s : State) : (k.keep s).slotDriven = k.slotDriven := rfl
@[simp] theorem State.keep_recvQueue (k s : State) : (k.keep s).recvQueue = k.recvQueue := rfl
@[simp] theorem State.keep_sendQueue (k s : State) : (k.keep s).sendQueue = s.sendQueue := rfl
@[simp] theorem State.keep_tagCounter (k s : State) : (k.keep s).tagCounter = s.tagCounter := rfl
@[simp] theorem State.keep_requests (k s : State) : (k.keep s).requests = s.requests := rfl
@[simp] theorem State.keep_peers (k s : State) : (k.keep s).peers = s.peers := rfl
@[simp] theorem State.keep_presenceTimer (k s : State) : (k.keep s).presenceTimer = k.presenceTimer := rfl
@[simp] theorem State.keep_reports (k s : State) : (k.keep s).reports = s.reports := rfl
@[simp] theorem State.keep_firstFault (k s : State) : (k.keep s).firstFault = s.firstFault := rfl
@[simp] theorem State.keep_counts (k s : State) : (k.keep s).counts = s.counts := rfl
@[simp] theorem State.keep_alertArmed (k s : State) : (k.keep s).alertArmed = s.alertArmed := rfl
@[simp] theorem State.keep_fresh (k s : State) : (k.keep s).fresh = s.fresh := rfl
@[simp] theorem State.keep_agenda (k s : State) : (k.keep s).agenda = s.agenda := rfl

end Sys2Proof.Machine
end

