-- ==== Sys2Proof/Laws/Reported.lean ====
section
/-! SUPPORT. What recording a fault, placing a subject and placing a telegram without an answer can do, said
once: they change the fault record, the alert, the two queues at their back, and the counter of free values, and
nothing else. The end of an event does no more. -/

namespace Sys2Proof.Machine

/-- From `s` to `t` only faults were recorded, subjects placed and telegrams appended. -/
structure Reported (s t : State) : Prop where
  same : t = { s with
    counts := t.counts, firstFault := t.firstFault, alertArmed := t.alertArmed
    reports := t.reports, sendQueue := t.sendQueue, fresh := t.fresh }
  sent : ∃ more, t.sendQueue = s.sendQueue ++ more
  placed : ∃ more, t.reports = s.reports ++ more
  room : s.sendQueue.length ≤ 32 → t.sendQueue.length ≤ 32
  once : s.reports.Nodup → t.reports.Nodup
  kept : s.firstFault.isSome → t.firstFault = s.firstFault

theorem Reported.refl (s : State) : Reported s s :=
  ⟨rfl, ⟨[], by simp⟩, ⟨[], by simp⟩, id, id, fun _ => rfl⟩

theorem Reported.trans {s t u : State} (h : Reported s t) (k : Reported t u) : Reported s u := by
  obtain ⟨more, hm⟩ := h.sent
  obtain ⟨more', hm'⟩ := k.sent
  obtain ⟨xs, hx⟩ := h.placed
  obtain ⟨xs', hx'⟩ := k.placed
  refine ⟨?_, ⟨more ++ more', by rw [hm', hm, List.append_assoc]⟩, ⟨xs ++ xs', by rw [hx', hx, List.append_assoc]⟩,
    k.room ∘ h.room, k.once ∘ h.once, fun e => ?_⟩
  · have a := k.same
    rw [h.same] at a
    exact a
  · rw [k.kept (by rw [h.kept e]; exact e), h.kept e]

theorem Reported.foldl {α : Type} {f : State → α → State} (h : ∀ s x, Reported s (f s x)) (xs : List α) (s : State) :
    Reported s (xs.foldl f s) := by
  induction xs generalizing s with
  | nil => exact .refl s
  | cons x xs ih => exact (h s x).trans (ih (f s x))

theorem reported_place (s : State) (x : Subject) : Reported s (s.place x) := by
  unfold State.place
  split
  · rename_i h
    simp only [Bool.and_eq_true, Bool.not_eq_true', List.contains_eq_mem, decide_eq_false_iff_not] at h
    refine ⟨rfl, ⟨[], by simp⟩, ⟨[x], rfl⟩, id, fun n => ?_, fun _ => rfl⟩
    simp only [List.nodup_append, n, List.nodup_cons, List.not_mem_nil, not_false_eq_true, List.nodup_nil,
      true_and, and_true]
    intro a ha b hb
    simp only [List.mem_singleton] at hb
    subst hb
    exact fun e => h.2 (e ▸ ha)
  · exact .refl s

theorem reported_enqueue (s : State) (t : Telegram) (cls : Nat) (h : s.room cls = true) :
    Reported s (s.enqueue t) := by
  refine ⟨rfl, ⟨_, rfl⟩, ⟨[], by simp⟩, fun _ => ?_, id, fun _ => rfl⟩
  have : s.sendQueue.length + requiredFree cls ≤ 32 := by simpa [State.room] using h
  have : 1 ≤ requiredFree cls := by unfold requiredFree; split <;> omega
  simp [State.enqueue]; omega

theorem reported_draw (s : State) (n : Nat) : Reported s (s.draw n) :=
  ⟨rfl, ⟨[], by simp⟩, ⟨[], by simp⟩, id, id, fun _ => rfl⟩

theorem reported_countFault (s : State) (k : FaultKind) (x : Subject) (station : Option Nat) :
    Reported s (s.countFault k x station) := by
  refine ⟨rfl, ⟨[], by simp [State.countFault]⟩, ⟨[], by simp [State.countFault]⟩, id, id, fun e => ?_⟩
  obtain ⟨f, hf⟩ := Option.isSome_iff_exists.mp e
  simp [State.countFault, hf]

theorem reported_sendAlert (s : State) : Reported s s.sendAlert := by
  have arm : Reported s { s with alertArmed := false } :=
    ⟨rfl, ⟨[], by simp⟩, ⟨[], by simp⟩, id, id, fun _ => rfl⟩
  have base := arm.trans (reported_place { s with alertArmed := false } .controller)
  unfold State.sendAlert
  dsimp only
  split
  · rename_i h; exact base.trans (reported_enqueue _ _ 2 h)
  · exact base.trans (reported_countFault _ _ _ _)

theorem reported_recordFault (s : State) (k : FaultKind) (x : Subject) (station : Option Nat) :
    Reported s (s.recordFault k x station) := by
  unfold State.recordFault
  dsimp only
  split
  · exact (reported_countFault s k x station).trans (reported_sendAlert _)
  · exact reported_countFault s k x station

theorem reported_recordFaults (s : State) (ks : List FaultKind) (x : Subject) :
    Reported s (s.recordFaults ks x) :=
  Reported.foldl (fun s k => reported_recordFault s k x none) ks s

theorem reported_post (s : State) (dest : Nat) (body : Body) : Reported s (s.post dest body) := by
  unfold State.post
  dsimp only
  split
  · exact .refl s
  · split
    · rename_i h; exact reported_enqueue _ _ _ h
    · exact reported_recordFault _ _ _ _

theorem reported_postAll (s : State) (dests : List Nat) (body : Body) : Reported s (s.postAll dests body) :=
  Reported.foldl (f := fun s d => s.post d body) (fun s d => reported_post s d body) dests s

theorem reported_announce (s : State) : Reported s s.announce := by
  unfold State.announce
  exact reported_post s _ _

theorem reported_answerDesk (s : State) (dest : Nat) (tag : Byte) (code : Nat) (reason : Option Reason)
    (index : Option Nat) : Reported s (s.answerDesk dest tag code reason index) := by
  unfold State.answerDesk
  have h := reported_post s dest (.commandAnswer tag code reason (index.getD s.freeByte) [])
  exact h.trans (reported_draw _ 1)

theorem reported_refresh (s : State) (station : Nat) : Reported s (s.refresh station) := by
  unfold State.refresh
  dsimp only
  refine Reported.trans (Reported.foldl ?_ _ _) (Reported.foldl ?_ _ _)
  all_goals
    intro s x
    split
    · exact reported_post _ _ _
    · exact .refl _

theorem reported_placeChanged (before s : State) : Reported s (State.placeChanged before s) :=
  Reported.foldl (fun t x => by
    show Reported t (if before.shown x = s.shown x then t else t.place x)
    split
    · exact .refl t
    · exact reported_place t x) allSubjects s

/-- The end of an event only reports. -/
theorem reported_conclude (before : State) (w : Work) : Reported w.st (State.conclude before w) := by
  unfold State.conclude
  dsimp only
  refine Reported.trans (Reported.trans (Reported.trans (Reported.foldl ?_ _ _) (Reported.foldl ?_ _ _))
    (Reported.foldl (fun _ _ => reported_answerDesk _ _ _ _ _ _) _ _)) (reported_placeChanged before _) <;> intro t x
  · unfold State.notifySignal
    split
    · exact .refl t
    · exact reported_postAll _ _ _
  · unfold State.notifySection
    dsimp only
    split
    · exact .refl t
    · exact reported_postAll _ _ _

/-- From `s` to `t` only subjects at the front of the report queue went, as REPORTs, to the send queue. -/
structure Drained (s t : State) : Prop where
  same : t = { s with reports := t.reports, sendQueue := t.sendQueue, fresh := t.fresh }
  sent : ∃ more, t.sendQueue = s.sendQueue ++ more
  left : t.reports <:+ s.reports
  room : s.sendQueue.length ≤ 32 → t.sendQueue.length ≤ 32

theorem Drained.refl (s : State) : Drained s s := ⟨rfl, ⟨[], by simp⟩, List.suffix_refl _, id⟩

theorem Drained.trans {s t u : State} (h : Drained s t) (k : Drained t u) : Drained s u := by
  obtain ⟨more, hm⟩ := h.sent
  obtain ⟨more', hm'⟩ := k.sent
  refine ⟨?_, ⟨more ++ more', by rw [hm', hm, List.append_assoc]⟩, k.left.trans h.left, k.room ∘ h.room⟩
  have a := k.same
  rw [h.same] at a
  exact a

/-- Draining does nothing else. -/
theorem drained_drain (n : Nat) (s : State) : Drained s (State.drain n s) := by
  induction n generalizing s with
  | zero => exact .refl s
  | succ n ih =>
    unfold State.drain
    split
    · rename_i due
      refine .trans ?_ (ih _)
      simp only [Bool.and_eq_true] at due
      unfold State.drainOne
      split
      · exact .refl s
      · rename_i x rest e
        have room : ({ s with reports := rest } : State).room 3 = true := due.2
        exact ⟨rfl, ⟨_, rfl⟩, ⟨[x], e.symm⟩, fun k => (reported_enqueue _ _ 3 room).room k⟩
    · exact .refl s

theorem drained_drained (s : State) : Drained s s.drained := drained_drain 45 s

/-- With no subject waiting there is nothing to drain. -/
theorem drained_of_empty (s : State) (h : s.reports = []) : s.drained = s := by
  unfold State.drained State.drain
  rw [h]
  simp

/-- Each subject drained takes one send queue entry, so draining ends where it can go no further (R178). -/
theorem drain_ends (n : Nat) (s : State) (bound : 32 < s.sendQueue.length + 8 + n) :
    (State.drain n s).lineUsed = true → (State.drain n s).reports = []
      ∨ 32 < (State.drain n s).sendQueue.length + 8 := by
  induction n generalizing s with
  | zero => exact fun _ => .inr bound
  | succ n ih =>
    unfold State.drain
    split
    · rename_i due
      refine ih _ ?_
      obtain ⟨x, rest, e⟩ : ∃ x rest, s.reports = x :: rest := by
        cases e : s.reports with
        | nil => simp [e] at due
        | cons x rest => exact ⟨x, rest, rfl⟩
      have grown : s.drainOne.sendQueue.length = s.sendQueue.length + 1 := by
        unfold State.drainOne
        rw [e]
        simp [State.enqueue, State.draw]
      omega
    · rename_i due
      intro used
      by_cases e : s.reports = []
      · exact .inl e
      · refine .inr ?_
        simp [used, e, State.room, requiredFree] at due
        omega

/-- After its draining an event leaves no report that could leave (R178). -/
theorem drained_ends (s : State) :
    s.drained.lineUsed = true → s.drained.reports = [] ∨ 32 < s.drained.sendQueue.length + 8 :=
  drain_ends 45 s (by omega)

/-! ## Where nothing shown has changed -/

theorem place_eq_self (s : State) (x : Subject) (h : s.reports.contains x = true) : s.place x = s := by
  unfold State.place
  rw [h]
  simp

theorem placeChanged_of_shown (before s : State) (h : ∀ x, before.shown x = s.shown x) :
    State.placeChanged before s = s := by
  have fixed : ∀ (xs : List Subject) (t : State),
      xs.foldl (fun t x => if before.shown x = s.shown x then t else t.place x) t = t := by
    intro xs
    induction xs with
    | nil => intro t; rfl
    | cons x xs ih => intro t; simp only [List.foldl_cons, h x, if_true]; exact ih t
  exact fixed allSubjects s

/-- Nothing is due where no signal and no section shows a change, no aspect is commanded anew and no command waits
for its answer. -/
theorem conclude_of_shown (before : State) (w : Work) (shown : ∀ x, before.shown x = w.st.shown x)
    (signals : ∀ g : Fin 8, before.signalNotice g false = w.st.signalNotice g false)
    (sections : ∀ i : Fin 16, before.sections[i].occupied = w.st.sections[i].occupied
      ∧ before.sections[i].supervision = w.st.sections[i].supervision)
    (turned : w.turned = []) (answers : w.answers = []) : State.conclude before w = w.st := by
  have one : allEight.foldl (State.notifySignal before w.turned) w.st = w.st := by
    have fixed : ∀ xs : List (Fin 8), xs.foldl (State.notifySignal before w.turned) w.st = w.st := by
      intro xs
      induction xs with
      | nil => rfl
      | cons g xs ih =>
        have e : State.notifySignal before w.turned w.st g = w.st := by
          unfold State.notifySignal
          simp [signals g, turned]
        rw [List.foldl_cons, e]
        exact ih
    exact fixed _
  have two : allSections.foldl (State.notifySection before) w.st = w.st := by
    have fixed : ∀ xs : List (Fin 16), xs.foldl (State.notifySection before) w.st = w.st := by
      intro xs
      induction xs with
      | nil => rfl
      | cons i xs ih =>
        have e : State.notifySection before w.st i = w.st := by
          unfold State.notifySection
          simp only [sections i, and_self, if_true]
        rw [List.foldl_cons, e]
        exact ih
    exact fixed _
  unfold State.conclude
  dsimp only
  rw [one, two, answers]
  exact placeChanged_of_shown before w.st shown

end Sys2Proof.Machine
end

