-- ==== Sys2Proof/Laws/Lawful.lean ====
section
/-! SUPPORT. What any part of an event may do to the state, said once: `Lawful s t`. Each shared operation has one
lemma here or in the files that follow, of the shape "from a lawful `t` to a lawful `t` after it", so that the
operations of an event chain. -/

namespace Sys2Proof.Machine

/-- From `s` to `t` lies a part of an event: what an event keeps is kept, occupancy and supervision of the
sections stand, the bounds of R73, R177, R78 and R99 and the rules of R64 and R50 hold on. -/
structure Lawful (s t : State) : Prop where
  kept : s.keep t = t
  agenda : t.agenda = s.agenda
  filter : ∀ i : Fin 16, t.sections[i].filter = s.sections[i].filter
    ∧ t.sections[i].clearTimer = s.sections[i].clearTimer
  send : s.sendHolds → t.sendHolds
  reports : s.reportsHold → t.reportsHold
  requests : s.requestsHold → t.requestsHold
  reservations : s.reservationsHold → t.reservationsHold
  dark : s.darkOutsideService → t.darkOutsideService
  lamps : s.lampsHold → t.lampsHold
  points : s.pointsHold → t.pointsHold
  clear : ∀ (p : Fin 8) (x : Position), t.points[p].output = some x → s.points[p].output ≠ some x →
    s.pointOccupied p = false

theorem State.keep_self (s : State) : s.keep s = s := rfl

theorem Lawful.refl (s : State) : Lawful s s :=
  ⟨rfl, rfl, fun _ => ⟨rfl, rfl⟩, id, id, id, id, id, id, id, fun _ _ h k => absurd h k⟩

theorem Lawful.cfg {s t : State} (h : Lawful s t) : t.cfg = s.cfg := by rw [← h.kept]; rfl
theorem Lawful.service {s t : State} (h : Lawful s t) : t.service = s.service := by rw [← h.kept]; rfl

/-- Occupancy of a point's section stands through an event. -/
theorem Lawful.occupied {s t : State} (h : Lawful s t) (p : Fin 8) : t.pointOccupied p = s.pointOccupied p := by
  simp only [State.pointOccupied, State.pointCfg, h.cfg, SectionRec.occupied]
  rw [(h.filter _).1]

theorem Lawful.trans {s t u : State} (h : Lawful s t) (k : Lawful t u) : Lawful s u where
  kept := by rw [← k.kept, ← h.kept]; rfl
  agenda := k.agenda.trans h.agenda
  filter i := ⟨(k.filter i).1.trans (h.filter i).1, (k.filter i).2.trans (h.filter i).2⟩
  send := k.send ∘ h.send
  reports := k.reports ∘ h.reports
  requests := k.requests ∘ h.requests
  reservations := k.reservations ∘ h.reservations
  dark := k.dark ∘ h.dark
  lamps := k.lamps ∘ h.lamps
  points := k.points ∘ h.points
  clear p x hu hs := by
    by_cases ht : t.points[p].output = some x
    · exact h.clear p x ht hs
    · rw [← h.occupied p]; exact k.clear p x hu ht

/-- An update of nothing that the rules of `Lawful` speak of. -/
theorem Lawful.other {s t u : State} (h : Lawful s t)
    (e : u = { t with
      boundaries := u.boundaries, remote := u.remote, instances := u.instances, lastEnded := u.lastEnded
      register := u.register, tagCounter := u.tagCounter, peers := u.peers, fresh := u.fresh }) : Lawful s u := by
  refine h.trans ?_
  rw [e]
  exact ⟨rfl, rfl, fun _ => ⟨rfl, rfl⟩, id, id, id, id, id, id, id, fun _ _ h k => absurd h k⟩

theorem Lawful.reported {s t u : State} (h : Lawful s t) (r : Reported t u) : Lawful s u := by
  refine h.trans ?_
  have e := r.same
  refine ⟨?_, ?_, ?_, r.room, r.once, ?_, ?_, ?_, ?_, ?_, ?_⟩
  · rw [e]; rfl
  · rw [e]
  · intro i; rw [e]; exact ⟨rfl, rfl⟩
  · intro k; rw [e]; exact k
  · intro k; rw [e]; exact k
  · intro k; rw [e]; exact k
  · intro k; rw [e]; exact k
  · intro k; rw [e]; exact k
  · intro p x a b; rw [e] at a; exact absurd a b

theorem Lawful.foldl {α : Type} {s : State} {f : State → α → State}
    (step : ∀ t x, Lawful s t → Lawful s (f t x)) (xs : List α) {t : State} (h : Lawful s t) :
    Lawful s (xs.foldl f t) := by
  induction xs generalizing t with
  | nil => exact h
  | cons x xs ih => exact ih (step t x h)

theorem Lawful.foldlWork {α : Type} {s : State} {f : Work → α → Work}
    (step : ∀ (w : Work) (x : α), Lawful s w.st → Lawful s (f w x).st) (xs : List α) {w : Work}
    (h : Lawful s w.st) : Lawful s (xs.foldl f w).st := by
  induction xs generalizing w with
  | nil => exact h
  | cons x xs ih => exact ih (step w x h)

/-! ## Reporting -/

section
variable {s t : State} {w : Work}

theorem lawful_place (x : Subject) (h : Lawful s t) : Lawful s (t.place x) := h.reported (reported_place t x)

theorem lawful_recordFault (k : FaultKind) (x : Subject) (n : Option Nat) (h : Lawful s t) :
    Lawful s (t.recordFault k x n) := h.reported (reported_recordFault t k x n)

theorem lawful_recordFaults (ks : List FaultKind) (x : Subject) (h : Lawful s t) :
    Lawful s (t.recordFaults ks x) := h.reported (reported_recordFaults t ks x)

theorem lawful_post (d : Nat) (b : Body) (h : Lawful s t) : Lawful s (t.post d b) := h.reported (reported_post t d b)

theorem lawful_announce (h : Lawful s t) : Lawful s t.announce := h.reported (reported_announce t)

theorem lawful_answerDesk (d : Nat) (tag : Byte) (code : Nat) (r : Option Reason) (i : Option Nat)
    (h : Lawful s t) : Lawful s (t.answerDesk d tag code r i) := h.reported (reported_answerDesk t d tag code r i)

theorem lawful_refresh (a : Nat) (h : Lawful s t) : Lawful s (t.refresh a) := h.reported (reported_refresh t a)

theorem lawful_draw (n : Nat) (h : Lawful s t) : Lawful s (t.draw n) := h.reported (reported_draw t n)

theorem lawful_postProof (d : Nat) (b : Body) (h : Lawful s w.st) : Lawful s (w.postProof d b).st := by
  unfold Work.postProof
  split
  · rename_i room; exact h.reported (reported_enqueue _ _ 0 room)
  · exact lawful_recordFault _ _ _ h

/-! ## Records -/

theorem lawful_setSection (i : Fin 16) (r : SectionRec) (same : r.filter = t.sections[i].filter ∧ r.clearTimer = t.sections[i].clearTimer)
    (h : Lawful s t) : Lawful s (t.setSection i r) := by
  refine h.trans ⟨rfl, rfl, fun j => ?_, id, id, id, id, id, id, id, fun _ _ h k => absurd h k⟩
  rcases eq_or_ne i j with rfl | n
  · simpa using same
  · have : ¬ i.val = j.val := fun e => n (Fin.ext e)
    simp [this]

/-- A point record may be written that stays in position, and that energises no output new under an occupied
section. -/
theorem lawful_setPoint (p : Fin 8) (r : PointRec) (position : t.points[p].inPosition → r.inPosition)
    (output : ∀ x, r.output = some x → t.points[p].output ≠ some x → t.pointOccupied p = false)
    (h : Lawful s t) : Lawful s (t.setPoint p r) := by
  refine h.trans ⟨rfl, rfl, fun _ => ⟨rfl, rfl⟩, id, id, id, id, id, id, fun k q => ?_, fun q x a b => ?_⟩
  · rcases eq_or_ne p q with rfl | n
    · simpa using position (k p)
    · have : ¬ p.val = q.val := fun e => n (Fin.ext e)
      have := k q
      simp_all
  · rcases eq_or_ne p q with rfl | n
    · exact output x (by simpa using a) b
    · have : ¬ p.val = q.val := fun e => n (Fin.ext e)
      simp [this] at a
      exact absurd a b

/-- A signal record may be written that is not newly at PROCEED, but in IN_SERVICE, and whose PROCEED lamp is DARK
at STOP. -/
theorem lawful_setSignal (g : Fin 8) (r : SignalRec)
    (dark : r.aspect = .proceed → t.signals[g].aspect = .proceed ∨ t.service = .inService)
    (lamps : (t.signals[g].aspect = .stop → t.signals[g].proceedLamp = .dark) →
      r.aspect = .stop → r.proceedLamp = .dark)
    (h : Lawful s t) : Lawful s (t.setSignal g r) := by
  refine h.trans ⟨rfl, rfl, fun _ => ⟨rfl, rfl⟩, id, id, id, id, fun k out q => ?_, fun k q => ?_, id,
    fun _ _ h k => absurd h k⟩
  rotate_left
  · rcases eq_or_ne g q with rfl | n
    · simpa using lamps (k g)
    · have : ¬ g.val = q.val := fun e => n (Fin.ext e)
      simpa [this] using k q
  have k := k out
  rcases eq_or_ne g q with rfl | n
  · have old := k g
    simp only [Fin.getElem_fin, State.setSignal_get, if_true]
    cases e : r.aspect with
    | stop => rfl
    | proceed =>
      rcases dark e with d | d
      · rw [old] at d; cases d
      · exact absurd d out
  · have : ¬ g.val = q.val := fun e => n (Fin.ext e)
    have := k q
    simp_all

/-! ## Requests and the send queue -/

/-- Requests may go, or change in what is not their tag. -/
theorem lawful_requests (qs : List Request) (tags : (qs.map (·.tag)).Sublist (t.requests.map (·.tag)))
    (h : Lawful s t) : Lawful s { t with requests := qs } := by
  refine h.trans ⟨rfl, rfl, fun _ => ⟨rfl, rfl⟩, id, id, fun k => ⟨?_, tags.nodup k.2⟩, id, id, id, id,
    fun _ _ h k => absurd h k⟩
  have := tags.length_le
  simp only [List.length_map] at this
  exact this.trans k.1

theorem lawful_dropRequests (keep : Request → Bool) (h : Lawful s t) :
    Lawful s { t with requests := t.requests.filter keep } :=
  lawful_requests _ (List.filter_sublist.map _) h

/-- Telegrams may go from the send queue. -/
theorem lawful_sendQueue (es : List SendEntry) (le : es.length ≤ t.sendQueue.length) (h : Lawful s t) :
    Lawful s { t with sendQueue := es } :=
  h.trans ⟨rfl, rfl, fun _ => ⟨rfl, rfl⟩, le.trans, id, id, id, id, id, id, fun _ _ h k => absurd h k⟩

theorem lawful_unsend (which : SendEntry → Bool) (h : Lawful s t) : Lawful s (t.unsend which) :=
  lawful_sendQueue _ (List.length_filterMap_le _ _) h

theorem lawful_dropRequest (tag : Byte) (h : Lawful s t) : Lawful s (t.dropRequest tag) := by
  unfold State.dropRequest
  split
  · exact h
  · dsimp only
    split
    · exact lawful_unsend _ (lawful_dropRequests _ h)
    · exact lawful_dropRequests _ h

/-- The tags that `n + 1` tries reach from `t` on are `t + 1`, `t + 2`, …. -/
theorem nextTag_free (held : List Byte) (n : Nat) (t : Byte)
    (free : ∃ k, k ≤ n ∧ t + 1 + BitVec.ofNat 8 k ∉ held) : nextTag held n t ∉ held := by
  induction n generalizing t with
  | zero =>
    obtain ⟨k, hk, hf⟩ := free
    obtain rfl : k = 0 := by omega
    simpa [nextTag] using hf
  | succ n ih =>
    unfold nextTag
    split
    · rename_i busy
      refine ih (t + 1) ?_
      obtain ⟨k, hk, hf⟩ := free
      cases k with
      | zero => exact absurd (by simpa using busy) (by simpa using hf)
      | succ k =>
        refine ⟨k, by omega, ?_⟩
        have : t + 1 + 1 + BitVec.ofNat 8 k = t + 1 + BitVec.ofNat 8 (k + 1) := by
          simp only [BitVec.ofNat_add]
          rw [BitVec.add_assoc (t + 1), BitVec.add_comm 1]
          rfl
        rw [this]
        exact hf
    · rename_i busy
      simpa using busy

/-- A new tag is held by no pending entry (R77). -/
theorem newTag_free (t : State) (few : t.requests.length < 16) : t.newTag ∉ t.requests.map (·.tag) := by
  refine nextTag_free _ _ _ ?_
  by_contra none
  push Not at none
  have all : ∀ x : Fin 16, t.tagCounter + 1 + BitVec.ofNat 8 x.val ∈ (t.requests.map (·.tag)).toFinset := by
    intro x
    simpa using none x.val (by omega)
  have inj : Function.Injective fun x : Fin 16 => t.tagCounter + 1 + BitVec.ofNat 8 x.val := by
    intro a b e
    have e : t.tagCounter + 1 + BitVec.ofNat 8 a.val = t.tagCounter + 1 + BitVec.ofNat 8 b.val := e
    have := (BitVec.add_right_inj (t.tagCounter + 1)).mp e
    have := congrArg BitVec.toNat this
    simp only [BitVec.toNat_ofNat] at this
    omega
  have card := Finset.card_le_card (s := Finset.univ.image fun x : Fin 16 => t.tagCounter + 1 + BitVec.ofNat 8 x.val)
    (t := (t.requests.map (·.tag)).toFinset) (by
      intro y hy
      obtain ⟨x, -, rfl⟩ := Finset.mem_image.mp hy
      exact all x)
  rw [Finset.card_image_of_injective _ inj] at card
  have := List.toFinset_card_le (t.requests.map (·.tag))
  simp only [Finset.card_univ, Fintype.card_fin, List.length_map] at card this
  omega

/-- A request is placed with its pending entry, or neither. -/
theorem lawful_request (d : Nat) (x : RequestSubject) (b : Byte → Body) (h : Lawful s t) :
    Lawful s (t.request d x b).1 := by
  unfold State.request
  dsimp only
  split
  · exact h.other rfl
  · rename_i placed
    refine h.trans ⟨rfl, rfl, fun _ => ⟨rfl, rfl⟩, fun k => ?_, id, fun k => ⟨?_, ?_⟩, id, id, id, id,
      fun _ _ h k => absurd h k⟩
    · unfold State.placeable at placed
      repeat' split at placed
      all_goals try cases placed
      rename_i room
      have room : t.sendQueue.length + requiredFree (bodyKind (b t.newTag)).cls ≤ 32 := by
        simpa [State.room] using room
      have : 1 ≤ requiredFree (bodyKind (b t.newTag)).cls := by unfold requiredFree; split <;> omega
      simp [State.sendHolds, State.enqueue]; omega
    · unfold State.placeable at placed
      repeat' split at placed
      all_goals try cases placed
      simp; omega
    · unfold State.placeable at placed
      repeat' split at placed
      all_goals try cases placed
      rename_i few _
      have free := newTag_free t (by omega)
      simp only [List.map_append, List.map_cons, List.map_nil]
      rw [List.nodup_append]
      refine ⟨k.2, by simp, ?_⟩
      intro a ha c hc
      simp only [List.mem_singleton] at hc
      subst hc
      exact fun e => free (e ▸ ha)

/-! ## Reservations -/

/-- Reservations may go, or change in what is not their route reference. -/
theorem lawful_reservations (rs : List Reservation) (refs : (rs.map (·.ref)).Sublist (t.reservations.map (·.ref)))
    (h : Lawful s t) : Lawful s { t with reservations := rs } := by
  refine h.trans ⟨rfl, rfl, fun _ => ⟨rfl, rfl⟩, id, id, id, fun k => ⟨?_, refs.nodup k.2⟩, id, id, id,
    fun _ _ h k => absurd h k⟩
  have := refs.length_le
  simp only [List.length_map] at this
  exact this.trans k.1

theorem lawful_changeReservation (ref : RouteRef) (f : Reservation → Reservation) (same : ∀ r, (f r).ref = r.ref)
    (h : Lawful s t) : Lawful s (t.changeReservation ref f) := by
  refine lawful_reservations _ ?_ h
  rw [List.map_map]
  rw [List.map_congr_left (g := (·.ref)) fun r _ => ?_]
  simp only [Function.comp]
  split
  · exact same r
  · rfl

end

end Sys2Proof.Machine
end

