-- ==== Sys2Proof/Laws/Points.lean ====
section
/-! SUPPORT. What an event at a point can do to its record, said once for each operation of the drive machine:
lock, claims and move stay in the commanded position, and no output is energised under an OCCUPIED section
(R40, R50). -/

namespace Sys2Proof.Machine

/-- From `r` to `r'` the point stays in position, and energises an output only with its section CLEAR. -/
structure PointRec.Sound (occupied : Bool) (r r' : PointRec) : Prop where
  position : r.inPosition → r'.inPosition
  output : ∀ x, r'.output = some x → r.output ≠ some x → occupied = false

/-- The point carries no lock and no claim but such as require `x`. -/
def PointRec.openTo (x : Position) (r : PointRec) : Prop :=
  (∀ l, r.lock = some l → l.position = some x) ∧ ∀ c ∈ r.claims, requiredPosition c.state = some x

theorem PointRec.Sound.refl (occupied : Bool) (r : PointRec) : r.Sound occupied r :=
  ⟨id, fun _ h k => absurd h k⟩

theorem PointRec.openTo_of_free {r : PointRec} (x : Position) (h : r.free = true) : r.openTo x := by
  simp only [PointRec.free, Bool.and_eq_true, Option.isNone_iff_eq_none, List.isEmpty_iff] at h
  simp [PointRec.openTo, h.1, h.2]

section
variable {r : PointRec} {c : PointCfg} {occupied : Bool}

@[simp] theorem PointRec.outputOff_lock (c : PointCfg) (r : PointRec) : (r.outputOff c).lock = r.lock := by
  unfold PointRec.outputOff; split <;> rfl
@[simp] theorem PointRec.outputOff_claims (c : PointCfg) (r : PointRec) : (r.outputOff c).claims = r.claims := by
  unfold PointRec.outputOff; split <;> rfl
@[simp] theorem PointRec.outputOff_commanded (c : PointCfg) (r : PointRec) :
    (r.outputOff c).commanded = r.commanded := by
  unfold PointRec.outputOff; split <;> rfl

/-- A record whose drive is in no move and energises nothing is sound where lock and claims stand. -/
theorem PointRec.Sound.still {r' : PointRec} (lock : r'.lock = r.lock) (claims : r'.claims = r.claims)
    (commanded : r'.commanded = r.commanded) (drive : r'.drive.target = none) : r.Sound occupied r' := by
  refine ⟨fun k => ⟨?_, ?_, ?_⟩, fun x h => ?_⟩
  · rw [lock, commanded]; exact k.1
  · rw [claims, commanded]; exact k.2.1
  · intro x h; rw [drive] at h; cases h
  · unfold PointRec.output at h; split at h <;> simp_all [Drive.target]

/-- A record that changes in none of what the rules name, but its return position and its drive in DEAD. -/
theorem PointRec.Sound.same {r' : PointRec} (lock : r'.lock = r.lock) (claims : r'.claims = r.claims)
    (commanded : r'.commanded = r.commanded) (drive : r'.drive.target = r.drive.target)
    (output : ∀ x, r'.output = some x → r.output ≠ some x → occupied = false) : r.Sound occupied r' := by
  refine ⟨fun k => ⟨?_, ?_, ?_⟩, output⟩
  · rw [lock, commanded]; exact k.1
  · rw [claims, commanded]; exact k.2.1
  · rw [drive, commanded]; exact k.2.2

theorem PointRec.sound_complete (occupied : Bool) (c : PointCfg) (r : PointRec) :
    r.Sound occupied (r.complete c).point := by
  refine .still ?_ ?_ ?_ rfl <;> simp [PointRec.complete]

theorem PointRec.sound_fail (occupied : Bool) (c : PointCfg) (r : PointRec) :
    r.Sound occupied (r.fail c).point := by
  refine .still ?_ ?_ ?_ rfl <;> simp [PointRec.fail]

theorem PointRec.sound_swungBack (occupied : Bool) (c : PointCfg) (r : PointRec) :
    r.Sound occupied (r.swungBack c).point := by
  unfold PointRec.swungBack
  dsimp only
  split
  · rename_i free
    simp only [PointRec.free, Bool.and_eq_true, Option.isNone_iff_eq_none, List.isEmpty_iff] at free
    refine ⟨fun _ => ⟨?_, ?_, ?_⟩, fun x h => ?_⟩
    · simp [free.1]
    · simp [free.2]
    · simp [Drive.target]
    · simp [PointRec.output] at h
  · refine .still ?_ ?_ ?_ rfl <;> simp

theorem PointRec.sound_deadTest (occupied : Bool) (c : PointCfg) (r : PointRec) :
    r.Sound occupied (r.deadTest c occupied).point := by
  unfold PointRec.deadTest
  split
  · rename_i target next h
    split
    · exact sound_complete ..
    · split
      · split
        · rename_i go
          refine .same rfl rfl rfl (by rw [h]; rfl) fun _ _ _ => ?_
          simp only [Bool.and_eq_true, Bool.not_eq_true'] at go; exact go.2
        · exact .refl ..
      · split
        · exact sound_swungBack ..
        · split
          · rename_i go
            refine .same rfl rfl rfl (by rw [h]; rfl) fun _ _ _ => ?_
            simp only [Bool.and_eq_true, Bool.not_eq_true'] at go; exact go.2
          · exact .refl ..
      · exact .refl ..
  · exact .refl ..

/-- A new move leaves a point whose lock and claims require its target in position. -/
theorem PointRec.beginMove_result (occupied : Bool) (c : PointCfg) (x : Position) (who : Requester)
    (back : Option Position) (before : MoveResult) (r : PointRec) (free : r.openTo x) :
    (r.beginMove c occupied x who back before).point.inPosition
      ∧ ∀ y, (r.beginMove c occupied x who back before).point.output = some y → occupied = false := by
  have moved : ∀ q : PointRec, q.lock = r.lock → q.claims = r.claims → q.commanded = some x →
      (q.drive.target = none ∨ q.drive.target = some x) → (∀ y, q.output = some y → occupied = false) →
      q.inPosition ∧ ∀ y, q.output = some y → occupied = false := by
    intro q lock claims commanded drive output
    refine ⟨⟨?_, ?_, ?_⟩, output⟩
    · rw [lock, commanded]; exact free.1
    · rw [claims, commanded]; exact free.2
    · rw [commanded]
      intro y h
      rcases drive with e | e
      · rw [e] at h; cases h
      · exact e ▸ h
  unfold PointRec.beginMove
  extract_lets told off r'
  have lock : r'.lock = r.lock := PointRec.outputOff_lock ..
  have claims : r'.claims = r.claims := PointRec.outputOff_claims ..
  split
  · refine moved (r'.complete c).point ?_ ?_ ?_ (.inl rfl) ?_
    · simpa [PointRec.complete] using lock
    · simpa [PointRec.complete] using claims
    · simp [PointRec.complete, r']
    · simp [PointRec.complete, PointRec.output]
  · split
    · exact moved _ lock claims rfl (.inr rfl) (by simp [PointRec.output, r'])
    · rename_i go
      refine moved _ lock claims rfl (.inr rfl) fun _ _ => ?_
      simp only [Bool.or_eq_true, not_or, Bool.not_eq_true] at go; exact go.2

theorem PointRec.sound_join (occupied : Bool) (who : Requester) (r : PointRec) :
    r.Sound occupied (r.join who) := by
  unfold PointRec.join
  split
  · exact .refl ..
  · exact .same rfl rfl rfl rfl fun _ h k => absurd h k

/-- A move request leaves a point whose lock and claims require its target, and whose move in flight is toward
its commanded position, in position. -/
theorem PointRec.moveRequest_result (occupied : Bool) (c : PointCfg) (x : Position) (who : Requester)
    (r : PointRec) (free : r.openTo x) :
    ((∀ y, r.drive.target = some y → r.commanded = some y) → (r.moveRequest c occupied x who).point.inPosition)
      ∧ ∀ y, (r.moveRequest c occupied x who).point.output = some y → r.output ≠ some y → occupied = false := by
  have new : ∀ back before, ((∀ y, r.drive.target = some y → r.commanded = some y) →
      (r.beginMove c occupied x who back before).point.inPosition)
      ∧ ∀ y, (r.beginMove c occupied x who back before).point.output = some y → r.output ≠ some y →
        occupied = false := fun back before =>
    ⟨fun _ => (beginMove_result occupied c x who back before r free).1,
      fun y h _ => (beginMove_result occupied c x who back before r free).2 y h⟩
  have join : r.drive.target = some x →
      ((∀ y, r.drive.target = some y → r.commanded = some y) → (r.join who).inPosition)
      ∧ ∀ y, (r.join who).output = some y → r.output ≠ some y → occupied = false := fun h => by
    have k := sound_join occupied who r
    refine ⟨fun aims => ?_, k.output⟩
    have e := aims x h
    exact k.position ⟨e ▸ free.1, e ▸ free.2, aims⟩
  unfold PointRec.moveRequest
  split
  · rename_i rest
    split
    · refine ⟨fun _ => ⟨free.1, free.2, ?_⟩, fun x h => ?_⟩
      · simp [rest, Drive.target]
      · simp [PointRec.output, rest] at h
    · exact new ..
  · exact new ..
  · rename_i h
    split
    · rename_i e
      exact join (by rw [h, ← e]; rfl)
    · exact new ..
  · rename_i h
    split
    · rename_i e
      exact join (by rw [h, ← e]; rfl)
    · exact new ..
  · exact new ..
  · exact new ..

theorem PointRec.sound_moveRequest (occupied : Bool) (c : PointCfg) (x : Position) (who : Requester) (r : PointRec)
    (free : r.openTo x) : r.Sound occupied (r.moveRequest c occupied x who).point :=
  have h := moveRequest_result occupied c x who r free
  ⟨fun k => h.1 k.2.2, h.2⟩

/-- A move request keeps the claim list. -/
theorem PointRec.moveRequest_claims (occupied : Bool) (c : PointCfg) (x : Position) (who : Requester) (r : PointRec) :
    (r.moveRequest c occupied x who).point.claims = r.claims := by
  have new : ∀ back before, (r.beginMove c occupied x who back before).point.claims = r.claims := by
    intro back before
    unfold PointRec.beginMove
    extract_lets told off r'
    have claims : r'.claims = r.claims := PointRec.outputOff_claims ..
    split
    · show (r'.complete c).point.claims = r.claims
      simpa [PointRec.complete] using claims
    · split <;> exact claims
  have join : (r.join who).claims = r.claims := by unfold PointRec.join; split <;> rfl
  unfold PointRec.moveRequest
  repeat' split
  all_goals first | exact new .. | exact join | rfl

theorem PointRec.sound_joinInPosition (occupied : Bool) (who : Requester) (r : PointRec) :
    r.Sound occupied (r.joinInPosition who) := by
  unfold PointRec.joinInPosition
  split
  · exact .refl ..
  · exact .refl ..
  · exact sound_join ..

theorem PointRec.sound_driveFails (occupied : Bool) (c : PointCfg) (r : PointRec) :
    r.Sound occupied (r.driveFails c).point := by
  unfold PointRec.driveFails
  split
  · rename_i target h
    split
    · exact sound_fail ..
    · refine .same (by simp [PointStep.quiet]) (by simp [PointStep.quiet]) (by simp [PointStep.quiet])
        (by simp [PointStep.quiet, h, Drive.target]) fun x k => ?_
      simp [PointStep.quiet, PointRec.output] at k
  · exact sound_fail ..
  · exact .refl ..

theorem PointRec.sound_throwExpiry (occupied : Bool) (c : PointCfg) (r : PointRec) :
    r.Sound occupied (r.throwExpiry c).point := by
  unfold PointRec.throwExpiry
  split
  · exact sound_driveFails ..
  · exact .refl ..

theorem PointRec.sound_overCurrentExpiry (occupied : Bool) (c : PointCfg) (r : PointRec) :
    r.Sound occupied (r.overCurrentExpiry c).point := by
  unfold PointRec.overCurrentExpiry
  split
  · exact sound_driveFails ..
  · exact .refl ..

theorem PointRec.sound_senseChange (occupied : Bool) (c : PointCfg) (active : Bool) (r : PointRec) :
    r.Sound occupied (r.senseChange c active) := by
  unfold PointRec.senseChange
  dsimp only
  repeat' split
  all_goals exact .same rfl rfl rfl rfl fun _ h k => absurd h k

theorem PointRec.sound_reversalExpiry (occupied : Bool) (c : PointCfg) (r : PointRec) :
    r.Sound occupied (r.reversalExpiry c occupied).point := by
  unfold PointRec.reversalExpiry
  split
  · have h := sound_deadTest occupied c { r with reversalLock := none }
    exact ⟨h.position, h.output⟩
  · exact .refl ..

theorem PointRec.sound_detect (occupied contactN contactR : Bool) (c : PointCfg) (r : PointRec) :
    r.Sound occupied (r.detect c occupied contactN contactR).point := by
  let r' : PointRec := { r with contactN := contactN, contactR := contactR }
  have lift : ∀ t, r'.Sound occupied t → r.Sound occupied t := fun t h => ⟨h.position, h.output⟩
  unfold PointRec.detect
  dsimp only
  split
  · exact lift _ (.refl ..)
  · split
    · rename_i rest
      refine lift _ ?_
      unfold PointRec.detectedAtRest
      have rest : r'.drive = .rest := rest
      split
      · exact .refl ..
      · split
        · exact .still rfl rfl rfl (by show r'.drive.target = none; rw [rest]; rfl)
        · exact .refl ..
    · exact lift _ (sound_deadTest occupied c r')
    · split
      · exact lift _ (sound_complete occupied c r')
      · exact lift _ (.refl ..)
    · split
      · split
        · exact lift _ (sound_swungBack occupied c r')
        · exact lift _ (.refl ..)
      · exact lift _ (.refl ..)
    · exact lift _ (.refl ..)

theorem PointRec.sound_becomeFree (occupied : Bool) (r : PointRec) (free : r.free = true) :
    r.Sound occupied r.becomeFree := by
  simp only [PointRec.free, Bool.and_eq_true, Option.isNone_iff_eq_none, List.isEmpty_iff] at free
  unfold PointRec.becomeFree
  split
  · split
    · rename_i rest
      refine ⟨fun _ => ⟨?_, ?_, ?_⟩, fun x h => ?_⟩
      · simp [free.1]
      · simp [free.2]
      · simp [rest.1, Drive.target]
      · simp [PointRec.output, rest.1] at h
    · refine .same rfl rfl rfl rfl fun x h k => absurd ?_ k
      unfold PointRec.output at h ⊢
      cases e : r.drive <;> simp_all
  · exact .refl ..

theorem PointRec.Sound.trans {r r' r'' : PointRec} (h : r.Sound occupied r') (k : r'.Sound occupied r'') :
    r.Sound occupied r'' :=
  ⟨k.position ∘ h.position, fun x a b => by
    by_cases e : r'.output = some x
    · exact h.output x e b
    · exact k.output x a e⟩

/-- Locks and claims may go. -/
theorem PointRec.sound_fewer {r' : PointRec} (lock : r'.lock = r.lock ∨ r'.lock = none)
    (claims : ∀ c ∈ r'.claims, ∃ d ∈ r.claims, d.state = c.state) (commanded : r'.commanded = r.commanded)
    (drive : r'.drive = r.drive) (back : r'.returnPosition = r.returnPosition) : r.Sound occupied r' := by
  refine ⟨fun k => ⟨?_, ?_, ?_⟩, fun x h m => absurd ?_ m⟩
  · intro l h
    rcases lock with e | e
    · rw [commanded]; exact k.1 l (e ▸ h)
    · rw [e] at h; cases h
  · intro c h
    obtain ⟨d, hd, e⟩ := claims c h
    rw [commanded, ← e]; exact k.2.1 d hd
  · rw [drive, commanded]; exact k.2.2
  · unfold PointRec.output at h ⊢; rw [drive, back] at h; exact h

theorem PointRec.sound_leave (occupied : Bool) (who : Requester) (r : PointRec) :
    r.Sound occupied (r.leave who) :=
  sound_fewer (.inl rfl) (fun c h => ⟨c, h, rfl⟩) rfl rfl rfl

theorem PointRec.sound_dropLock (occupied : Bool) (r : PointRec) : r.Sound occupied r.dropLock := by
  unfold PointRec.dropLock
  split
  · dsimp only
    have base : ∀ who, r.Sound occupied ({ r with lock := none }.leave who) := fun who =>
      sound_fewer (.inr rfl) (fun c h => ⟨c, h, rfl⟩) rfl rfl rfl
    split
    · rename_i free
      exact (base _).trans (sound_becomeFree _ _ free)
    · exact base _
  · exact .refl ..

/-- Freeing one claim adds none. -/
theorem freeClaimIn_state (ref : RouteRef) (cs : List ClaimEntry) :
    ∀ c ∈ freeClaimIn ref cs, ∃ d ∈ cs, d.state = c.state := by
  induction cs with
  | nil => simp [freeClaimIn]
  | cons e es ih =>
    unfold freeClaimIn
    intro c h
    split at h
    · split at h
      · exact ⟨c, List.mem_cons_of_mem _ h, rfl⟩
      · rcases List.mem_cons.mp h with rfl | h
        · exact ⟨e, List.mem_cons_self, rfl⟩
        · exact ⟨c, List.mem_cons_of_mem _ h, rfl⟩
    · rcases List.mem_cons.mp h with rfl | h
      · exact ⟨_, List.mem_cons_self, rfl⟩
      · obtain ⟨d, hd, q⟩ := ih c h
        exact ⟨d, List.mem_cons_of_mem _ hd, q⟩

/-- Entering a claim keeps the states of the others; its own is the one given, or that of the same claimant. -/
theorem addClaimIn_state (ref : RouteRef) (state : Required) (cs : List ClaimEntry) :
    ∀ c ∈ addClaimIn ref state cs, c.state = state ∨ ∃ d ∈ cs, d.state = c.state := by
  induction cs with
  | nil => simp [addClaimIn]
  | cons e es ih =>
    unfold addClaimIn
    intro c h
    split at h
    · rcases List.mem_cons.mp h with rfl | h
      · exact .inr ⟨e, List.mem_cons_self, rfl⟩
      · exact .inr ⟨c, List.mem_cons_of_mem _ h, rfl⟩
    · rcases List.mem_cons.mp h with rfl | h
      · exact .inr ⟨_, List.mem_cons_self, rfl⟩
      · rcases ih c h with q | ⟨d, hd, q⟩
        · exact .inl q
        · exact .inr ⟨d, List.mem_cons_of_mem _ hd, q⟩

theorem PointRec.sound_dropClaim (occupied : Bool) (ref : RouteRef) (r : PointRec) :
    r.Sound occupied (r.dropClaim ref) := by
  unfold PointRec.dropClaim
  split
  · dsimp only
    have base : r.Sound occupied { r with claims := freeClaimIn ref r.claims } :=
      sound_fewer (.inl rfl) (freeClaimIn_state ref r.claims) rfl rfl rfl
    split
    · exact base
    · have left := base.trans (sound_leave occupied (.claimant ref) _)
      split
      · rename_i free
        exact left.trans (sound_becomeFree _ _ free)
      · exact left
  · exact .refl ..

end

/-! ## Taken in the state -/

section
variable {s : State} {w : Work}

/-- An event at a point is lawful where its record is sound. -/
theorem lawful_takePoint (p : Fin 8) (step : PointStep)
    (sound : w.st.points[p].Sound (w.st.pointOccupied p) step.point) (h : Lawful s w.st) :
    Lawful s (w.takePoint p step).st := by
  unfold Work.takePoint
  exact lawful_recordFaults _ _ (lawful_setPoint p _ sound.position sound.output h)

/-- A move request at a point is lawful where lock and claims require its target. -/
theorem lawful_movePoint (p : Fin 8) (x : Position) (who : Requester) (free : w.st.points[p].openTo x)
    (h : Lawful s w.st) : Lawful s (w.movePoint p x who).st := by
  unfold Work.movePoint
  exact lawful_takePoint p _ (PointRec.sound_moveRequest _ _ x who _ free) h

end

end Sys2Proof.Machine
end

