-- ==== Sys2Proof/Laws/Table.lean ====
section
/-! SUPPORT. The lawfulness of what the signals and the Element Table do: aspects and lamps (chapter 4), the
writing of judged locks and claims, and the freeing of locks and claims (chapter 1). -/

namespace Sys2Proof.Machine

section
variable {s t : State} {w : Work}

/-! ## Instances, boundaries and what else no rule of `Lawful` speaks of -/

theorem lawful_setInstance (g : Fin 8) (i : Option RouteInst) (h : Lawful s t) : Lawful s (t.setInstance g i) :=
  h.other rfl

theorem lawful_changeInstance (g : Fin 8) (f : RouteInst → RouteInst) (h : Lawful s t) :
    Lawful s (t.changeInstance g f) := h.other rfl

theorem lawful_setBoundary (b : Fin 4) (r : BoundaryRec) (h : Lawful s t) : Lawful s (t.setBoundary b r) :=
  h.other rfl

theorem lawful_changePeer (a : Nat) (f : PeerEntry → PeerEntry) (h : Lawful s t) : Lawful s (t.changePeer a f) :=
  h.other rfl

theorem lawful_changeRegister (ref : RouteRef) (f : RegisterEntry → RegisterEntry) (h : Lawful s t) :
    Lawful s (t.changeRegister ref f) := h.other rfl

theorem lawful_register (es : List RegisterEntry) (h : Lawful s t) : Lawful s { t with register := es } :=
  h.other rfl

theorem lawful_remote (es : List RemoteEntry) (h : Lawful s t) : Lawful s { t with remote := es } := h.other rfl

theorem lawful_endInstance (g : Fin 8) (h : Lawful s t) : Lawful s (t.endInstance g) := by
  unfold State.endInstance
  split
  · exact lawful_place _ (h.other rfl)
  · exact h

theorem lawful_endIfEmpty (g : Fin 8) (h : Lawful s t) : Lawful s (t.endIfEmpty g) := by
  unfold State.endIfEmpty
  split
  · split
    · exact lawful_endInstance g h
    · exact h
  · exact h

/-! ## Signals -/

@[simp] theorem SignalRec.withLitLamp_aspect (r : SignalRec) (l : LampState) :
    (r.withLitLamp l).aspect = r.aspect := by
  unfold SignalRec.withLitLamp; split <;> simp_all

/-- The lit lamp of a signal at STOP is its STOP lamp. -/
theorem SignalRec.withLitLamp_lamps (r : SignalRec) (l : LampState)
    (h : r.aspect = .stop → r.proceedLamp = .dark) :
    (r.withLitLamp l).aspect = .stop → (r.withLitLamp l).proceedLamp = .dark := by
  unfold SignalRec.withLitLamp; split <;> simp_all

theorem lawful_lampLit (g : Fin 8) (h : Lawful s w.st) : Lawful s (w.lampLit g).st := by
  unfold Work.lampLit
  dsimp only
  split
  · exact lawful_setSignal g _ (fun k => .inl (by simpa using k)) (SignalRec.withLitLamp_lamps _ _) h
  · have lit := lawful_setSignal g { w.st.signals[g].withLitLamp .lit with provingTimer := none, exitProof := true }
      (fun k => .inl (by simpa using k)) (SignalRec.withLitLamp_lamps _ _) h
    split <;> split <;> exact lit

/-- A signal may be commanded STOP, or in IN_SERVICE PROCEED. -/
theorem lawful_setAspect (g : Fin 8) (a : Aspect) (dark : a = .proceed → w.st.service = .inService)
    (h : Lawful s w.st) : Lawful s (w.setAspect g a).st := by
  unfold Work.setAspect
  extract_lets r r' w'
  have base : Lawful s w'.st := lawful_setSignal g r' (fun k => .inr (dark k))
    (fun _ k => by have k : a = .stop := k; simp [r', k]) h
  split
  · exact lawful_lampLit g base
  · exact base

theorem lawful_replaceSignal (g : Fin 8) (h : Lawful s w.st) : Lawful s (w.replaceSignal g).st := by
  unfold Work.replaceSignal
  dsimp only
  split
  · exact lawful_setAspect g .stop (by simp) (lawful_setSignal g _ .inl id h)
  · exact h

theorem lawful_clearSignal (g : Fin 8) (ref : RouteRef) (service : w.st.service = .inService)
    (h : Lawful s w.st) : Lawful s (w.clearSignal g ref).st :=
  lawful_setAspect g .proceed (fun _ => service) (lawful_setSignal g _ .inl id h)

theorem clearRefusal_service {g : Fin 8} {ref : RouteRef} (h : t.clearRefusal g ref = none) :
    t.service = .inService := by
  unfold State.clearRefusal at h
  by_contra other
  simp [other] at h

theorem lawful_stopLampFails (g : Fin 8) (h : Lawful s w.st) : Lawful s (w.stopLampFails g).st := by
  unfold Work.stopLampFails
  dsimp only
  split <;> exact lawful_recordFault _ _ _ (lawful_setSignal g _ .inl id h)

theorem lawful_proceedLampFails (g : Fin 8) (h : Lawful s w.st) : Lawful s (w.proceedLampFails g).st := by
  unfold Work.proceedLampFails
  dsimp only
  split <;> exact lawful_replaceSignal g (lawful_recordFault _ _ _ h)

theorem lawful_lampExpiry (g : Fin 8) (h : Lawful s w.st) : Lawful s (w.lampExpiry g).st := by
  unfold Work.lampExpiry
  dsimp only
  split
  · split
    · exact lawful_stopLampFails g h
    · exact lawful_proceedLampFails g h
  · exact h

theorem lawful_lampInput (g : Fin 8) (lamp : Lamp) (active : Bool) (h : Lawful s w.st) :
    Lawful s (w.lampInput g lamp active).st := by
  have same : (w.st.signals[g].withInput lamp active).aspect = w.st.signals[g].aspect := by
    unfold SignalRec.withInput; split <;> rfl
  have lit : (w.st.signals[g].withInput lamp active).proceedLamp = w.st.signals[g].proceedLamp := by
    unfold SignalRec.withInput; split <;> rfl
  unfold Work.lampInput
  dsimp only
  have noted := lawful_setSignal g (w.st.signals[g].withInput lamp active) (fun k => .inl (same ▸ k))
    (fun k e => lit ▸ k (same ▸ e)) h
  split
  · exact noted
  · split
    · exact lawful_lampLit g noted
    · exact lawful_lampLit g noted
    · exact lawful_lampLit g noted
    · refine lawful_setSignal g _ (fun k => .inl (by simpa using k)) (fun k => ?_) noted
      exact SignalRec.withLitLamp_lamps _ _ (by simpa using k)
    · exact noted

/-! ## Writing judged locks and claims -/

/-- Writing twice in the same place of the points. -/
theorem setPoint_setPoint (t : State) (p : Fin 8) (r r' : PointRec) :
    (t.setPoint p r).setPoint p r' = t.setPoint p r' := by
  simp [State.setPoint]

/-- A point is written for a move toward `x`, and the move asked for: lawful where the new lock and claims
require `x` and the point was not commanded there. -/
theorem lawful_setAndMove (p : Fin 8) (x : Position) (who : Requester) (r : PointRec) (free : r.openTo x)
    (drive : r.drive = w.st.points[p].drive) (commanded : r.commanded = w.st.points[p].commanded)
    (back : r.returnPosition = w.st.points[p].returnPosition) (h : Lawful s w.st) :
    Lawful s ((w.on (·.setPoint p r)).movePoint p x who).st := by
  have result := PointRec.moveRequest_result (w.st.pointOccupied p) (w.st.pointCfg p) x who r free
  have output : r.output = w.st.points[p].output := by unfold PointRec.output; rw [drive, back]
  have written : (w.st.setPoint p r).points[p] = r := by simp
  have move : ((w.on (·.setPoint p r)).movePoint p x who).st
      = ((w.st.setPoint p r).setPoint p (r.moveRequest (w.st.pointCfg p) (w.st.pointOccupied p) x who).point).recordFaults
        (r.moveRequest (w.st.pointCfg p) (w.st.pointOccupied p) x who).faults (.elem (.points p)) := by
    unfold Work.movePoint Work.takePoint
    simp only [Work.on_st, written]
    rfl
  rw [move, setPoint_setPoint]
  refine lawful_recordFaults _ _ (lawful_setPoint p _ (fun k => result.1 ?_) ?_ h)
  · rw [drive, commanded]; exact k.2.2
  · rw [← output]; exact result.2

/-- Every claim on the point that a requirement names is in the state that it requires. -/
def State.claimsAgree (t : State) (q : LockReq) : Prop :=
  ∀ p : Fin 8, elemOfNumber q.elem = some (.points p) → ∀ c ∈ t.points[p].claims, c.state = q.state

/-- A lock is written lawfully where the claims on its element agree with it. -/
theorem lawful_writeLock (ref : RouteRef) (q : LockReq) (agree : w.st.claimsAgree q) (h : Lawful s w.st) :
    Lawful s (w.writeLock ref q).st := by
  unfold Work.writeLock
  split
  · exact lawful_setSection _ _ ⟨rfl, rfl⟩ h
  · rename_i p named
    extract_lets r renamed r'
    split
    · rename_i there
      have sound : r.Sound (w.st.pointOccupied p) r' := by
        refine ⟨fun k => ⟨?_, k.2.1, k.2.2⟩, fun _ a b => absurd a b⟩
        intro l e
        obtain rfl := Option.some.inj e
        exact there.symm
      have all := sound.trans (PointRec.sound_joinInPosition _ (.holder ref) r')
      exact lawful_setPoint p _ all.position all.output h
    · split
      · rename_i x required
        refine lawful_setAndMove p x (.holder ref) r' ⟨?_, ?_⟩ rfl rfl rfl h
        · intro l e
          obtain rfl := Option.some.inj e
          exact required
        · intro c hc
          rw [agree p named c hc]; exact required
      · exact h
  · split
    · exact h
    · exact lawful_setSignal _ _ .inl id h
  · exact h

/-- Writing a lock leaves every claim list. -/
theorem writeLock_claims (w : Work) (ref : RouteRef) (q : LockReq) (p : Fin 8) :
    (w.writeLock ref q).st.points[p].claims = w.st.points[p].claims := by
  have put : ∀ (t : State) (j : Fin 8) (r : PointRec), r.claims = t.points[j].claims →
      (t.setPoint j r).points[p].claims = t.points[p].claims := by
    intro t j r e
    rcases eq_or_ne j p with rfl | n
    · simpa using e
    · have : ¬ j.val = p.val := fun e => n (Fin.ext e)
      simp [this]
  have faults : ∀ (t : State) ks x, (t.recordFaults ks x).points = t.points := fun t ks x => by
    rw [(reported_recordFaults t ks x).same]
  unfold Work.writeLock
  split
  · rfl
  · rename_i j named
    extract_lets r renamed r'
    split
    · refine put _ _ _ ?_
      unfold PointRec.joinInPosition PointRec.join
      repeat' split
      all_goals rfl
    · split
      · rename_i x required
        unfold Work.movePoint Work.takePoint
        simp only [Work.on_st, faults]
        rw [put, put]
        · rfl
        · rw [PointRec.moveRequest_claims]
      · rfl
  · split <;> rfl
  · rfl

/-- The locks of a set are written lawfully where the claims on its elements agree. -/
theorem lawful_writeLocks (ref : RouteRef) (qs : List LockReq) (agree : ∀ q ∈ qs, w.st.claimsAgree q)
    (h : Lawful s w.st) : Lawful s (w.writeLocks ref qs).st := by
  unfold Work.writeLocks
  induction qs generalizing w with
  | nil => exact h
  | cons q qs ih =>
    refine ih (fun q' m p named c hc => ?_) (lawful_writeLock ref q (agree q List.mem_cons_self) h)
    rw [writeLock_claims] at hc
    exact agree q' (List.mem_cons_of_mem _ m) p named c hc

/-- The judgement admits a set only where the claims on its elements agree (check 5 of R14). -/
theorem judge_agrees (entry : Option (Fin 8)) (seen : List Elem) (qs : List LockReq)
    (admitted : t.judge entry seen qs = none) : ∀ q ∈ qs, t.claimsAgree q := by
  induction qs generalizing seen with
  | nil => simp
  | cons q qs ih =>
    unfold State.judge at admitted
    split at admitted
    · cases admitted
    · rename_i e named
      split at admitted
      · cases admitted
      · rename_i one
        intro q' m
        rcases List.mem_cons.mp m with rfl | m
        · intro p named' c hc
          obtain rfl : e = .points p := Option.some.inj (named.symm.trans named')
          unfold State.judgeOne at one
          split at one
          · cases one
          · split at one
            · cases one
            · rename_i shape
              simp only at one
              split at one
              · cases one
              · split at one
                · cases one
                · split at one
                  · cases one
                  · rename_i clash
                    by_contra differs
                    apply clash
                    have role : q'.role ≠ .entry := by
                      intro e
                      simp [fits, e] at shape
                    simp only [State.claimsOf, Bool.and_eq_true, bne_iff_ne, ne_eq, List.any_eq_true]
                    exact ⟨role, c, hc, differs⟩
        · exact ih _ admitted q' m

/-- A claim granted by the verdict is entered lawfully. -/
theorem lawful_grantClaim (ref : RouteRef) (e : Elem) (state : Required)
    (granted : w.st.claimVerdict ref e state = none) (h : Lawful s w.st) :
    Lawful s (w.grantClaim ref e state).st := by
  unfold Work.grantClaim
  split
  · rename_i p
    extract_lets r r'
    split
    · rename_i there
      have sound : r.Sound (w.st.pointOccupied p) r' := by
        refine ⟨fun k => ⟨k.1, ?_, k.2.2⟩, fun _ a b => absurd a b⟩
        intro c hc
        rcases addClaimIn_state ref state r.claims c hc with e | ⟨d, hd, e⟩
        · rw [e]; exact there.symm
        · rw [← e]; exact k.2.1 d hd
      have all := sound.trans (PointRec.sound_joinInPosition _ (.claimant ref) r')
      exact lawful_setPoint p _ all.position all.output h
    · rename_i away
      split
      · rename_i x required
        have none : r.lock = none ∧ r.claims = [] := by
          unfold State.claimVerdict at granted
          simp only at granted
          rw [if_neg away] at granted
          split at granted
          · cases granted
          · rename_i lock
            split at granted
            · cases granted
            · rename_i claims
              exact ⟨by simpa [r] using lock, by simpa [r] using claims⟩
        refine lawful_setAndMove p x (.claimant ref) r' ⟨?_, ?_⟩ rfl rfl rfl h
        · intro l e
          have e : r.lock = some l := e
          rw [none.1] at e; cases e
        · intro c hc
          have hc : c ∈ addClaimIn ref state r.claims := hc
          rw [none.2] at hc
          simp only [addClaimIn, List.mem_singleton] at hc
          rw [hc]; exact required
      · exact h
  · rename_i g
    have base := lawful_setSignal g
      { w.st.signals[g] with claims := addClaimIn ref state w.st.signals[g].claims } .inl id h
    dsimp only
    split
    · split <;> exact lawful_replaceSignal g base
    · exact base
  · exact h

/-! ## Freeing -/

theorem lawful_freeClaim (ref : RouteRef) (e : Elem) (h : Lawful s w.st) : Lawful s (w.freeClaim ref e).st := by
  unfold Work.freeClaim
  split
  · rename_i p
    have sound := PointRec.sound_dropClaim (w.st.pointOccupied p) ref w.st.points[p]
    exact lawful_setPoint p _ sound.position sound.output h
  · dsimp only
    split <;> exact lawful_setSignal _ _ .inl id h
  · exact h

theorem lawful_lockGone (ref : RouteRef) (e : Elem) (h : Lawful s t) : Lawful s (t.lockGone ref e) := by
  unfold State.lockGone
  split
  · split
    · exact lawful_changeInstance _ _ h
    · exact h
  · refine lawful_reservations _ ?_ h
    refine (List.filter_sublist.map _).trans ?_
    rw [List.map_map, List.map_congr_left (g := (·.ref)) fun r _ => ?_]
    simp only [Function.comp]
    split <;> rfl

theorem lawful_freeLock (ref : RouteRef) (e : Elem) (h : Lawful s w.st) : Lawful s (w.freeLock ref e).st := by
  unfold Work.freeLock
  split
  · exact h
  · rename_i l held
    split
    · exact h
    · split
      · dsimp only
        split
        · exact lawful_setSection _ _ ⟨rfl, rfl⟩ h
        · exact lawful_place _ (lawful_lockGone _ _ <| lawful_setSection _ _ ⟨rfl, rfl⟩ h)
      · rename_i p
        dsimp only
        split
        · have sound : w.st.points[p].Sound (w.st.pointOccupied p)
              { w.st.points[p] with lock := some { l with releasePending := true } } := by
            refine ⟨fun k => ⟨?_, k.2.1, k.2.2⟩, fun _ a b => absurd a b⟩
            intro m e
            obtain rfl := Option.some.inj e
            exact k.1 l held
          exact lawful_setPoint p _ sound.position sound.output h
        · have sound := PointRec.sound_dropLock (w.st.pointOccupied p) w.st.points[p]
          exact lawful_place _ (lawful_lockGone _ _ <| lawful_setPoint p _ sound.position sound.output h)
      · dsimp only
        refine lawful_place _ (lawful_lockGone _ _ (lawful_setSignal _ _ .inl id ?_))
        split
        · exact lawful_replaceSignal _ h
        · exact h
      · exact h

theorem lawful_removePending (i : Fin 16) (h : Lawful s w.st) : Lawful s (w.removePending i).st := by
  unfold Work.removePending
  extract_lets elems due
  refine Lawful.foldl (fun t ref h => ?_) _ (Lawful.foldlWork (fun w x h => lawful_freeLock _ _ h) _ h)
  split
  · split
    · exact lawful_endIfEmpty _ h
    · exact h
  · exact h

end

end Sys2Proof.Machine
end

