-- ==== Sys2Proof/Laws/Flank.lean ====
section
/-! SUPPORT. The lawfulness of what the Flank Manager does (chapter 8). -/

namespace Sys2Proof.Machine

section
variable {s t : State} {w : Work}

/-! ## Flank portions of a route -/

theorem lawful_changeFlank (g : Fin 8) (f : Nat) (c : FlankPortion → FlankPortion) (h : Lawful s t) :
    Lawful s (t.changeFlank g f c) := lawful_changeInstance _ _ h

theorem lawful_refuseFlank (g : Fin 8) (f : Nat) (reason : Reason) (h : Lawful s t) :
    Lawful s (t.refuseFlank g f reason) := by
  unfold State.refuseFlank
  split
  · exact lawful_changeFlank _ _ _ h
  · exact h

theorem lawful_claimLocal (g : Fin 8) (x : Nat × FlankEntry × FlankPortion) (h : Lawful s w.st) :
    Lawful s (w.claimLocal g x).st := by
  unfold Work.claimLocal
  split
  · split
    · exact lawful_refuseFlank _ _ _ h
    · rename_i granted
      exact lawful_changeFlank _ _ _ (lawful_grantClaim _ _ _ granted h)
  · exact h

theorem lawful_placeClaim (g : Fin 8) (owner : Nat) (due : List (Nat × FlankEntry × FlankPortion))
    (h : Lawful s w.st) : Lawful s (w.placeClaim g owner due).st := by
  unfold Work.placeClaim
  split
  · exact h
  · extract_lets reqs placed w'
    have base : Lawful s w'.st := lawful_request _ _ _ h
    split
    · exact Lawful.foldl (fun t x h => lawful_changeFlank _ _ _ h) _ base
    · exact Lawful.foldl (fun t x h => lawful_refuseFlank _ _ _ h) _ base

theorem lawful_flankRounds (g : Fin 8) (n : Nat) (h : Lawful s w.st) : Lawful s (Work.flankRounds g n w).st := by
  induction n generalizing w with
  | zero => exact h
  | succ n ih =>
    unfold Work.flankRounds
    split
    · exact h
    · split
      · exact h
      · dsimp only
        split
        · exact ih (Lawful.foldlWork (fun w x h => lawful_claimLocal g x h) _ h)
        · split
          · exact h
          · split
            · exact h
            · exact ih (Lawful.foldlWork (fun w o h => lawful_placeClaim g o _ h) _ h)

theorem lawful_claimFlank (g : Fin 8) (h : Lawful s w.st) : Lawful s (w.claimFlank g).st := lawful_flankRounds g 6 h

theorem lawful_takeVerdict (g : Fin 8) (source : Nat) (tag : Byte) (acc : Work × List Nat)
    (v : Nat × Option Reason) (h : Lawful s acc.1.st) : Lawful s (Work.takeVerdict g source tag acc v).1.st := by
  unfold Work.takeVerdict
  dsimp only
  split
  · exact lawful_changeFlank _ _ _ h
  · exact lawful_refuseFlank _ _ _ h
  · exact h
  · exact h

theorem lawful_takeVerdicts (g : Fin 8) (source : Nat) (tag : Byte) (vs : List (Nat × Option Reason))
    (acc : Work × List Nat) (h : Lawful s acc.1.st) :
    Lawful s (vs.foldl (Work.takeVerdict g source tag) acc).1.st := by
  induction vs generalizing acc with
  | nil => exact h
  | cons v vs ih => exact ih _ (lawful_takeVerdict g source tag acc v h)

theorem lawful_flankAnswered (g : Fin 8) (route source : Nat) (tag : Byte) (elems : List Nat)
    (reason : Option Reason) (verdicts : List (Nat × Option Reason)) (h : Lawful s w.st) :
    Lawful s (w.flankAnswered g route source tag elems reason verdicts).st := by
  unfold Work.flankAnswered
  extract_lets vs taken w' w''
  have base : Lawful s w'.st := lawful_takeVerdicts g source tag vs (w, []) h
  have posted : Lawful s w''.st := by
    unfold w''
    split
    · exact base
    · exact base
  exact lawful_claimFlank g posted

theorem lawful_flankFailed (g : Fin 8) (route dest : Nat) (tag : Byte) (elems : List Nat) (h : Lawful s w.st) :
    Lawful s (w.flankFailed g route dest tag elems).st :=
  lawful_claimFlank g (w := _) (Lawful.foldl (fun _ _ h => lawful_refuseFlank _ _ _ h) _ h)

/-! ## Release -/

theorem lawful_releaseFlank (g : Fin 8) (cause : ReleaseCause) (chosen : Nat × FlankEntry × FlankPortion → Bool)
    (h : Lawful s w.st) : Lawful s (w.releaseFlank g cause chosen).st := by
  unfold Work.releaseFlank
  split
  · exact h
  · extract_lets parts due ref w₁ held waiting ended withdrawn w₂ w₃
    have one : Lawful s w₁.st := by
      refine Lawful.foldlWork (fun w x h => ?_) _ h
      split
      · split
        · exact lawful_freeClaim _ _ h
        · exact h
      · exact h
    have two : Lawful s w₂.st := Lawful.foldl (fun _ _ h => lawful_changeFlank _ _ _ h) _ one
    exact Lawful.foldl (fun _ _ h => lawful_dropRequest _ h) _ two

/-- The FLANK RELEASE telegrams kept are lawful. -/
theorem lawful_returnFlank (h : Lawful s w.st) : Lawful s w.returnFlank.st :=
  Lawful.foldl (fun _ _ h => lawful_post _ _ h) _ h

theorem lawful_releaseProtecting (g : Fin 8) (cause : ReleaseCause) (freed : List Nat) (h : Lawful s w.st) :
    Lawful s (w.releaseProtecting g cause freed).st := lawful_releaseFlank g cause _ h

theorem lawful_stopFlank (g : Fin 8) (h : Lawful s w.st) : Lawful s (w.stopFlank g).st :=
  lawful_releaseFlank g .stopped _ h

theorem lawful_markFlank (g : Fin 8) (parts : List (Nat × FlankEntry × FlankPortion)) (lapse : Option LapseReason)
    (h : Lawful s t) : Lawful s (t.markFlank g parts lapse) :=
  Lawful.foldl (fun _ _ h => lawful_changeFlank _ _ _ h) _ h

/-! ## The Claim Register -/

theorem lawful_registerClaim (ref : RouteRef) (e : Elem) (state : Required) (tag : Byte) (h : Lawful s t) :
    Lawful s (t.registerClaim ref e state tag) := by
  unfold State.registerClaim
  dsimp only
  split
  · exact lawful_changeRegister _ _ h
  · exact lawful_register _ h

theorem lawful_unregister (ref : RouteRef) (e : Elem) (h : Lawful s w.st) : Lawful s (w.unregister ref e).st :=
  (lawful_freeClaim ref e h).other rfl

theorem lawful_judgeClaim (ref : RouteRef) (tag : Byte) (acc : Work × List (Nat × Option Reason)) (q : WireReq)
    (h : Lawful s acc.1.st) : Lawful s (Work.judgeClaim ref tag acc q).1.st := by
  unfold Work.judgeClaim
  dsimp only
  split
  · exact h
  · split
    · split
      · exact lawful_changeRegister _ _ h
      · exact h
    · split
      · exact h
      · split
        · exact h
        · rename_i granted
          exact lawful_registerClaim _ _ _ _ (lawful_grantClaim _ _ _ granted h)

theorem lawful_takeFlankClaim (source : Nat) (tag : Byte) (ref : RouteRef) (reqs : List WireReq)
    (h : Lawful s w.st) : Lawful s (w.takeFlankClaim source tag ref reqs).st := by
  unfold Work.takeFlankClaim
  split
  · exact lawful_postProof _ _ h
  · have all : ∀ (qs : List WireReq) (acc : Work × List (Nat × Option Reason)), Lawful s acc.1.st →
        Lawful s (qs.foldl (Work.judgeClaim ref tag) acc).1.st := by
      intro qs
      induction qs with
      | nil => exact fun _ h => h
      | cons q qs ih => exact fun acc h => ih _ (lawful_judgeClaim ref tag acc q h)
    exact lawful_draw _ (lawful_postProof _ _ (all reqs (w, []) h))

theorem lawful_takeFlankRelease (source : Nat) (tag : Byte) (ref : RouteRef) (elems : List Nat)
    (h : Lawful s w.st) : Lawful s (w.takeFlankRelease source tag ref elems).st := by
  unfold Work.takeFlankRelease
  split
  · exact h
  · refine Lawful.foldlWork (fun w n h => ?_) _ h
    split
    · split
      · exact lawful_unregister _ _ h
      · exact h
    · exact h

theorem lawful_assessClaim (ref : RouteRef) (e : Elem) (h : Lawful s w.st) : Lawful s (w.assessClaim ref e).st := by
  unfold Work.assessClaim
  split
  · split
    · exact lawful_postProof _ _ (lawful_changeRegister _ _ h)
    · exact h
  · exact h

theorem lawful_lapseClaim (ref : RouteRef) (e : Elem) (reason : LapseReason) (h : Lawful s w.st) :
    Lawful s (w.lapseClaim ref e reason).st := by
  unfold Work.lapseClaim
  split
  · split
    · exact lawful_postProof _ _ (lawful_changeRegister _ _ h)
    · exact h
  · exact h

theorem lawful_claimsExpire (ref : RouteRef) (h : Lawful s w.st) : Lawful s (w.claimsExpire ref).st := by
  unfold Work.claimsExpire
  split
  · split
    · exact Lawful.foldlWork (fun _ _ h => lawful_unregister _ _ h) _ h
    · exact h
  · exact h

end

end Sys2Proof.Machine
end

