-- ==== Sys2Proof/Laws/Handover.lean ====
section
/-! SUPPORT. The lawfulness of what the Handover Unit does (chapter 9). -/

namespace Sys2Proof.Machine

section
variable {s t : State} {w : Work}

theorem lawful_changeBoundary (b : Fin 4) (f : BoundaryRec → BoundaryRec) (h : Lawful s t) :
    Lawful s (t.changeBoundary b f) := lawful_setBoundary _ _ h

/-! ## Direction of traffic -/

theorem lawful_askDirection (b : Fin 4) (route : Nat) (h : Lawful s w.st) :
    Lawful s (w.askDirection b route).st := by
  unfold Work.askDirection
  extract_lets ask
  have asked : ∀ previous, Lawful s (ask previous).st := by
    intro previous
    unfold ask
    split
    · exact h
    · extract_lets placed
      have base : Lawful s placed.1 := lawful_request _ _ _ h
      split
      · exact base.other rfl
      · exact lawful_place _ base
  split
  · exact h.other rfl
  · exact h.other rfl
  · exact asked _
  · exact asked _

theorem lawful_settleDirection (b : Fin 4) (direction : Direction) (told : DirectionTold) (h : Lawful s w.st) :
    Lawful s (w.settleDirection b direction told).st := h.other rfl

theorem lawful_returnDirection (b : Fin 4) (told : DirectionTold) (h : Lawful s w.st) :
    Lawful s (w.returnDirection b told).st := by
  unfold Work.returnDirection
  split
  · exact lawful_settleDirection _ _ _ h
  · exact h

theorem lawful_directionAnswered (b : Fin 4) (reason : Option Reason) (h : Lawful s w.st) :
    Lawful s (w.directionAnswered b reason).st := by
  unfold Work.directionAnswered
  split
  · exact lawful_settleDirection _ _ _ h
  · exact lawful_returnDirection _ _ h
  · exact lawful_returnDirection _ _ h

theorem lawful_takeDirectionRequest (source : Nat) (tag : Byte) (index : Nat) (h : Lawful s w.st) :
    Lawful s (w.takeDirectionRequest source tag index).st := by
  unfold Work.takeDirectionRequest
  split
  · refine lawful_postProof _ _ ?_
    split
    · refine lawful_settleDirection _ _ _ ?_
      split
      · exact lawful_dropRequest _ h
      · exact h
    · exact h.other rfl
  · exact lawful_postProof _ _ h

theorem lawful_dropDirection (b : Fin 4) (route : Nat) (h : Lawful s t) : Lawful s (t.dropDirection b route) :=
  h.other rfl

theorem lawful_dropWaiting (b : Fin 4) (route : Nat) (h : Lawful s t) : Lawful s (t.dropWaiting b route) :=
  h.other rfl

/-! ## The train describer -/

theorem lawful_setTrain (i : Fin 16) (x : Option TrainRecord) (h : Lawful s t) : Lawful s (t.setTrain i x) :=
  lawful_setSection _ _ ⟨rfl, rfl⟩ h

theorem lawful_attach (i : Fin 16) (measured : Option Nat) (x : TrainRecord) (h : Lawful s t) :
    Lawful s (t.attach i measured x) := lawful_setTrain _ _ h

theorem lawful_describerStep (i : Fin 16) (measured : Option Nat) (h : Lawful s t) :
    Lawful s (t.describerStep i measured) := by
  unfold State.describerStep
  split
  · split
    · exact lawful_attach _ _ _ h
    · exact h
  · exact h

/-! ## Trains leaving and arriving -/

theorem lawful_dropOffer (b : Fin 4) (tag : Byte) (h : Lawful s t) : Lawful s (t.dropOffer b tag) := by
  unfold State.dropOffer
  split
  · exact h
  · exact lawful_sendQueue _ (by simp) (lawful_dropRequests _ h)

theorem lawful_offerTrain (b : Fin 4) (c : BoundaryCfg) (x : TrainRecord) (h : Lawful s t) :
    Lawful s (t.offerTrain b c x) := by
  unfold State.offerTrain
  extract_lets body placed state
  refine lawful_changeBoundary _ _ ?_
  unfold placed
  split
  · exact lawful_request _ _ _ h
  · exact h.other rfl

theorem lawful_outbound (b : Fin 4) (c : BoundaryCfg) (i : Fin 16) (h : Lawful s t) :
    Lawful s (t.outbound b c i) := by
  unfold State.outbound
  split
  · exact h
  · split
    · exact h.other rfl
    · exact lawful_offerTrain _ _ _ h

theorem lawful_offerAnswered (b : Fin 4) (tag : Byte) (state : OutboundState) (h : Lawful s t) :
    Lawful s (t.offerAnswered b tag state) := h.other rfl

theorem lawful_dropOutbound (b : Fin 4) (which : OutboundRec → Bool) (h : Lawful s t) :
    Lawful s (t.dropOutbound b which) := by
  unfold State.dropOutbound
  split
  · refine Lawful.other ?_ rfl
    split
    · exact lawful_dropOffer _ _ h
    · exact h
  · exact h

theorem lawful_takeConfirm (source index train : Nat) (tag : Byte) (h : Lawful s t) :
    Lawful s (t.takeConfirm source index train tag) := by
  unfold State.takeConfirm
  split
  · exact h
  · dsimp only
    split
    · exact h
    · split
      · exact lawful_dropOutbound _ _ (h.other rfl)
      · split
        · exact h.other rfl
        · exact lawful_recordFault _ _ _ (lawful_dropOutbound _ _ (h.other rfl))

theorem lawful_startConfirms (b : Fin 4) (h : Lawful s t) : Lawful s (t.startConfirms b) :=
  h.other rfl

theorem lawful_confirmExpires (b : Fin 4) (tag : Byte) (h : Lawful s t) : Lawful s (t.confirmExpires b tag) := by
  unfold State.confirmExpires
  dsimp only
  split
  · exact lawful_recordFault _ _ _ (lawful_dropOutbound _ _ h)
  · exact h

theorem lawful_takeOffer (source : Nat) (tag : Byte) (index train speed receiving : Nat) (h : Lawful s t) :
    Lawful s (t.takeOffer source tag index train speed receiving) := by
  unfold State.takeOffer
  refine lawful_post _ _ ?_
  split
  · exact h.other rfl
  · exact h

theorem lawful_arrival (b : Fin 4) (c : BoundaryCfg) (i : Fin 16) (measured : Option Nat) (h : Lawful s t) :
    Lawful s (t.arrival b c i measured) := by
  unfold State.arrival
  split
  · exact lawful_post _ _ (lawful_attach _ _ _ (h.other rfl))
  · exact lawful_recordFault _ _ _ (lawful_attach _ _ _ h)

theorem lawful_edgeOccupied (i : Fin 16) (measured : Option Nat) (h : Lawful s t) :
    Lawful s (t.edgeOccupied i measured) := by
  refine Lawful.foldl (fun t b h => ?_) _ h
  split
  · exact h
  · split
    · exact h
    · split
      · exact lawful_outbound _ _ _ h
      · exact lawful_arrival _ _ _ _ h
      · exact h

theorem lawful_edgeCleared (i : Fin 16) (h : Lawful s t) : Lawful s (t.edgeCleared i) := by
  refine Lawful.foldl (fun t b h => ?_) _ h
  split
  · split
    · exact lawful_startConfirms _ h
    · exact h
  · exact h

/-! ## Clearing and breaks -/

theorem lawful_clearHandover (b : Fin 4) (h : Lawful s t) : Lawful s (t.clearHandover b) :=
  (Lawful.foldl (fun _ _ h => lawful_dropOffer _ _ h) _ h).other rfl

theorem lawful_boundaryBroken (b : Fin 4) (station : Nat) (h : Lawful s w.st) :
    Lawful s (w.boundaryBroken b station).st := by
  unfold Work.boundaryBroken
  split
  · exact h
  · split
    · exact h
    · exact lawful_returnDirection _ _ (h.other rfl)

end

end Sys2Proof.Machine
end

