-- ==== Sys2Proof/Laws/Release.lean ====
section
/-! SUPPORT. The lawfulness of what the Route Engine does at the route's controller (chapters 6 and 7). -/

namespace Sys2Proof.Machine

section
variable {s t : State} {w : Work}

/-! ## Proof and clearing -/

theorem lawful_loseProof (g : Fin 8) (h : Lawful s w.st) : Lawful s (w.loseProof g).st := by
  unfold Work.loseProof
  split
  · exact h
  · split
    · exact lawful_changeInstance _ _ (lawful_replaceSignal _ h)
    · split
      · exact lawful_changeInstance _ _ (lawful_replaceSignal _ h)
      · exact h

theorem lawful_stepIntoOpen (g : Fin 8) (ref : RouteRef) (granted : w.st.clearRefusal g ref = none)
    (h : Lawful s w.st) : Lawful s (w.stepIntoOpen g ref).st :=
  lawful_clearSignal g ref (clearRefusal_service granted) (lawful_changeInstance _ _ h)

theorem lawful_assess (g : Fin 8) (h : Lawful s w.st) : Lawful s (w.assess g).st := by
  unfold Work.assess
  split
  · exact h
  · dsimp only
    split
    · split
      · rename_i granted
        exact lawful_stepIntoOpen _ _ granted h
      · exact h
    · exact h

theorem lawful_opened (g : Fin 8) (ref : RouteRef) (h : Lawful s w.st) : Lawful s (w.opened g ref).st := by
  unfold Work.opened
  split
  · split
    · exact lawful_changeInstance _ _ h
    · exact h
  · exact h

theorem lawful_lampHolds (route : Nat) (h : Lawful s w.st) : Lawful s (w.lampHolds route).st := by
  unfold Work.lampHolds
  split
  · split
    · exact lawful_changeInstance _ _ h
    · exact h
  · exact h

/-! ## Remote portions -/

theorem lawful_changePortion (g : Fin 8) (owner : Nat) (f : Portion → Portion) (h : Lawful s t) :
    Lawful s (t.changePortion g owner f) := h.other rfl

theorem lawful_holdImages (route station : Nat) (elems : List Nat) (h : Lawful s t) :
    Lawful s (t.holdImages route station elems) := h.other rfl

theorem lawful_unholdImages (route station : Nat) (elems : List Nat) (h : Lawful s t) :
    Lawful s (t.unholdImages route station elems) := h.other rfl

theorem lawful_forgetImages (station : Nat) (h : Lawful s t) : Lawful s (t.forgetImages station) := h.other rfl

theorem lawful_changeRemote (x : SectionRef) (f : RemoteEntry → RemoteEntry) (h : Lawful s t) :
    Lawful s (t.changeRemote x f) := h.other rfl

theorem lawful_goOn (g : Fin 8) (h : Lawful s w.st) : Lawful s (w.goOn g).st := by
  unfold Work.goOn
  split
  · exact h
  · split
    · exact h
    · split
      · exact h
      · extract_lets placed w'
        have base : Lawful s w'.st := lawful_request _ _ _ h
        split
        · exact lawful_changePortion _ _ _ base
        · exact base

theorem lawful_enterPositioning (g : Fin 8) (h : Lawful s w.st) : Lawful s (w.enterPositioning g).st := by
  unfold Work.enterPositioning
  split
  · exact h
  · split
    · exact h
    · exact lawful_claimFlank g (lawful_changeInstance _ _ h)

theorem lawful_reserveAnswered (g : Fin 8) (route source : Nat) (tag : Byte) (reason : Option Reason)
    (index : Nat) (granted : List Nat) (h : Lawful s w.st) :
    Lawful s (w.reserveAnswered g route source tag reason index granted).st := by
  unfold Work.reserveAnswered
  split
  · exact h
  · split
    · exact h
    · split
      · exact lawful_holdImages _ _ _ (lawful_changePortion _ _ _ h)
      · exact lawful_draw _ (lawful_changePortion _ _ _ h)

/-- A report to the desks is lawful. -/
theorem lawful_reportEntered (g : Fin 8) (h : Lawful s w.st) : Lawful s (w.reportEntered g).st := by
  unfold Work.reportEntered
  split
  · exact lawful_place _ h
  · exact h

theorem lawful_portionProven (source : Nat) (tag : Byte) (ref : RouteRef) (h : Lawful s w.st) :
    Lawful s (w.portionProven source tag ref).st := by
  unfold Work.portionProven
  split
  · exact h
  · exact lawful_reportEntered _ (lawful_changePortion _ _ _ h)

theorem lawful_portionLapsed (source : Nat) (tag : Byte) (ref : RouteRef) (reason : LapseReason)
    (h : Lawful s w.st) : Lawful s (w.portionLapsed source tag ref reason).st := by
  unfold Work.portionLapsed
  split
  · exact h
  · dsimp only
    split
    · exact lawful_draw _ (lawful_reportEntered _ (lawful_changePortion _ _ _ h))
    · exact lawful_loseProof _ (lawful_reportEntered _ (lawful_changePortion _ _ _ h))

/-! ## Proof of flank portions -/

theorem lawful_flankLapsed (g : Fin 8) (f : Nat) (lapse : LapseReason) (reason : Reason) (h : Lawful s w.st) :
    Lawful s (w.flankLapsed g f lapse reason).st := by
  unfold Work.flankLapsed
  split
  · split
    · exact h
    · exact lawful_loseProof _ h
  · exact h

theorem lawful_flankProven (source : Nat) (tag : Byte) (ref : RouteRef) (elem : Nat) (h : Lawful s w.st) :
    Lawful s (w.flankProven source tag ref elem).st := by
  unfold Work.flankProven
  split
  · exact h
  · exact lawful_reportEntered _ (by simpa only [Work.on_st] using lawful_markFlank _ _ _ h)

theorem lawful_flankLapse (source : Nat) (tag : Byte) (ref : RouteRef) (elem : Nat) (reason : LapseReason)
    (h : Lawful s w.st) : Lawful s (w.flankLapse source tag ref elem reason).st := by
  unfold Work.flankLapse
  split
  · exact h
  · refine lawful_flankLapsed _ _ _ _ ?_
    exact lawful_reportEntered _ (by simpa only [Work.on_st] using lawful_markFlank _ _ _ h)

theorem lawful_localFlankTold (route : Nat) (e : Elem) (lapse : Option LapseReason) (reason : Reason)
    (h : Lawful s w.st) : Lawful s (w.localFlankTold route e lapse reason).st := by
  unfold Work.localFlankTold
  split
  · exact h
  · dsimp only
    split
    · exact lawful_reportEntered _ (by simpa only [Work.on_st] using lawful_markFlank _ _ _ h)
    · exact lawful_reportEntered _ (by simpa only [Work.on_st] using lawful_markFlank _ _ _ h)
    · refine lawful_flankLapsed _ _ _ _ ?_
      exact lawful_reportEntered _ (by simpa only [Work.on_st] using lawful_markFlank _ _ _ h)

/-! ## Freeing requirements -/

theorem lawful_releasePortion (r : RouteRecord) (p : Portion) (indices : List Nat) (h : Lawful s t) :
    Lawful s (t.releasePortion r p indices) := by
  unfold State.releasePortion
  split
  · exact h
  · exact lawful_unholdImages _ _ _ (lawful_post _ _ h)

theorem lawful_releaseAt (r : RouteRecord) (i : RouteInst) (freed : List Nat) (p : Portion) (h : Lawful s t) :
    Lawful s (t.releaseAt r i freed p) := by
  unfold State.releaseAt
  split
  · exact lawful_releasePortion _ _ _ h
  · split
    · refine lawful_releasePortion _ _ _ ?_
      cases p.tag with
      | none => exact h
      | some tag => exact lawful_dropRequest tag h
    · exact h

theorem lawful_freeIndices (g : Fin 8) (freed : List Nat) (h : Lawful s w.st) :
    Lawful s (w.freeIndices g freed).st := by
  unfold Work.freeIndices
  split
  · exact h
  · refine lawful_changeInstance _ _ (Lawful.foldl (fun t p h => lawful_releaseAt _ _ _ _ h) _
      (Lawful.foldlWork (fun w k h => ?_) _ h))
    split
    · split
      · exact h
      · exact lawful_freeLock _ _ h
    · exact h

theorem lawful_leaveDirection (g : Fin 8) (h : Lawful s t) : Lawful s (t.leaveDirection g) := by
  unfold State.leaveDirection
  split
  · exact h
  · split
    · exact h
    · extract_lets s₁ s₂
      have one : Lawful s s₁ := by
        unfold s₁; split
        · exact lawful_dropDirection _ _ h
        · exact h
      have two : Lawful s s₂ := by
        unfold s₂; split
        · exact lawful_dropWaiting _ _ one
        · exact one
      exact lawful_changeInstance _ _ two

theorem lawful_releaseEverything (g : Fin 8) (h : Lawful s w.st) : Lawful s (w.releaseEverything g).st := by
  unfold Work.releaseEverything
  split
  · exact h
  · exact lawful_leaveDirection _ (lawful_releaseFlank _ _ _ (lawful_changeInstance _ _ (lawful_freeIndices _ _ h)))

theorem lawful_endOrWait (g : Fin 8) (h : Lawful s t) : Lawful s (t.endOrWait g) := by
  unfold State.endOrWait
  split
  · exact h
  · split
    · exact lawful_endInstance _ h
    · exact lawful_changeInstance _ _ h

theorem lawful_fullRelease (g : Fin 8) (h : Lawful s w.st) : Lawful s (w.fullRelease g).st :=
  lawful_endOrWait _ (lawful_releaseEverything _ (lawful_changeInstance _ _ (lawful_replaceSignal _ h)))

theorem lawful_rollback (g : Fin 8) (failure : Option Failure) (h : Lawful s w.st) :
    Lawful s (w.rollback g failure).st := by
  unfold Work.rollback
  split
  · exact h
  · split
    · exact lawful_endOrWait _ (lawful_changeInstance _ _ (lawful_releaseEverything _
        (lawful_changeInstance _ _ (lawful_replaceSignal _ h))))
    · exact h

theorem lawful_emergencyExpires (g : Fin 8) (h : Lawful s w.st) : Lawful s (w.emergencyExpires g).st := by
  unfold Work.emergencyExpires
  split
  · exact h
  · split
    · exact lawful_endOrWait _ (lawful_releaseEverything _ h)
    · exact h

/-! ## Sectional release and the overlap -/

theorem lawful_releaseSection (g : Fin 8) (i : RouteInst) (r : RouteRecord) (k : Nat) (h : Lawful s w.st) :
    Lawful s (w.releaseSection g i r k).st := by
  unfold Work.releaseSection
  refine lawful_releaseProtecting _ _ _ ?_
  split
  · exact lawful_leaveDirection _ (lawful_freeIndices _ _ (lawful_changeInstance _ _ h))
  · exact lawful_freeIndices _ _ (lawful_changeInstance _ _ h)

theorem lawful_releaseSections (g : Fin 8) (n : Nat) (h : Lawful s w.st) :
    Lawful s (Work.releaseSections g n w).st := by
  induction n generalizing w with
  | zero => exact h
  | succ n ih =>
    unfold Work.releaseSections
    split
    · exact h
    · split
      · exact ih (lawful_releaseSection _ _ _ _ h)
      · exact h

theorem lawful_testRelease (g : Fin 8) (h : Lawful s w.st) : Lawful s (w.testRelease g).st :=
  lawful_endIfEmpty _ (lawful_releaseSections _ _ h)

theorem lawful_overlapExpires (g : Fin 8) (h : Lawful s w.st) : Lawful s (w.overlapExpires g).st := by
  unfold Work.overlapExpires
  split
  · exact h
  · dsimp only
    split
    · exact lawful_changeInstance _ _ h
    · exact lawful_endIfEmpty _ (lawful_releaseProtecting _ _ _ (lawful_freeIndices _ _ (lawful_changeInstance _ _ h)))

theorem lawful_startOverlap (g : Fin 8) (r : RouteRecord) (h : Lawful s w.st) :
    Lawful s (w.startOverlap g r).st := by
  unfold Work.startOverlap
  split
  · exact h
  · split
    · exact lawful_overlapExpires _ h
    · exact lawful_changeInstance _ _ h

theorem lawful_takenOver (route : Nat) (e : Elem) (h : Lawful s w.st) : Lawful s (w.takenOver route e).st := by
  unfold Work.takenOver
  split
  · split
    · exact h
    · exact lawful_endIfEmpty _ (lawful_loseProof _ (lawful_releaseProtecting _ _ _
        (lawful_changeInstance _ _ (lawful_changeInstance _ _ h))))
  · exact h

/-! ## Train entry, overrun and sequence faults -/

theorem lawful_finishOff (g : Fin 8) (h : Lawful s w.st) : Lawful s (w.finishOff g).st := by
  unfold Work.finishOff
  split
  · exact h
  · rename_i i r _
    refine lawful_stopFlank _ (lawful_changeInstance _ _ (lawful_freeIndices _ _ ?_))
    split
    · refine lawful_changeInstance _ _ ?_
      cases exitBoundary r with
      | none => exact h
      | some b => exact lawful_dropWaiting b _ h
    · exact h

theorem lawful_enterProgress (r : RouteRecord) (g : Fin 8) (h : Lawful s w.st) :
    Lawful s (enterProgress r w g).st := by
  unfold enterProgress
  dsimp only
  split
  · exact lawful_startOverlap _ _ (lawful_changeInstance _ _ h)
  · exact lawful_changeInstance _ _ h

theorem lawful_overrun (g : Fin 8) (r : RouteRecord) (h : Lawful s w.st) : Lawful s (w.overrun g r).st :=
  lawful_finishOff _ (lawful_enterProgress _ _
    (lawful_recordFault _ _ _ (lawful_changeInstance _ _ (lawful_replaceSignal _ h))))

theorem lawful_trainEntry (g : Fin 8) (i : RouteInst) (r : RouteRecord) (h : Lawful s w.st) :
    Lawful s (w.trainEntry g i r).st := by
  unfold Work.trainEntry
  split
  · exact lawful_enterProgress _ _ (lawful_changeInstance _ _ (lawful_replaceSignal _ h))
  · exact lawful_enterProgress _ _ (lawful_recordFault _ _ _ h)
  · exact h
  · exact lawful_overrun _ _ h

theorem lawful_sequenceFault (g : Fin 8) (x : SectionRef) (h : Lawful s t) : Lawful s (t.sequenceFault g x) := by
  unfold State.sequenceFault
  split
  · split
    · split
      · exact h
      · exact lawful_recordFault _ _ _ (lawful_setSection _ _ ⟨rfl, rfl⟩ h)
    · exact h
  · exact lawful_recordFault _ _ _ h

theorem lawful_markFault (g : Fin 8) (i : RouteInst) (index : Nat) (x : SectionRef) (h : Lawful s w.st) :
    Lawful s (w.markFault g i index x).st := by
  unfold Work.markFault
  split
  · exact h
  · exact lawful_sequenceFault _ _ (lawful_changeInstance _ _ h)

theorem lawful_occupyPath (g : Fin 8) (i : RouteInst) (r : RouteRecord) (k : Nat) (h : Lawful s w.st) :
    Lawful s (w.occupyPath g i r k).st := by
  unfold Work.occupyPath
  split
  · exact h
  · dsimp only
    split
    · exact lawful_startOverlap _ _ (lawful_changeInstance _ _ h)
    · exact lawful_changeInstance _ _ h

theorem lawful_pathOccupied (g : Fin 8) (i : RouteInst) (r : RouteRecord) (k index : Nat) (q : RouteReq)
    (h : Lawful s w.st) : Lawful s (w.pathOccupied g i r k index q).st := by
  unfold Work.pathOccupied
  extract_lets outOfSequence
  split
  · exact lawful_occupyPath _ _ _ _ (lawful_markFault _ _ _ _ h)
  · split
    · exact lawful_occupyPath _ _ _ _ h
    · exact h

theorem lawful_overlapOccupied (g : Fin 8) (i : RouteInst) (r : RouteRecord) (index : Nat) (q : RouteReq)
    (h : Lawful s w.st) : Lawful s (w.overlapOccupied g i r index q).st := by
  unfold Work.overlapOccupied
  split
  · exact lawful_markFault _ _ _ _ h
  · exact h

theorem lawful_sectionTaken (g : Fin 8) (x : SectionRef) (h : Lawful s w.st) :
    Lawful s (w.sectionTaken g x).st := by
  unfold Work.sectionTaken
  split
  · exact h
  · split
    · refine lawful_testRelease _ ?_
      split
      · exact lawful_trainEntry _ _ _ h
      · exact h
    · split
      · exact lawful_testRelease _ (lawful_loseProof _ (lawful_pathOccupied _ _ _ _ _ _ h))
      · exact h
    · split
      · exact lawful_testRelease _ (lawful_loseProof _ (lawful_overlapOccupied _ _ _ _ _ h))
      · exact h
    · exact h

theorem lawful_sectionFreed (g : Fin 8) (x : SectionRef) (h : Lawful s w.st) :
    Lawful s (w.sectionFreed g x).st := by
  unfold Work.sectionFreed
  split
  · exact h
  · split
    · dsimp only
      split <;> exact lawful_testRelease _ h
    · exact h

theorem lawful_sectionKnown (g : Fin 8) (x : SectionRef) (h : Lawful s w.st) :
    Lawful s (w.sectionKnown g x).st := by
  unfold Work.sectionKnown
  split
  · exact h
  · split <;> exact h

/-! ## Cancelling, emergency and breaks -/

theorem lawful_cancel (g : Fin 8) (i : RouteInst) (r : RouteRecord) (h : Lawful s w.st) :
    Lawful s (w.cancel g i r).st := by
  unfold Work.cancel
  split
  · exact lawful_rollback _ _ h
  · exact lawful_rollback _ _ h
  all_goals first
    | exact h
    | split
      · exact lawful_changeInstance _ _ (lawful_replaceSignal _ h)
      · exact lawful_fullRelease _ h

theorem lawful_emergencyRelease (g : Fin 8) (i : RouteInst) (r : RouteRecord) (h : Lawful s w.st) :
    Lawful s (w.emergencyRelease g i r).st := by
  unfold Work.emergencyRelease
  dsimp only
  split
  · exact lawful_finishOff _ (lawful_changeInstance _ _ (lawful_replaceSignal _ h))
  · exact lawful_changeInstance _ _ (lawful_replaceSignal _ h)

theorem lawful_withdrawRoute (g : Fin 8) (h : Lawful s w.st) : Lawful s (w.withdrawRoute g).st := by
  unfold Work.withdrawRoute
  split
  · exact h
  · split
    · exact lawful_rollback _ _ h
    · exact lawful_loseProof _ h

theorem lawful_breakToEmergency (g : Fin 8) (h : Lawful s w.st) : Lawful s (w.breakToEmergency g).st :=
  lawful_changeInstance _ _ (lawful_replaceSignal _ h)

theorem lawful_breakRoute (g : Fin 8) (station : Nat) (h : Lawful s w.st) :
    Lawful s (w.breakRoute g station).st := by
  unfold Work.breakRoute
  split
  · exact h
  · dsimp only
    split
    · exact lawful_endIfEmpty _ (lawful_breakToEmergency _ (lawful_setInstance _ _ h))
    · split
      · exact lawful_rollback _ _ (lawful_setInstance _ _ h)
      · refine lawful_endIfEmpty _ ?_
        split
        · exact lawful_loseProof _ (lawful_setInstance _ _ h)
        · exact lawful_setInstance _ _ h

/-! ## SET -/

/-- An admitted SET starts its route lawfully (check 7 of R91). -/
theorem lawful_startRoute (r : RouteRecord) (dest : Nat) (tag : Byte)
    (admitted : w.st.judge (some r.entry) [] (localPart r) = none) (h : Lawful s w.st) :
    Lawful s (w.startRoute r dest tag).st := by
  unfold Work.startRoute
  extract_lets old ref w₁ w₂ w₃ w₄
  have one : Lawful s w₁.st := lawful_writeLocks ref _ (judge_agrees _ _ _ admitted) h
  have two : Lawful s w₂.st := lawful_setInstance _ _ one
  have three : Lawful s w₃.st := Lawful.foldlWork (fun _ _ h => lawful_takenOver _ _ h) _ two
  have four : Lawful s w₄.st := lawful_answerDesk _ _ _ _ _ three
  split
  · exact lawful_askDirection _ _ (lawful_changeInstance _ _ four)
  · exact four

theorem lawful_reclear (g : Fin 8) (i : RouteInst) (r : RouteRecord) (dest : Nat) (tag : Byte)
    (h : Lawful s w.st) : Lawful s (w.reclear g i r dest tag).st := by
  unfold Work.reclear
  dsimp only
  split
  · exact lawful_answerDesk _ _ _ _ _ h
  · split
    · rename_i granted
      have k := lawful_answerDesk dest tag 1 none none h
      refine lawful_clearSignal _ _ ?_ (lawful_changeInstance _ _ k)
      show (w.st.answerDesk dest tag 1 none none).service = _
      rw [(reported_answerDesk w.st dest tag 1 none none).same]
      exact clearRefusal_service granted
    · exact lawful_answerDesk _ _ _ _ _ h

theorem lawful_directionTold (route : Nat) (told : DirectionTold) (h : Lawful s w.st) :
    Lawful s (w.directionTold route told).st := by
  unfold Work.directionTold
  split
  · split
    · dsimp only
      split <;> exact lawful_changeInstance _ _ h
    · exact h
  · exact h

end

end Sys2Proof.Machine
end

