-- ==== Sys2Proof/Laws/Event.lean ====
section
/-! SUPPORT. The lawfulness of what the Route Engine does at the owner (R97 to R101), of the relationships with
peers (chapter 5), of a section's change, and so of every task and of an event taken whole. -/

namespace Sys2Proof.Machine

section
variable {s t : State} {w : Work}

/-! ## Reservations -/

theorem lawful_endReservation (ref : RouteRef) (h : Lawful s t) : Lawful s (t.endReservation ref) :=
  lawful_reservations _ (List.filter_sublist.map _) h

theorem lawful_freeReservation (ref : RouteRef) (h : Lawful s w.st) : Lawful s (w.freeReservation ref).st := by
  unfold Work.freeReservation
  split
  · exact h
  · exact lawful_endReservation _ (lawful_changeReservation _ _ (fun _ => rfl)
      (Lawful.foldlWork (fun _ _ h => lawful_freeLock _ _ h) _ h))

/-- Writing locks leaves the Reservation List. -/
theorem writeLocks_reservations (ref : RouteRef) (qs : List LockReq) (w : Work) :
    (w.writeLocks ref qs).st.reservations = w.st.reservations := by
  unfold Work.writeLocks
  induction qs generalizing w with
  | nil => rfl
  | cons q qs ih =>
    rw [List.foldl_cons, ih]
    have faults : ∀ (t : State) ks x, (t.recordFaults ks x).reservations = t.reservations := fun t ks x => by
      rw [(reported_recordFaults t ks x).same]
    unfold Work.writeLock
    split
    · rfl
    · dsimp only
      split
      · rfl
      · split
        · unfold Work.movePoint Work.takePoint
          simp only [faults]
          rfl
        · rfl
    · split <;> rfl
    · rfl

/-- An admitted RESERVE is entered lawfully (checks 4 to 6 of R97). -/
theorem lawful_admitReserve (source : Nat) (tag : Byte) (ref : RouteRef) (reqs : List WireReq)
    (admitted : w.st.admissionRefusal ref reqs = none) (h : Lawful s w.st) :
    Lawful s (w.admitReserve source tag ref reqs).st := by
  unfold State.admissionRefusal at admitted
  split at admitted
  · cases admitted
  · rename_i fresh
    split at admitted
    · cases admitted
    · rename_i few
      unfold Work.admitReserve
      extract_lets w₁ elems entry w₂ w₃
      have one : Lawful s w₁.st := lawful_writeLocks ref _ (judge_agrees _ _ _ admitted) h
      have list : w₁.st.reservations = w.st.reservations := writeLocks_reservations ref _ w
      have two : Lawful s w₂.st := by
        refine one.trans ⟨rfl, rfl, fun _ => ⟨rfl, rfl⟩, id, id, id, fun k => ⟨?_, ?_⟩, id, id, id,
          fun _ _ h k => absurd h k⟩
        · show (w₁.st.reservations ++ [entry]).length ≤ 16
          simp only [list, List.length_append, List.length_cons, List.length_nil]
          omega
        · show ((w₁.st.reservations ++ [entry]).map (·.ref)).Nodup
          simp only [List.map_append, List.map_cons, List.map_nil, List.nodup_append, k.2, List.nodup_cons,
            List.not_mem_nil, not_false_eq_true, List.nodup_nil, and_self, true_and, List.mem_singleton]
          rintro a ha b rfl
          obtain ⟨r, hr, rfl⟩ := List.mem_map.mp ha
          intro e
          apply fresh
          unfold State.reservation
          rw [List.find?_isSome]
          exact ⟨r, list ▸ hr, by simpa using e⟩
      exact lawful_draw _ (lawful_postProof _ _ two)

theorem lawful_takeReserve (source : Nat) (tag : Byte) (ref : RouteRef) (reqs : List WireReq)
    (h : Lawful s w.st) : Lawful s (w.takeReserve source tag ref reqs).st := by
  unfold Work.takeReserve
  dsimp only
  split
  · exact lawful_postProof _ _ h
  · have freed : Lawful s (if (w.st.activeReservation ref).isSome then w.freeReservation ref else w).st := by
      split
      · exact lawful_freeReservation _ h
      · exact h
    split
    · exact lawful_postProof _ _ freed
    · rename_i admitted
      exact lawful_admitReserve _ _ _ _ admitted freed

theorem lawful_releaseElem (ref : RouteRef) (n : Nat) (h : Lawful s w.st) :
    Lawful s (Work.releaseElem ref w n).st := by
  unfold Work.releaseElem
  split
  · extract_lets w'
    have base : Lawful s w'.st := by
      unfold w'
      split
      · split
        · exact lawful_changeReservation _ _ (fun _ => rfl) h
        · exact h
      · exact h
    split
    · exact lawful_freeLock _ _ base
    · exact base
  · exact h

theorem lawful_takeRelease (source : Nat) (tag : Byte) (ref : RouteRef) (elems : List Nat) (h : Lawful s w.st) :
    Lawful s (w.takeRelease source tag ref elems).st := by
  unfold Work.takeRelease
  split
  · split
    · exact lawful_endReservation _ (Lawful.foldlWork (fun _ _ h => lawful_releaseElem _ _ h) _ h)
    · exact h
  · exact h

theorem lawful_assessReservation (ref : RouteRef) (h : Lawful s w.st) :
    Lawful s (w.assessReservation ref).st := by
  unfold Work.assessReservation
  split
  · split
    · exact lawful_postProof _ _ (lawful_changeReservation _ _ (fun _ => rfl) h)
    · exact h
  · exact h

theorem lawful_lapseReservation (ref : RouteRef) (reason : LapseReason) (h : Lawful s w.st) :
    Lawful s (w.lapseReservation ref reason).st := by
  unfold Work.lapseReservation
  split
  · split
    · exact lawful_postProof _ _ (lawful_changeReservation _ _ (fun _ => rfl) h)
    · exact h
  · exact h

theorem lawful_orphanExpires (ref : RouteRef) (h : Lawful s w.st) : Lawful s (w.orphanExpires ref).st := by
  unfold Work.orphanExpires
  split
  · split
    · exact lawful_freeReservation _ (lawful_changeReservation _ _ (fun _ => rfl) h)
    · exact h
  · exact h

/-! ## Peers -/

theorem lawful_notePresences (station : Nat) (h : Lawful s t) : Lawful s (t.notePresences station) :=
  lawful_sendQueue _ (by simp) h

theorem lawful_forceBreak (station : Nat) (h : Lawful s w.st) : Lawful s (w.forceBreak station).st := by
  unfold Work.forceBreak
  split
  · exact h
  · dsimp only
    split <;> exact lawful_notePresences _ (lawful_changePeer _ _ h)

theorem lawful_cutOff (station : Nat) (h : Lawful s t) : Lawful s (t.cutOff station) := by
  unfold State.cutOff
  extract_lets s₁ s₂
  have two : Lawful s s₂ := lawful_forgetImages _ (lawful_unsend _ (lawful_dropRequests _ h))
  refine (lawful_reservations (s₂.reservations.map fun r =>
    if r.ref.station = station ∧ r.state = .active then { r with state := .orphaned (some s₂.cfg.orphanTime) }
    else r) ?_ two).other rfl
  rw [List.map_map, List.map_congr_left (g := (·.ref)) fun r _ => ?_]
  simp only [Function.comp]
  split <;> rfl

theorem lawful_breakWith (station : Nat) (h : Lawful s w.st) : Lawful s (w.breakWith station).st :=
  lawful_cutOff _ h

theorem lawful_enterPeer (station : Nat) (old new : PeerState) (h : Lawful s w.st) :
    Lawful s (w.enterPeer station old new).st := by
  unfold Work.enterPeer
  extract_lets w'
  have base : Lawful s w'.st := lawful_changePeer _ _ h
  split
  · rw [Work.on_st]
    exact lawful_refresh _ (lawful_changePeer _ _ base)
  · split <;> exact base

theorem lawful_takePresence (source : Nat) (view : BitVec 24) (h : Lawful s w.st) :
    Lawful s (w.takePresence source view).st := by
  unfold Work.takePresence
  split
  · exact h
  · split
    · exact h
    · exact lawful_enterPeer _ _ _ (lawful_changePeer _ _ h)

theorem lawful_silenceExpires (station : Nat) (h : Lawful s w.st) : Lawful s (w.silenceExpires station).st := by
  unfold Work.silenceExpires
  split
  · exact h
  · split
    · exact lawful_enterPeer _ _ _ (lawful_changePeer _ _ h)
    · exact h

theorem lawful_requestFailed (q : Request) (h : Lawful s w.st) : Lawful s (w.requestFailed q).st := by
  unfold Work.requestFailed
  split
  · split
    · split
      · split <;> exact h
      · exact h
    · exact h
  · exact lawful_flankFailed _ _ _ _ _ h
  · exact lawful_returnDirection _ _ h
  · exact h.other rfl

theorem lawful_takeReserveAnswer (source : Nat) (tag : Byte) (ref : RouteRef) (reason : Option Reason)
    (index : Nat) (granted : List Nat) (h : Lawful s w.st) :
    Lawful s (w.takeReserveAnswer source tag ref reason index granted).st := by
  unfold Work.takeReserveAnswer
  dsimp only
  split
  · exact lawful_reserveAnswered _ _ _ _ _ _ _ (lawful_dropRequest _ h)
  · split
    · exact lawful_post _ _ h
    · exact h

theorem lawful_takeFlankAnswer (source : Nat) (tag : Byte) (ref : RouteRef) (reason : Option Reason)
    (verdicts : List (Nat × Option Reason)) (h : Lawful s w.st) :
    Lawful s (w.takeFlankAnswer source tag ref reason verdicts).st := by
  unfold Work.takeFlankAnswer
  dsimp only
  split
  · exact lawful_flankAnswered _ _ _ _ _ _ _ (lawful_dropRequest _ h)
  · split
    · exact h
    · exact lawful_post _ _ h

theorem lawful_takeDirectionAnswer (source : Nat) (tag : Byte) (index : Nat) (reason : Option Reason)
    (h : Lawful s w.st) : Lawful s (w.takeDirectionAnswer source tag index reason).st := by
  unfold Work.takeDirectionAnswer
  dsimp only
  split
  · exact lawful_directionAnswered _ _ (lawful_dropRequest _ h)
  · exact h

theorem lawful_takeOfferAnswer (source : Nat) (tag : Byte) (index : Nat) (reason : Option Reason)
    (h : Lawful s w.st) : Lawful s (w.takeOfferAnswer source tag index reason).st := by
  unfold Work.takeOfferAnswer
  dsimp only
  split
  · simp only [Work.on_st]
    exact (lawful_dropRequest tag h).other rfl
  · exact h

theorem lawful_givenUp (x : SendEntry) (h : Lawful s w.st) : Lawful s (w.givenUp x).st := by
  unfold Work.givenUp
  split
  · split
    · exact lawful_dropRequests _ h
    · exact h
  · split <;> exact h

/-! ## Sections -/

theorem lawful_endSpeed (i : Fin 16) (h : Lawful s t) : Lawful s (t.endSpeed i) := by
  unfold State.endSpeed
  split
  · exact lawful_setTrain _ _ h
  · exact h

theorem lawful_eraseUnlocked (i : Fin 16) (h : Lawful s t) : Lawful s (t.eraseUnlocked i) := by
  unfold State.eraseUnlocked
  split
  · exact lawful_setTrain _ _ h
  · exact h

theorem lawful_sectionOccupied (i : Fin 16) (h : Lawful s w.st) : Lawful s (w.sectionOccupied i).st := by
  unfold Work.sectionOccupied
  extract_lets w₁ measured w₂ w₃ w₄
  have one : Lawful s w₁.st := lawful_setSection _ _ ⟨rfl, rfl⟩ h
  have two : Lawful s w₂.st := by
    show Lawful s (measured.elim w₁.st (w₁.st.writeSpeed i))
    cases measured with
    | none => exact one
    | some v => exact lawful_setTrain _ _ one
  rw [Work.emit_st]
  unfold w₄ w₃
  rw [Work.on_st, Work.on_st]
  exact lawful_edgeOccupied _ _ (lawful_describerStep _ _ two)

theorem lawful_testPoint (p : Fin 8) (h : Lawful s w.st) : Lawful s (w.testPoint p).st :=
  lawful_takePoint p _ (PointRec.sound_deadTest ..) h

theorem lawful_sectionCleared (i : Fin 16) (h : Lawful s w.st) : Lawful s (w.sectionCleared i).st := by
  unfold Work.sectionCleared
  extract_lets listed w₁ w₂ w₃ w₄
  have two : Lawful s w₂.st := lawful_eraseUnlocked _ (lawful_endSpeed _ (lawful_removePending _ h))
  have three : Lawful s w₃.st := Lawful.foldlWork (fun _ p h => lawful_testPoint p h) _ two
  rw [Work.emit_st]
  unfold w₄
  rw [Work.on_st]
  exact lawful_edgeCleared _ three

theorem lawful_takeNotice (source elem : Nat) (occupied proven : Bool) (age : Nat) (h : Lawful s w.st) :
    Lawful s (w.takeNotice source elem occupied proven age).st := by
  unfold Work.takeNotice
  dsimp only
  split
  · exact h
  · split <;> exact lawful_changeRemote _ _ h

/-- What is left of the filter once it has been written is lawful after that. -/
theorem lawful_takeFilter (i : Fin 16) (made : SectionRec × FilterChange) (w : Work) :
    Lawful (w.st.setSection i made.1) (w.takeFilter i made).st := by
  unfold Work.takeFilter
  dsimp only
  split
  · exact .refl _
  · exact lawful_sectionOccupied _ (.refl _)
  · exact lawful_sectionCleared _ (.refl _)

/-! ## Tasks -/

theorem lawful_reportRoute (route : Nat) (h : Lawful s w.st) : Lawful s (w.reportRoute route).st := by
  unfold Work.reportRoute
  split
  · exact lawful_reportEntered _ h
  · exact h

theorem lawful_tellHolder (p : Fin 8) (ref : RouteRef) (m : MoveResult) (h : Lawful s w.st) :
    Lawful s (w.tellHolder p ref m).st := by
  unfold Work.tellHolder
  dsimp only
  split
  · split
    · split <;> exact lawful_reportRoute _ h
    · exact lawful_reportRoute _ h
  · split
    · exact lawful_lapseReservation _ _ h
    · exact h

theorem lawful_tellClaimant (p : Fin 8) (ref : RouteRef) (m : MoveResult) (h : Lawful s w.st) :
    Lawful s (w.tellClaimant p ref m).st := by
  unfold Work.tellClaimant
  dsimp only
  split
  · split
    · exact lawful_localFlankTold _ _ _ _ h
    · exact lawful_reportRoute _ h
  · split
    · exact lawful_lapseClaim _ _ _ h
    · exact lawful_assessClaim _ _ h

theorem lawful_tellResult (p : Fin 8) (m : MoveResult) (who : Requester) (h : Lawful s w.st) :
    Lawful s (w.tellResult p m who).st := by
  unfold Work.tellResult
  split
  · exact lawful_tellHolder _ _ _ h
  · exact lawful_tellClaimant _ _ _ h
  · exact lawful_place _ h

theorem lawful_tellHolderProof (ref : RouteRef) (told : ProofTold) (h : Lawful s w.st) :
    Lawful s (w.tellHolderProof ref told).st := by
  unfold Work.tellHolderProof
  dsimp only
  split
  · split
    · exact lawful_reportRoute _ h
    · exact lawful_loseProof _ (lawful_reportRoute _ h)
    · exact lawful_reportRoute _ h
  · split
    · exact lawful_assessReservation _ h
    · exact lawful_lapseReservation _ _ h

theorem lawful_tellClaimantProof (p : Fin 8) (ref : RouteRef) (told : ProofTold) (h : Lawful s w.st) :
    Lawful s (w.tellClaimantProof p ref told).st := by
  unfold Work.tellClaimantProof
  split
  · split <;> exact lawful_localFlankTold _ _ _ _ h
  · split
    · exact lawful_assessClaim _ _ h
    · exact lawful_lapseClaim _ _ _ h

theorem lawful_tellExit (user : Fin 8) (present : Bool) (h : Lawful s w.st) :
    Lawful s (w.tellExit user present).st := by
  unfold Work.tellExit
  dsimp only
  split
  · exact lawful_reportEntered _ h
  · exact lawful_loseProof _ (lawful_reportEntered _ h)

theorem lawful_toldWithdrawn (route : Nat) (h : Lawful s w.st) : Lawful s (w.toldWithdrawn route).st := by
  unfold Work.toldWithdrawn
  split
  · exact lawful_loseProof _ h
  · exact h

/-- Every task is lawful. -/
theorem lawful_take (x : Task) (h : Lawful s w.st) : Lawful s (w.take x).st := by
  cases x <;> unfold Work.take <;> dsimp only
  case result => exact lawful_tellResult _ _ _ h
  case proofToHolder => exact lawful_tellHolderProof _ _ h
  case proofToClaimant => exact lawful_tellClaimantProof _ _ _ h
  case exitToRoute => exact lawful_tellExit _ _ h
  case exitToReservation =>
    split
    · exact lawful_assessReservation _ h
    · exact lawful_lapseReservation _ _ h
  case cleared => exact lawful_opened _ _ h
  case clearRefused => exact h
  case lampFailed => exact lawful_lampHolds _ h
  case withdrawnByFlank => exact lawful_toldWithdrawn _ h
  case entryFree => exact h
  case goOn => exact lawful_goOn _ h
  case position => exact lawful_enterPositioning _ h
  case assess => exact lawful_assess _ h
  case rollback => exact lawful_rollback _ _ h
  case routeOccupied => exact lawful_sectionTaken _ _ h
  case routeCleared => exact lawful_sectionFreed _ _ h
  case routeKnown => exact lawful_sectionKnown _ _ h
  case assessReservation => exact lawful_assessReservation _ h
  case assessClaim => exact lawful_assessClaim _ _ h
  case forceBreak => exact lawful_forceBreak _ h
  case breakWith => exact lawful_breakWith _ h
  case breakRoute => exact lawful_breakRoute _ _ h
  case breakBoundary => exact lawful_boundaryBroken _ _ h
  case recordBreak => exact lawful_recordFault _ _ _ h
  case requestFailed => exact lawful_requestFailed _ h
  case directionTold => exact lawful_directionTold _ _ h
  case withdrawRoute => exact lawful_withdrawRoute _ h

/-- The tasks of an event are lawful together. -/
theorem lawful_settle (start : State) (n : Nat) (ts : List Task) (h : Lawful s w.st) :
    Lawful s (Work.settle start n ts w).1.st := by
  induction n generalizing ts w with
  | zero => cases ts <;> exact h
  | succ n ih =>
    cases ts with
    | nil => exact h
    | cons x xs =>
      exact ih _ (lawful_take (w := { w.on (State.placeChanged start) with out := [] }) x
        (h.reported (reported_placeChanged start w.st)))

/-! ## An event -/

@[simp] theorem settle_nil (start : State) (n : Nat) (w : Work) : Work.settle start n [] w = (w, []) := by
  cases n <;> rfl

/-- A task is taken from the state that the subjects changed so far have been placed in. -/
theorem settle_cons (start : State) (n : Nat) (t : Task) (ts : List Task) (w : Work) :
    Work.settle start (n + 1) (t :: ts) w =
      let v := { w.on (State.placeChanged start) with out := [] }.take t
      Work.settle start n (v.out ++ ts) v := rfl

/-- Nothing to return places nothing. -/
theorem returnFlank_of_nil (h : w.returns = []) : w.returnFlank = w := by
  obtain ⟨st, out, said, returns, turned, answers⟩ := w
  obtain rfl : returns = [] := h
  rfl

@[simp] theorem returnFlank_out (w : Work) : w.returnFlank.out = w.out := rfl

/-- In reset an event changes nothing. -/
theorem event_of_reset {before start : State} {work : Work → Work} (held : before.resetHeld = true) :
    before.event start work = .next before := by
  unfold State.event; rw [held]; rfl

/-- Out of reset an event answers the next state that its end leaves, the report queue drained. -/
theorem event_of_live {before start : State} {work : Work → Work} (live : before.resetHeld = false) :
    before.event start work = .next (State.conclude before (start.settled work)).drained := by
  unfold State.event; rw [live]; rfl

/-- The tasks of an event taken to their end are lawful, but for the tasks left over. -/
theorem Lawful.settled {start base : State} {work : Work → Work} (kept : start.keep base = base)
    (h : Lawful base (work (Work.begin start)).st) :
    ∃ t, Lawful base t ∧ (start.settled work).st = { t with agenda := (start.settled work).st.agenda } := by
  have all := lawful_returnFlank (lawful_settle start taskBound (start.agenda ++ (work (Work.begin start)).out) h)
  refine ⟨_, all, ?_⟩
  have k := all.kept
  unfold State.settled
  dsimp only [Work.on_st]
  rw [← k, ← kept]
  rfl

/-- What an event can do: from `base`, which agrees with `start` in all that an event keeps, a lawful part, the
tasks left over, reports, and then draining. -/
theorem event_lawful {before start base : State} {work : Work → Work} (live : before.resetHeld = false)
    (kept : start.keep base = base) (h : Lawful base (work (Work.begin start)).st) :
    ∃ (t : State) (left : List Task) (u : State), before.event start work = .next u.drained ∧ Lawful base t
      ∧ Reported { t with agenda := left } u := by
  obtain ⟨t, lawful, e⟩ := Lawful.settled kept h
  refine ⟨t, (start.settled work).st.agenda, _, event_of_live live, lawful, ?_⟩
  have r := reported_conclude before (start.settled work)
  exact e ▸ r

/-! ## Withdrawal -/

@[simp] theorem lampLit_aspect (w : Work) (g k : Fin 8) :
    (w.lampLit g).st.signals[k].aspect = w.st.signals[k].aspect := by
  have put : ∀ r : SignalRec, r.aspect = w.st.signals[g].aspect →
      (w.st.setSignal g r).signals[k].aspect = w.st.signals[k].aspect := by
    intro r e
    rcases eq_or_ne g k with rfl | n
    · simpa using e
    · have : ¬ g.val = k.val := fun e => n (Fin.ext e)
      simp [this]
  unfold Work.lampLit
  dsimp only
  split
  · exact put _ (by simp)
  · split <;> split <;> exact put _ (by simp)

/-- A signal whose aspect is commanded has it; the others keep theirs. -/
theorem setAspect_aspect (w : Work) (g k : Fin 8) (a : Aspect) :
    (w.setAspect g a).st.signals[k].aspect = if g = k then a else w.st.signals[k].aspect := by
  have put : ∀ r : SignalRec, r.aspect = a →
      (w.st.setSignal g r).signals[k].aspect = if g = k then a else w.st.signals[k].aspect := by
    intro r e
    rcases eq_or_ne g k with rfl | n
    · simpa using e
    · have : ¬ g.val = k.val := fun e => n (Fin.ext e)
      simp [this, n]
  unfold Work.setAspect
  extract_lets r r' w'
  have base : w'.st.signals[k].aspect = if g = k then a else w.st.signals[k].aspect := put r' rfl
  split
  · rw [lampLit_aspect]; exact base
  · exact base

/-- A replacement leaves its signal at STOP, and every other as it was (R59). -/
theorem replaceSignal_aspect (w : Work) (g k : Fin 8) :
    (w.replaceSignal g).st.signals[k].aspect = if g = k then .stop else w.st.signals[k].aspect := by
  unfold Work.replaceSignal
  dsimp only
  split
  · rw [setAspect_aspect]
    rcases eq_or_ne g k with rfl | n
    · simp
    · have : ¬ g.val = k.val := fun e => n (Fin.ext e)
      simp [this, n]
  · rename_i stop
    rcases eq_or_ne g k with rfl | n
    · cases e : w.st.signals[g].aspect
      · simp
      · exact absurd e stop
    · simp [n]

/-- A withdrawal leaves every signal at STOP (R197). -/
theorem withdraw_stops (w : Work) (k : Fin 8) : w.withdraw.st.signals[k].aspect = .stop := by
  unfold Work.withdraw
  rw [Work.emit_st]
  have all : ∀ (gs : List (Fin 8)) (w : Work),
      (gs.foldl Work.replaceSignal w).st.signals[k].aspect
        = if k ∈ gs then .stop else w.st.signals[k].aspect := by
    intro gs
    induction gs with
    | nil => simp
    | cons g gs ih =>
      intro w
      rw [List.foldl_cons, ih, replaceSignal_aspect]
      by_cases e : k ∈ gs
      · simp [e]
      · rcases eq_or_ne g k with rfl | n
        · simp
        · simp [e, n, Ne.symm n]
  rw [all, if_pos]
  clear all
  revert k
  decide

theorem lawful_withdraw (h : Lawful s w.st) : Lawful s w.withdraw.st := by
  unfold Work.withdraw
  rw [Work.emit_st]
  exact Lawful.foldlWork (fun _ g h => lawful_replaceSignal g h) _ h

end

end Sys2Proof.Machine
end

