-- ==== Sys2Proof/Tests/Slice0.lean ====
section
/-! SUPPORT. Tests: the well-formedness smoke, the manual's worked figures, one step of each kind on a small
area, and for each statement with hypotheses a state that meets them all (`witness_…`). The area is the one of
the worked examples of chapters 6 and 7: station 7, its neighbours 12 and 9, and the desk 23. -/

namespace Sys2Proof.Tests

set_option Elab.async false

open Sys2Proof Sys2Proof.Machine

/-! ## Well-formedness: one ill-formed term for each check -/

/-- A field port with no input active. -/
def quiet : FieldInputs := ⟨0, 0, 0, 0, 0, false⟩

theorem smoke_memoryTooLong (memory : List Byte) (h : memory.length = 65536) :
    (Instr.imageCheck memory quiet).wellFormed = false := by
  simp [Instr.wellFormed, h]

theorem smoke_frameTooLong (levels : List Bool) (h : levels.length = 666) :
    (Instr.frameReceive 11 levels).wellFormed = false := by
  simp [Instr.wellFormed, WellFormed.maxLevels, h]

theorem smoke_frameAsLongAsStuffed (levels : List Bool) (h : levels.length = 665) :
    (Instr.frameReceive 11 levels).wellFormed = true := by
  simp [Instr.wellFormed, WellFormed.maxLevels, h]

theorem smoke_staleStation : (Instr.staleMark (.remote 25 0)).wellFormed = false := by decide

theorem smoke_staleIndex : (Instr.staleMark (.remote 24 16)).wellFormed = false := by decide

theorem smoke_presenceStation : (Instr.presence 0 .inService 0 0).wellFormed = false := by decide

theorem smoke_presenceBlocking : (Instr.presence 24 .inService 9 0).wellFormed = false := by decide

theorem smoke_silencePeer : (Instr.silenceTimerExpiry 25).wellFormed = false := by decide

theorem smoke_orphanStation : (Instr.orphanTimerExpiry ⟨0, 1⟩).wellFormed = false := by decide

theorem smoke_orphanRoute : (Instr.orphanTimerExpiry ⟨1, 25⟩).wellFormed = false := by decide

theorem smoke_claimStation : (Instr.claimOrphanExpiry ⟨25, 1⟩).wellFormed = false := by decide

theorem smoke_claimRoute : (Instr.claimOrphanExpiry ⟨1, 0⟩).wellFormed = false := by decide

/-! ## The area -/

/-- Route 6 of the worked example of chapter 6: T3, P2, T4, P4 reverse, S6 here; T0 and S2 at 12, overlap T1. -/
def route6 : RouteRecord where
  number := 6
  entry := 1
  exit := .remoteSignal 12 26
  path :=
    [⟨0, 3, .path, .clear, 1⟩, ⟨0, 18, .path, .normal, 1⟩, ⟨0, 4, .path, .clear, 3⟩,
     ⟨0, 30, .opposing, .stop, 1⟩, ⟨12, 0, .path, .clear, 5⟩, ⟨12, 26, .exit, .stop, 0⟩]
  overlap := [⟨12, 1, .overlap, .clear, 0⟩]
  flank := []
  distant := ⟨9, 7⟩
  approach := 1
  distantLength := 800
  decel := 60
  margin := 15
  tMin := 30
  tMax := 180
  tOverlap := 30

/-- A route whose remote portions lie with 9 and 12, with one flank requirement at 12. -/
def route8 : RouteRecord := { route6 with
  number := 8
  entry := 2
  exit := .remoteSignal 12 27
  path := [⟨0, 5, .path, .clear, 1⟩, ⟨9, 0, .path, .clear, 2⟩, ⟨12, 2, .path, .clear, 3⟩, ⟨12, 27, .exit, .stop, 0⟩]
  overlap := []
  flank := [⟨⟨12, 17, .normal⟩, 1, none⟩] }

/-- A route from S3 over T6 to boundary B1. -/
def route9 : RouteRecord := { route6 with
  number := 9
  entry := 3
  exit := .boundary 1
  path := [⟨0, 6, .path, .clear, 1⟩, ⟨0, 33, .exit, .out, 0⟩]
  overlap := [] }

/-- The image of the area. -/
def area : AreaConfig := { AreaConfig.empty with
  answerTimeout := 30
  presencePeriod := 50
  settingLimit := 3000
  orphanTime := 18000
  confirmWait := 500
  startHold := 18000
  sections := Vector.replicate 16 (some ⟨4, 3, []⟩)
  points := Vector.replicate 8 (some ⟨4, 20, 600, 150⟩)
  signals := Vector.replicate 8 (some ⟨50, []⟩)
  boundaries := #v[none, some ⟨12, 0, 9, 5⟩, none, none]
  peers := [(12, .neighbour), (9, .neighbour), (23, .desk)]
  routes := [route6, route8, route9]
  remotes := [⟨9, 7, true⟩, ⟨12, 0, false⟩] }

/-- A peer that is PRESENT. -/
def present (a : Nat) (role : PeerRole) : PeerEntry := ⟨a, role, .present, some 150, none, .absent⟩

/-- The area in service: every section CLEAR, every point detected NORMAL, every signal at a proven STOP. -/
def base : State := { State.reset with
  resetHeld := false
  service := .inService
  address := some 7
  cfg := area
  keyOn := true
  presenceTimer := some 1
  tagCounter := 51
  captureTimer := 1000
  reports := []
  sections := Vector.replicate 16 { SectionRec.initial with filter := .clear }
  points := Vector.replicate 8 { PointRec.initial with commanded := some .normal, contactN := true }
  signals := Vector.replicate 8
    { SignalRec.initial with stopLamp := .lit, stopInput := true, exitProof := true }
  peers := [present 12 .neighbour, present 9 .neighbour, present 23 .desk]
  remote := [⟨9, 7, true, .clear, none, []⟩, ⟨12, 0, false, .unknown, none, []⟩] }

/-- Out of service with the key OFF. -/
def idle : State := { base with service := .outOfService, keyOn := false }

/-- Straight after a START at station 7. -/
def begun : State := { State.reset with resetHeld := false, address := some 7 }

/-- A telegram as its frame hands it over. -/
def told (source : Nat) (body : Body) : RawTelegram :=
  ⟨(bodyKind body).cls, source, (bodyKind body).code, encodeBody body⟩

/-- A telegram at the front of the receive queue. -/
def handed (s : State) (source : Nat) (body : Body) : State := { s with recvQueue := [told source body] }

/-- A command of the desk at the front of the receive queue. -/
def asked (s : State) (c : Command) : State := handed s 23 (.command 9 c)

/-- A property of the next state that a command answers, as a Bool. -/
def leads (c : Instr) (s : State) (p : State → Bool) : Bool :=
  match exec c s with
  | .next t => p t
  | _ => false

/-- The bodies that wait in the send queue. -/
def sent (s : State) : List (Nat × Body) := s.sendQueue.map fun e => (e.telegram.dest, e.telegram.body)

/-- An instance of route 6 that holds its locks, in a state. -/
def inst6 (state : RouteState) : RouteInst := { newInstance route6 3000 with
  state := state
  portions := [⟨12, [5, 6, 17], .proven, some 52⟩]
  settingTimer := none }

/-- The area with route 6 set: its locks stand, its instance is `i`. -/
def with6 (i : RouteInst) : State := { base with
  sections := base.sections.set 3 { base.sections[3] with lock := some ⟨⟨7, 6⟩, .path, none, false⟩ }
  signals := base.signals.set 1 { base.signals[1] with lock := some ⟨⟨7, 6⟩, .entry, none, false⟩ }
  instances := base.instances.set 1 (some i) }

/-- The area with an OPEN route 6, its signal at PROCEED. -/
def open6 : State := (with6 (inst6 .open)).setSignal 1
  { (with6 (inst6 .open)).signals[1] with
    aspect := .proceed, stopLamp := .dark, proceedLamp := .lit, proceedInput := true, stopInput := false }

/-! ## Figures of the manual -/

/-- Section 7.8, "the arithmetic": the worked delay and the four rows at the limits. -/
theorem test_delayFigures :
    spanSpeed 800 3200 = 2500 ∧ stopTime 2500 60 = 4167 ∧ delayOf route6 2500 = 57 ∧ spanSpeed 800 40 = 9999
      ∧ delayOf route6 9999 = 180 ∧ spanSpeed 800 60000 = 133 ∧ delayOf route6 133 = 30
      ∧ delayOf route6 1800 = 45 := by
  decide

/-- Samples given to the filter of section 2.7's example, one after the other. -/
def sampled (r : SectionRec) (xs : List Bool) : SectionRec :=
  xs.foldl (fun r x => (r.sample ⟨4, 2, []⟩ x).1) r

/-- Section 2.7, "the filter at work": the states at 50 ms, at 60 ms and at 160 ms. -/
theorem test_filterAtWork :
    (sampled { SectionRec.initial with filter := .clear } [true, true, false, true, true, true]).occupiedRun = 3
      ∧ (sampled { SectionRec.initial with filter := .clear }
          [true, true, false, true, true, true, true]).filter = .occupied
      ∧ (sampled { SectionRec.initial with filter := .clear }
          [true, true, false, true, true, true, true, false, true, false]).clearTimer = some 20 := by
  decide

/-- R199: the header of a PROVEN from 7 to 12, written out: class 00, source 00111, destination 01100, kind
000010. -/
theorem test_provenHeader :
    headerBits 7 ⟨12, .proven 1 ⟨12, 6⟩ none⟩ = 0b00_00111_01100_000010#18 := by
  decide

/-- Section 5.2, "three stations want the line": once the losers are silent the line shows the header of 7's
PROVEN, to which 3's STATE NOTICE and 5's RESERVE have lost. -/
theorem test_threeStations :
    let h7 := headerBits 7 ⟨12, .proven 1 ⟨12, 6⟩ none⟩
    arbitrationLost (headerBits 3 ⟨9, .stateNotice 0 true true false false 0⟩) h7 = true
      ∧ arbitrationLost (headerBits 5 ⟨7, .reserve 1 ⟨5, 1⟩ []⟩) h7 = true ∧ arbitrationLost h7 h7 = false := by
  decide

/-- The check values of the two checks of R199 and R201 over the nine digits "123456789", as published for
these generators with an all-ones preset. -/
theorem test_checkValues :
    checkOf (bitsOfBytes ([0x31, 0x32, 0x33, 0x34, 0x35, 0x36, 0x37, 0x38, 0x39])) = 0x29B1#16
      ∧ crcOf [0x31, 0x32, 0x33, 0x34, 0x35, 0x36, 0x37, 0x38, 0x39] = 0x0376E6E7#32 := by
  decide +kernel

/-- R200: a RESERVE of T3 PATH CLEAR and P2 PATH NORMAL under tag 9 for 07:R6, byte for byte. -/
theorem test_reserveBytes :
    encodeBody (.reserve 9 ⟨7, 6⟩ [⟨3, .path, .clear⟩, ⟨18, .path, .normal⟩])
      = [9, 7, 6, 2, 3, 0x00, 18, 0x01] := by
  decide

/-- R66: seven equal bits carry one stuff bit after the sixth. -/
theorem test_stuffing :
    stuff [true, true, true, true, true, true, true] = [true, true, true, true, true, true, false, true]
      ∧ unstuff [true, true, true, true, true, true, true] = ([true, true, true, true, true, true], true) := by
  decide

/-! ## One step each -/

/-- R188: the straps 24 are an address, 25 are none. -/
theorem test_strapsAtTheLimit :
    leads (.start 24) State.reset (fun t => t.address == some 24 && t.service == .loading) = true
      ∧ leads (.start 25) State.reset (fun t => t.loadResult == .address && t.service == .configFault) = true := by
  decide +kernel

/-- Section 1.6, "a sequence of blocking commands": BLOCK again keeps the place, UNBLOCK removes. -/
theorem test_blockingSequence :
    let two : State := { base with blocking := [(.track 5, .noMove), (.points 3, .noRoute)] }
    leads .block (asked two (.block 5 .noRoute))
        (fun t => t.blocking == [(.track 5, .noRoute), (.points 3, .noRoute)]) = true
      ∧ leads .unblock (asked two (.unblock 5)) (fun t => t.blocking == [(.points 3, .noRoute)]) = true := by
  decide +kernel

/-- R197: a WITHDRAW with a signal at PROCEED is answered behind the notice that the replacement sends (R63). -/
theorem test_withdrawIsAnsweredLast :
    let s := { open6 with cfg := { area with signals := area.signals.set 1 (some ⟨50, [12]⟩) } }
    leads .withdraw (asked s .withdraw) (fun t => (sent t).map (·.1) |>.take 2 |> (· == [12, 23])) = true := by
  decide +kernel

/-- R192, R63: at image acceptance the signals stand at STOP as before, so a watcher is sent no notice, but where the
STOP lamp proves at once. -/
theorem test_acceptanceNotifiesProvenLampsOnly :
    let c := { area with signals := area.signals.set 1 (some ⟨50, [12]⟩) }
    let accepted (inputs : FieldInputs) := begun.event (begun.joined c .kbit62 inputs) Work.lightSignals
    let noticed (t : State) := (sent t).any fun x => x.1 == 12
    (match accepted quiet with | .next t => noticed t | _ => true) = false
      ∧ (match accepted { quiet with stopProving := 2 } with | .next t => noticed t | _ => false) = true := by
  decide +kernel

/-- Section 10.5's example at 5100: over-current is the first fault, counts once and disarms the alert. -/
theorem test_overCurrentIsFirstFault :
    let s := { base with captureTimer := 5100 }.setPoint 4 { base.points[4] with
      drive := .throwing .reverse, returnPosition := some .normal, overCurrentTimer := some 0 }
    leads (.overCurrentExpiry 4) s (fun t =>
      t.firstFault == some ⟨.pointOvercurrent, .elem (.points 4), none, 5100⟩ && !t.alertArmed
        && t.faultOutput && t.points[4].drive == .dead .reverse .swingBack) = true := by
  decide +kernel

/-- Section 6.9, "a route into the neighbour's area": SET 6 locks T3, P2, S1 and S6, and asks 12 under tag 52;
the REPORTs of R178 follow in the event. -/
theorem test_setRoute6 :
    leads .set (asked base (.set 6)) (fun t =>
      (t.lockOf (.track 3)).map (·.ref) == some ⟨7, 6⟩ && (t.lockOf (.points 2)).map (·.role) == some .path
        && (t.lockOf (.signal 1)).map (·.role) == some .entry
        && (t.lockOf (.signal 6)).map (·.role) == some .opposing && t.tagCounter == 52
        && (t.sendQueue.map (·.telegram.dest)).take 2 == [23, 12]
        && (t.sendQueue.drop 2).all (fun e => bodyKind e.telegram.body == .report) && t.reports.isEmpty
        && t.requests == [⟨52, 12, .portion 1 6, .queued⟩]) = true := by
  decide +kernel

/-- Section 6.9, "the reservation is refused": reason LOCKED at the owner's third place is route index 17. -/
theorem test_refusedReservation :
    let waiting : State := { with6 { inst6 .setting with
        portions := [⟨12, [5, 6, 17], .pending, some 52⟩], settingTimer := some 2000 } with
      requests := [⟨52, 12, .portion 1 6, .waiting 20⟩] }
    leads .reserveAnswer (handed waiting 12 (.reserveAnswer 52 ⟨7, 6⟩ (some .locked) 3 [])) (fun t =>
      t.instances[1].isNone && t.lastEnded[1] == some ⟨6, some ⟨.locked, 17⟩⟩ && (t.lockOf (.track 3)).isNone)
        = true := by
  decide +kernel

/-- R26, section 2.7: 12006 goes stale; its value stays. -/
theorem test_staleKeepsValue :
    let s := base.setSection 3 { base.sections[3] with entryCapture := some ⟨12006, false⟩ }
    leads (.staleMark (.track 3)) s (fun t =>
      t.sections[3].entryCapture == some ⟨12006, true⟩ && t.captureAge 3 == 65535) = true := by
  decide +kernel

/-- R120, R121: the first of three sections clears behind the train, and is released with its signal's lock. -/
theorem test_sectionalRelease :
    let i : RouteInst := { inst6 .entered with progress := [.occupied, .occupied, .notReached] }
    let s := ((with6 i).setSection 3 { (with6 i).sections[3] with filter := .occupied, clearTimer := some 0 }).setSection 4
      { (with6 i).sections[4] with filter := .occupied, lock := some ⟨⟨7, 6⟩, .path, none, false⟩ }
    leads (.clearTimerExpiry 3) s (fun t =>
      t.instances[1].map (·.progress) == some [.released, .occupied, .notReached]
        && (t.lockOf (.track 3)).isNone && (t.lockOf (.signal 1)).isNone
        && (t.lockOf (.track 4)).isSome) = true := by
  decide +kernel

/-- R73, R82: a PRESENCE that finds 7 entries free is dropped with UNDELIVERED. -/
theorem test_presenceWithoutRoom :
    let s := { base with sendQueue := List.replicate 25 (placed 12 (.proven 1 ⟨12, 1⟩ none)), alertArmed := false }
    leads .presencePeriod s (fun t =>
      t.sendQueue.length == 25 && t.counts[13] == 1 && t.presenceTimer == some 50) = true := by
  decide +kernel

/-! ## Witnesses: for each statement with hypotheses, a state and operands that meet them all -/

theorem handed_hands (s : State) (source : Nat) (body : Body)
    (kind : (told source body).isKind (bodyKind body) = true)
    (passes : (handed s source body).vet (told source body) = .passed body) :
    (handed s source body).hands source body [] :=
  ⟨_, rfl, rfl, kind, passes⟩

theorem asked_hands (s : State) (c : Command)
    (code : (told 23 (.command 9 c)).isCommand (commandCode c) = true)
    (passes : (asked s c).vet (told 23 (.command 9 c)) = .passed (.command 9 c)) :
    (asked s c).handsCommand 23 9 c [] :=
  ⟨_, rfl, rfl, code, passes⟩

theorem witness_EmptyQueueLetsTimePass :
    State.reset.pending = [] ∧ State.reset.resetHeld = true ∧ base.pending = [] ∧ base.resetHeld = false := by
  decide +kernel

theorem witness_ResetStopsEverything :
    State.reset.resetHeld = true ∧ (∀ straps, Instr.presencePeriod ≠ .start straps)
      ∧ Instr.presencePeriod ≠ .resetAsserted :=
  ⟨rfl, nofun, nofun⟩

theorem witness_RejectedImageEntersConfigFault :
    begun.ready ∧ begun.service = .loading ∧ checkImage [] begun.own = .error .format := by
  refine ⟨⟨rfl, rfl⟩, rfl, ?_⟩
  decide +kernel

/-- An image of station 7 by R201, with T3 and S1 alone. -/
def image : List Byte :=
  ([0, 1, 0, 33, 7, 3, 0, 150, 0, 50, 11, 184, 70, 80, 1, 244, 70, 80, 2, 0, 0, 3, 4, 3, 0, 25, 0, 50, 0,
    227, 161, 150, 59] : List Nat).map byte

theorem witness_AcceptedImageEntersJoining :
    begun.ready ∧ begun.service = .loading ∧ (∃ im, checkImage image begun.own = .ok im) ∧ begun.vacant
      ∧ begun.reservations = [] := by
  refine ⟨⟨rfl, rfl⟩, rfl, ?_, ?_, rfl⟩
  · have h : (checkImage image begun.own).isOk = true := by decide +kernel
    revert h
    cases checkImage image begun.own with
    | error e => intro h; cases h
    | ok im => intro _; exact ⟨im, rfl⟩
  · intro g; revert g; decide +kernel

/-- R191, R192: the image is accepted into JOINING, with S1's STOP lamp awaiting its proof. -/
theorem test_imageAccepted :
    leads (.imageCheck image quiet) begun (fun t =>
      t.service == .joining && t.signals[1].stopLamp == .awaiting && t.signals[2].stopLamp == .dark
        && t.startHoldTimer == some 18000 && t.bitRate == .kbit250) = true := by
  decide +kernel

theorem witness_HoldAndKeyMoveService :
    (let s := { idle with service := .joining, startHoldTimer := some 0 };
      s.resetHeld = false ∧ s.service = .joining ∧ s.startHoldTimer.isSome = true)
      ∧ (idle.resetHeld = false ∧ idle.service = .outOfService ∧ idle.keyOn = false)
      ∧ base.resetHeld = false ∧ base.service = .inService ∧ base.keyOn = true := by
  decide +kernel

/-- A section whose filter stands in a state, with an occupied run and a clear timer. -/
def filtered (f : FilterState) (run : Nat) (timer : Option Nat) : State :=
  base.setSection 3 { base.sections[3] with filter := f, occupiedRun := run, clearTimer := timer }

/-- The sample count 4 is met from a run of 3 and not from a run of 2. -/
theorem witness_ClearFilterCountsOccupiedRun :
    (∀ run ∈ [2, 3], (filtered .clear run none).sampling = true
      ∧ (filtered .clear run none).cfg.sections[3] = some ⟨4, 3, []⟩
      ∧ (filtered .clear run none).sections[3].filter = .clear)
    ∧ (∃ t, step (filtered .clear 2 none) = .next t) ∧ (filtered .clear 2 none).clearTimersStopped := by
  refine ⟨by decide +kernel, ⟨_, rfl⟩, by unfold State.clearTimersStopped; decide +kernel⟩

theorem witness_OccupiedAndUndecidedFilterDecide :
    (∀ timer ∈ [none, some 0], ∀ f ∈ [FilterState.occupied, .undecided], (filtered f 1 timer).sampling = true
      ∧ (filtered f 1 timer).cfg.sections[3] = some ⟨4, 3, []⟩ ∧ (filtered f 1 timer).sections[3].filter = f)
      ∧ (filtered .occupied 0 (some 0)).equipped (.track 3) = true
      ∧ (filtered .occupied 0 (some 0)).sections[3].clearTimer.isSome = true := by
  decide +kernel

/-- An OPEN route 6 with T3 one occupied sample short of OCCUPIED. -/
def entering : State := open6.setSection 3 { open6.sections[3] with occupiedRun := 3 }

theorem witness_TrainEntryEntersOpenRoute :
    entering.ready ∧ entering.sampling = true ∧ entering.cfg.sections[3] = some ⟨4, 3, []⟩
      ∧ entering.sections[3].filter = .clear ∧ 4 ≤ entering.sections[3].occupiedRun + 1
      ∧ entering.running 1 = some (inst6 .open, route6) ∧ (∀ h : Fin 8, h ≠ 1 → entering.instances[h] = none)
      ∧ (inst6 .open).state = .open ∧ (inst6 .open).progress = [.notReached, .notReached, .notReached]
      ∧ (inst6 .open).released = [] ∧ pathPlace route6 ⟨0, 3⟩ = some 0
      ∧ entering.sections[3].lock = some ⟨⟨7, 6⟩, .path, none, false⟩
      ∧ (⟨7, 6⟩ : RouteRef) = entering.ownRef (inst6 .open).route ∧ entering.exitTasks 1 true = [] := by
  refine ⟨⟨rfl, rfl⟩, ?_⟩
  decide +kernel

/-- Route 6 in HELD without its remote portion, T3 one occupied sample short of OCCUPIED. -/
def passing : State :=
  let s := with6 { inst6 .held with portions := [] }
  s.setSection 3 { s.sections[3] with occupiedRun := 3 }

theorem witness_TrainEntryEntersOpenRoute_overrun :
    let i : RouteInst := { inst6 .held with portions := [] }
    passing.sampled ∧ passing.cfg.sections[3] = some ⟨4, 3, []⟩ ∧ passing.sections[3].filter = .clear
      ∧ 4 ≤ passing.sections[3].occupiedRun + 1 ∧ passing.running 1 = some (i, route6)
      ∧ (∀ h : Fin 8, h ≠ 1 → passing.instances[h] = none) ∧ i.state = .held ∧ i.awaitingDirection = false
      ∧ i.portions = [] ∧ i.flank = [] ∧ i.progress = [.notReached, .notReached, .notReached]
      ∧ pathPlace route6 ⟨0, 3⟩ = some 0 ∧ (pathSections route6).length ≠ 1
      ∧ passing.sections[3].lock = some ⟨passing.ownRef i.route, .path, none, false⟩
      ∧ passing.signals[1].aspect = .stop := by
  refine ⟨⟨⟨rfl, rfl⟩, ?_⟩, ?_⟩ <;> decide +kernel

/-- An OPEN route 6 with T4, its second section, one occupied sample short of OCCUPIED. -/
def skipping : State := open6.setSection 4 { open6.sections[4] with
  occupiedRun := 3, lock := some ⟨⟨7, 6⟩, .path, none, false⟩ }

theorem witness_TrainEntryEntersOpenRoute_sequence :
    skipping.sampled ∧ skipping.cfg.sections[4] = some ⟨4, 3, []⟩ ∧ skipping.sections[4].filter = .clear
      ∧ 4 ≤ skipping.sections[4].occupiedRun + 1 ∧ skipping.running 1 = some (inst6 .open, route6)
      ∧ (∀ h : Fin 8, h ≠ 1 → skipping.instances[h] = none) ∧ (inst6 .open).entered = false
      ∧ (inst6 .open).progressAt 1 = .notReached ∧ (inst6 .open).released = [] ∧ (inst6 .open).faultMarks = []
      ∧ pathPlace route6 ⟨0, 4⟩ = some (0 + 1)
      ∧ (pathSections route6)[0 + 1]? = some (3, ⟨0, 4, .path, .clear, 3⟩) ∧ 0 + 2 < (pathSections route6).length
      ∧ skipping.sections[4].lock = some ⟨skipping.ownRef 6, .path, none, false⟩
      ∧ skipping.sections[4].sequenceFault = false ∧ skipping.signals[1].aspect = .proceed
      ∧ skipping.signals[1].stopInput = false := by
  refine ⟨⟨⟨rfl, rfl⟩, ?_⟩, ?_⟩ <;> decide +kernel

/-- Route 6 entered with its train on T3 and T4, T3 about to clear. -/
def inst6Entered : RouteInst :=
  { inst6 .entered with portions := [], progress := [.occupied, .occupied, .notReached] }

/-- The area with route 6 entered so. -/
def clearing : State := { with6 inst6Entered with
  sections := ((with6 inst6Entered).sections.set 4 { base.sections[4] with
    filter := .occupied, lock := some ⟨⟨7, 6⟩, .path, none, false⟩ }).set 3 { base.sections[3] with
    filter := .occupied, clearTimer := some 0, lock := some ⟨⟨7, 6⟩, .path, none, false⟩ } }

theorem witness_TrainEntryEntersOpenRoute_release :
    clearing.sampled ∧ clearing.equipped (.track 3) = true ∧ clearing.sections[3].filter = .occupied
      ∧ clearing.sections[3].clearTimer.isSome = true ∧ clearing.running 1 = some (inst6Entered, route6)
      ∧ (∀ h : Fin 8, h ≠ 1 → clearing.instances[h] = none) ∧ inst6Entered.state = .entered
      ∧ inst6Entered.faultMarks = [] ∧ inst6Entered.released = [] ∧ inst6Entered.flank = []
      ∧ pathPlace route6 ⟨0, 3⟩ = some 0
      ∧ ((pathSections route6)[1]?.all fun y =>
          sectionOf y.2 != ⟨0, 3⟩ && clearing.imageOf (sectionOf y.2) != .clear) = true
      ∧ clearing.sections[3].lock = some ⟨clearing.ownRef 6, .path, none, false⟩ ∧ clearing.pointsIn 3 = []
      ∧ clearing.signals[route6.entry].aspect = .stop := by
  refine ⟨⟨⟨rfl, rfl⟩, ?_⟩, ?_⟩ <;> decide +kernel

theorem witness_StaleMarkChangesNothingElse :
    (let s := base.setSection 3 { base.sections[3] with entryCapture := some ⟨12006, false⟩ };
      s.ready ∧ s.sections[3].entryCapture = some ⟨12006, false⟩)
      ∧ (let e : RemoteEntry := ⟨24, 15, true, .clear, some ⟨41000, false⟩, []⟩;
        let s : State := { base with remote := [e] };
        s.ready ∧ s.remote = [e] ∧ e.station = 24 ∧ e.index = 15 ∧ e.capture = some ⟨41000, false⟩) := by
  refine ⟨⟨⟨rfl, rfl⟩, ?_⟩, ⟨rfl, rfl⟩, ?_⟩ <;> decide +kernel

/-- P5 claimed NORMAL by 12:R1 under tag 4. -/
def claimedBy12 (st : EntryState) : State :=
  ({ base with register := [⟨⟨12, 1⟩, st, [⟨.points 5, .normal, 4, .proven⟩]⟩] } : State).setPoint 5
    { base.points[5] with claims := [⟨⟨12, 1⟩, .normal, 1⟩] }

theorem witness_LostDetectionUnprovesPoint :
    base.sampled ∧ base.equipped (.points 7) = true ∧ base.points[(7 : Fin 8)].drive = .rest
      ∧ base.points[(7 : Fin 8)].commanded = some .normal ∧ base.points[(7 : Fin 8)].detected = some .normal
      ∧ base.points[(7 : Fin 8)].lock = none ∧ base.points[(7 : Fin 8)].claims = []
      ∧ (detectionOf true true).position ≠ some .normal := by
  refine ⟨⟨⟨rfl, rfl⟩, ?_⟩, ?_⟩ <;> decide +kernel

theorem witness_LostDetectionUnprovesPoint_held :
    let s := open6.setPoint 2 { open6.points[2] with lock := some ⟨⟨7, 6⟩, .path, some .normal, false⟩ }
    s.sampled ∧ s.equipped (.points 2) = true ∧ s.points[2].drive = .rest
      ∧ s.points[2].commanded = some .normal ∧ s.points[2].detected = some .normal
      ∧ (detectionOf false false).position ≠ some .normal
      ∧ s.points[2].lock = some ⟨s.ownRef (inst6 .open).route, .path, some .normal, false⟩
      ∧ s.points[2].claims = [] ∧ s.instanceOf (inst6 .open).route = some (1, inst6 .open)
      ∧ s.signals[1].aspect = .proceed ∧ s.signals[1].stopInput = false := by
  refine ⟨⟨⟨rfl, rfl⟩, ?_⟩, ?_⟩ <;> decide +kernel

theorem witness_LostDetectionUnprovesPoint_claimed :
    let s := claimedBy12 .active
    s.sampled ∧ s.equipped (.points 5) = true ∧ s.points[5].drive = .rest ∧ s.points[5].lock = none
      ∧ s.points[5].commanded = some .normal ∧ s.points[5].detected = some .normal
      ∧ s.points[5].claims = [⟨⟨12, 1⟩, .normal, 1⟩] ∧ 12 ≠ s.own
      ∧ s.activeClaims ⟨12, 1⟩ = some ⟨⟨12, 1⟩, .active, [⟨.points 5, .normal, 4, .proven⟩]⟩
      ∧ s.sendQueue.length + 2 ≤ 32 := by
  refine ⟨⟨⟨rfl, rfl⟩, ?_⟩, ?_⟩ <;> decide +kernel

/-- P4 moved by the desk from NORMAL to REVERSE, its contacts open. -/
def throwing : State := base.setPoint 4 { base.points[4] with
  commanded := some .reverse
  contactN := false
  drive := .throwing .reverse
  returnPosition := some .normal
  throwTimer := some 0
  overCurrentTimer := some 0
  requesters := [.desk] }

theorem witness_DetectionCompletesThrow :
    throwing.sampled ∧ throwing.cfg.points[4] = some ⟨4, 20, 600, 150⟩
      ∧ throwing.points[4].drive = .throwing .reverse ∧ throwing.points[4].lock = none
      ∧ throwing.points[4].claims = [] ∧ throwing.points[4].requesters = [.desk]
      ∧ throwing.points[4].detection ≠ .at .reverse ∧ detectionOf false true = .at .reverse := by
  refine ⟨⟨⟨rfl, rfl⟩, ?_⟩, ?_⟩ <;> decide +kernel

/-- Route 6 in POSITIONING with the images of its remote sections CLEAR. -/
def positioning6 (p : Portion) : State := { with6 { inst6 .positioning with portions := [p] } with
  remote := [⟨12, 0, false, .clear, none, [6]⟩, ⟨12, 1, false, .clear, none, [6]⟩] }

/-- Its remote portion, PROVEN. -/
def proven12 : Portion := ⟨12, [5, 6, 17], .proven, some 52⟩

/-- R63: a SET whose flank claim on S1 withdraws its PROCEED, and whose rollback at once clears it again (R62, R105,
R146), still sends the watcher of S1 one notice. -/
theorem test_reclearedSignalIsNoticed :
    let s := positioning6 proven12
    let route10 : RouteRecord := { route6 with
      number := 10, entry := 3, exit := .localSignal 5, overlap := []
      path := [⟨0, 6, .path, .clear, 1⟩, ⟨0, 29, .exit, .stop, 0⟩]
      flank := [⟨⟨0, 25, .stop⟩, 1, none⟩, ⟨⟨0, 21, .reverse⟩, 1, none⟩] }
    let s := { s with
      cfg := { s.cfg with routes := [route6, route10], signals := s.cfg.signals.set 1 (some ⟨50, [12]⟩) }
      blocking := [(.points 5, .noMove)]
      instances := s.instances.set 1 (some { inst6 .positioning with portions := [proven12], inStep := true })
      signals := s.signals.set 1 { s.signals[1] with
        aspect := .proceed, stopLamp := .dark, proceedLamp := .awaiting, stopInput := false
        provingTimer := some 50, clearingRoute := some ⟨7, 6⟩ } }
    leads .set (asked s (.set 10)) (fun t => t.signals[1].aspect == .proceed && t.instances[3].isNone
      && ((sent t).filter (·.1 == 12)).map (·.2) == [.stateNotice 25 true false false false 65535]) = true := by
  decide +kernel

/-- P2 thrown to NORMAL for route 6, its contacts open. -/
def called6 : State := (positioning6 proven12).setPoint 2 { base.points[2] with
  contactN := false, drive := .throwing .normal, returnPosition := some .reverse, throwTimer := some 0
  requesters := [.holder ⟨7, 6⟩], lock := some ⟨⟨7, 6⟩, .path, some .normal, false⟩ }

theorem witness_DetectionCompletesThrow_route :
    let i : RouteInst := { inst6 .positioning with portions := [proven12] }
    let after := { called6.points[2] with
      contactN := true, contactR := false, drive := .rest, returnPosition := none, throwTimer := none
      overCurrentTimer := none, requesters := [], lastResult := .achieved, reversalLock := some (.normal, 20) }
    called6.sampled ∧ called6.cfg.points[2] = some ⟨4, 20, 600, 150⟩
      ∧ called6.points[2].drive = .throwing .normal ∧ called6.points[2].claims = []
      ∧ called6.points[2].detection ≠ .at .normal ∧ detectionOf true false = .at .normal
      ∧ called6.points[2].lock = some ⟨called6.ownRef i.route, .path, some .normal, false⟩
      ∧ called6.points[2].requesters = [.holder (called6.ownRef i.route)]
      ∧ called6.points[2].commanded = some .normal ∧ called6.instanceOf i.route = some (1, i)
      ∧ called6.running 1 = some (i, route6) ∧ i.state = .positioning ∧ i.inStep = false
      ∧ (called6.setPoint 2 after).firstMissing 1 i route6 = none
      ∧ (called6.setPoint 2 after).clearRefusal 1 ⟨7, 6⟩ = none ∧ called6.signals[1].proceedInput = false := by
  refine ⟨⟨⟨rfl, rfl⟩, ?_⟩, ?_⟩ <;> decide +kernel

theorem witness_CurrentSenseRunsTimerWhileDriving :
    throwing.sampled ∧ throwing.cfg.points[4] = some ⟨4, 20, 600, 150⟩
      ∧ (throwing.points[4].drive = .throwing .reverse ∧ true ≠ throwing.points[4].senseActive)
      ∧ throwing.points[5].drive = .rest := by
  refine ⟨⟨⟨rfl, rfl⟩, ?_⟩, ?_⟩ <;> decide +kernel

theorem witness_FailedThrowWaitsForSwingBack :
    (throwing.sampled ∧ throwing.cfg.points[4] = some ⟨4, 20, 600, 150⟩
      ∧ throwing.points[4].drive = .throwing .reverse ∧ throwing.points[4].returnPosition = some .normal
      ∧ Position.normal ≠ .reverse ∧ throwing.points[4].throwTimer.isSome = true
      ∧ throwing.points[4].overCurrentTimer.isSome = true)
    ∧ (let s := throwing.setPoint 4 { throwing.points[4] with drive := .swingBack .reverse };
      s.sampled ∧ s.cfg.points[4] = some ⟨4, 20, 600, 150⟩ ∧ s.points[4].drive = .swingBack .reverse
      ∧ s.points[4].returnPosition = some .normal ∧ s.points[4].throwTimer.isSome = true
      ∧ s.points[4].lock = none ∧ s.points[4].claims = [] ∧ s.points[4].requesters = [.desk]) := by
  refine ⟨⟨⟨⟨rfl, rfl⟩, ?_⟩, ?_⟩, ⟨⟨rfl, rfl⟩, ?_⟩, ?_⟩ <;> decide +kernel

/-- P4 in a drive state, with the reversal lock standing toward NORMAL. -/
def reversing (d : Drive) : State := throwing.setPoint 4 { throwing.points[4] with
  drive := d, reversalLock := some (.normal, 0) }

theorem witness_ReversalExpiryStartsWaitingThrow :
    (∀ d, (reversing d).sampled)
      ∧ (∀ d ∈ [Drive.dead .reverse .throw, .dead .reverse .swingBack, .rest],
        (reversing d).cfg.points[4] = some ⟨4, 20, 600, 150⟩ ∧ (reversing d).points[4].drive = d
          ∧ (reversing d).points[4].reversalLock.isSome = true)
      ∧ (reversing (.dead .reverse .throw)).points[4].detection ≠ .at .reverse
      ∧ (reversing (.dead .reverse .swingBack)).points[4].returnPosition = some .normal
      ∧ (reversing (.dead .reverse .swingBack)).points[4].detection ≠ .at .reverse
      ∧ (reversing (.dead .reverse .swingBack)).points[4].detection ≠ .at .normal := by
  refine ⟨fun d => ⟨⟨rfl, rfl⟩, rfl⟩, ?_⟩
  decide +kernel

/-- Route 6 in a state and in step or not, its signal at PROCEED with its lamp in a state. -/
def proceeding (st : RouteState) (inStep : Bool) (lamp : LampState) : State :=
  let s := with6 { inst6 st with inStep := inStep }
  s.setSignal 1 { s.signals[1] with
    aspect := .proceed, stopLamp := .dark, stopInput := false, proceedLamp := lamp, provingTimer := some 0
    clearingRoute := some ⟨7, 6⟩ }

theorem witness_LitLampFlickersProven_opens :
    let s := proceeding .positioning true .awaiting
    let i : RouteInst := { inst6 .positioning with inStep := true }
    s.sampled ∧ s.equipped (.signal 1) = true ∧ s.signals[1].aspect = .proceed
      ∧ s.signals[1].proceedLamp = .awaiting ∧ s.signals[1].proceedInput = false ∧ s.signals[1].exitProof = true
      ∧ s.instances[1] = some i ∧ i.inStep = true ∧ s.signals[1].clearingRoute = some (s.ownRef i.route) := by
  refine ⟨⟨⟨rfl, rfl⟩, ?_⟩, ?_⟩ <;> decide +kernel

theorem witness_LitLampFlickersProven :
    (base.sampled ∧ base.cfg.signals[7] = some ⟨50, []⟩ ∧ base.signals[(7 : Fin 8)].aspect = lampAspect .stop
      ∧ base.signals[(7 : Fin 8)].litLamp = .lit ∧ base.signals[(7 : Fin 8)].input (lampAspect .stop) = true)
      ∧ (let s := open6.setSignal 1 { open6.signals[1] with proceedLamp := .interrupted, proceedInput := false };
        s.sampled ∧ s.cfg.signals[1] = some ⟨50, []⟩ ∧ s.signals[1].aspect = lampAspect .proceed
        ∧ s.signals[1].litLamp = .interrupted ∧ s.signals[1].input (lampAspect .proceed) = false) := by
  refine ⟨⟨⟨⟨rfl, rfl⟩, ?_⟩, ?_⟩, ⟨⟨rfl, rfl⟩, ?_⟩, ?_⟩ <;> decide +kernel

theorem witness_UnprovenStopLampFails_proceed :
    ∀ x ∈ [(RouteState.open, false, LampState.interrupted), (.positioning, true, .awaiting)],
      let s := proceeding x.1 x.2.1 x.2.2
      let i : RouteInst := { inst6 x.1 with inStep := x.2.1 }
      s.sampled ∧ s.equipped (.signal 1) = true ∧ s.signals[1].aspect = .proceed
        ∧ s.signals[1].proceedLamp = x.2.2 ∧ s.signals[1].provingTimer.isSome = true
        ∧ s.signals[1].stopInput = false ∧ s.signals[1].clearingRoute = some ⟨7, 6⟩
        ∧ s.instanceOf 6 = some (1, i) ∧ (i.state = .open ∨ i.inStep = true) := by
  intro x hx
  simp only [List.mem_cons, List.not_mem_nil, or_false] at hx
  rcases hx with rfl | rfl <;> refine ⟨⟨⟨rfl, rfl⟩, ?_⟩, ?_⟩ <;> decide +kernel

theorem witness_UnprovenStopLampFails :
    let s := base.setSignal 7 { base.signals[(7 : Fin 8)] with stopLamp := .interrupted, provingTimer := some 0 }
    s.sampled ∧ s.equipped (.signal 7) = true ∧ s.signals[(7 : Fin 8)].aspect = .stop
      ∧ (s.signals[(7 : Fin 8)].stopLamp = .awaiting ∨ s.signals[(7 : Fin 8)].stopLamp = .interrupted)
      ∧ s.signals[(7 : Fin 8)].provingTimer.isSome = true ∧ s.exitTasks 7 false = [] := by
  refine ⟨⟨⟨rfl, rfl⟩, ?_⟩, ?_⟩ <;> decide +kernel

/-- A DIRECTION REQUEST and a CONFIRM wait to be sent; the first has had attempts if it is on the line. -/
def queued (attempts : Nat) (onLine : Bool) : State := { base with
  sendQueue := [⟨⟨12, .directionRequest 51 0⟩, attempts, false, [], false⟩, ⟨⟨12, .confirm 7 0 3⟩, 0, false, [], false⟩]
  sending := if onLine then some [false] else none }

/-- A CONFIRM on the line, at its last attempt. -/
def lastTry : State := { base with
  sendQueue := [⟨⟨12, .confirm 7 0 3⟩, 3, false, [], false⟩]
  sending := some [false] }

theorem witness_ContentionWinsOrLosesTheHeader :
    (queued 0 false).ready ∧ (queued 0 false).lineUsed = true ∧ (queued 0 false).sending = none
      ∧ (queued 0 false).nextFrame = some 0
      ∧ (queued 0 false).sendQueue[0]? = some ⟨⟨12, .directionRequest 51 0⟩, 0, false, [], false⟩
      ∧ (queued 0 false).idleNeeded ≤ 11
      ∧ arbitrationLost (headerBits (queued 0 false).own ⟨12, .directionRequest 51 0⟩) 0 = true := by
  refine ⟨⟨rfl, rfl⟩, ?_⟩
  decide +kernel

/-- Nine has no boundary here. -/
theorem noBoundaryAt9 (s : State) (h : s.cfg.boundaries = area.boundaries) : s.noBoundaryAt 9 := by
  intro b c hc
  rw [h] at hc
  have all : ∀ b : Fin 4, area.boundaries[b].all (·.neighbour != 9) = true := by decide +kernel
  have := all b
  rw [hc] at this
  simpa using this

/-- A PROVEN to 9 on the line, at its last attempt. -/
def lastProof : State := { base with
  sendQueue := [⟨⟨9, .proven 1 ⟨9, 1⟩ none⟩, 3, false, [], false⟩]
  sending := some [false] }

theorem witness_gaveUp_proof :
    lastProof.ready ∧ lastProof.onLine = some 0
      ∧ lastProof.sendQueue[0]? = some ⟨⟨9, .proven 1 ⟨9, 1⟩ none⟩, 3, false, [], false⟩
      ∧ telegramClass ⟨9, .proven 1 ⟨9, 1⟩ none⟩ = 0 ∧ lastProof.peer 9 = some (present 9 .neighbour)
      ∧ lastProof.vacant ∧ lastProof.noBoundaryAt 9 := by
  refine ⟨⟨rfl, rfl⟩, ?_, ?_, ?_, ?_, ?_, noBoundaryAt9 _ rfl⟩
  all_goals first | decide +kernel | (intro g; revert g; decide +kernel)

/-- A train has left over B1, and its OFFER waits for an answer. -/
def offering (o : OutboundState) : State := (({ base with
  requests := [⟨51, 12, .offer 1, .waiting 0⟩] } : State).setBoundary 1
    { base.boundaries[1] with direction := .out, outbound := [⟨301, 1500, 51, o, some 0⟩] })

/-- R74, R170: a CONFIRM that removes a record removes its pending entry, and an OFFER still in the send queue stays
there; given up, it changes no table. -/
theorem test_confirmLeavesTheOfferQueued :
    let s := { offering .offered with
      requests := [⟨51, 12, .offer 1, .queued⟩], sendQueue := [placed 12 (.offer 51 0 301 1500 5)] }
    let e : SendEntry := ⟨⟨12, .offer 51 0 301 1500 5⟩, 3, false, [], true⟩
    let late := { base with
      sendQueue := [e], sending := some [false], requests := [⟨51, 12, .direction 1, .queued⟩] }
    leads .confirm (handed s 12 (.confirm 51 1 301))
        (fun t => t.boundaries[1].outbound.isEmpty && t.requests.isEmpty
          && (t.sendQueue.head?.map fun e => (e.telegram.body, e.settled)) == some (.offer 51 0 301 1500 5, true)) = true
      ∧ leads (.acknowledgementSlot true) late (fun t => t.requests == late.requests && t.sendQueue.isEmpty) = true
      ∧ leads (.acknowledgementSlot false) late (fun t =>
        t.requests == late.requests && t.counts[faultIndex .undelivered] == 1) = true := by
  decide +kernel

theorem witness_gaveUp_offer :
    let s := { offering .offered with
      sendQueue := [⟨⟨12, .offer 51 0 301 1500 5⟩, 3, false, [], false⟩], sending := some [false] }
    s.ready ∧ s.onLine = some 0 ∧ s.sendQueue[0]? = some ⟨⟨12, .offer 51 0 301 1500 5⟩, 3, false, [], false⟩
      ∧ s.requestsHold ∧ (⟨51, 12, .offer 1, .waiting 0⟩ : Request) ∈ s.requests
      ∧ (placed 12 (.offer 51 0 301 1500 5)).pendingTag = some 51 := by
  refine ⟨⟨rfl, rfl⟩, ?_, ?_, ⟨?_, ?_⟩, ?_⟩ <;> decide +kernel

theorem witness_LineErrorRepeatsThenGivesUp :
    ((queued 2 true).ready ∧ (queued 2 true).onLine = some 0
      ∧ (queued 2 true).sendQueue[0]? = some ⟨⟨12, .directionRequest 51 0⟩, 2, false, [], false⟩)
      ∧ lastTry.ready ∧ lastTry.onLine = some 0
      ∧ lastTry.sendQueue[0]? = some ⟨⟨12, .confirm 7 0 3⟩, 3, false, [], false⟩
      ∧ bodyTag (.confirm 7 0 3) = none ∧ telegramClass ⟨12, .confirm 7 0 3⟩ ≠ 0 := by
  refine ⟨⟨⟨rfl, rfl⟩, ?_⟩, ⟨rfl, rfl⟩, ?_⟩ <;> decide +kernel

theorem witness_SlotDeliversOrRepeats :
    ((queued 2 true).ready ∧ (queued 2 true).onLine = some 0
      ∧ (queued 2 true).sendQueue[0]? = some ⟨⟨12, .directionRequest 51 0⟩, 2, false, [], false⟩ ∧ (12 : Nat) ≠ 0
      ∧ (2 : Nat) < 3)
    ∧ (lastTry.ready ∧ lastTry.onLine = some 0 ∧ lastTry.sendQueue[0]? = some ⟨⟨12, .confirm 7 0 3⟩, 3, false, [], false⟩)
    ∧ (let e : SendEntry := ⟨⟨0, .presence .inService 0 0⟩, 1, false, [9], false⟩;
      let s : State := { base with sendQueue := [e], sending := some [false], reports := [.controller] };
      s.ready ∧ s.onLine = some 0 ∧ s.sendQueue[0]? = some e ∧ s.lineUsed = true
      ∧ bodyKind e.telegram.body = .presence) := by
  refine ⟨⟨⟨rfl, rfl⟩, ?_⟩, ⟨⟨rfl, rfl⟩, ?_⟩, ⟨rfl, rfl⟩, ?_⟩ <;> decide +kernel

/-- The levels of a COMMAND of the desk to station 7. -/
def frame7 : List Bool := frameLevels 23 ⟨7, .command 9 .admission⟩

/-- The same with its last level turned. -/
def spoilt7 : List Bool := frame7.dropLast ++ [!frame7.getLast!]

/-- A receive queue with 15, and with 16, telegrams. -/
def crowded (n : Nat) : State := { base with recvQueue := List.replicate n (told 12 (.confirm 1 0 3)) }

theorem witness_IntactFrameIsTakenAndAcknowledged :
    ((crowded 15).ready ∧ (crowded 16).ready)
      ∧ (∀ n ∈ [15, 16], (crowded n).lineUsed = true ∧ (crowded n).sending = none ∧ (crowded n).address = some 7)
      ∧ readFrame frame7 = .intact 7 (told 23 (.command 9 .admission))
      ∧ (crowded 15).recvQueue.length < 16 ∧ 16 ≤ (crowded 16).recvQueue.length
      ∧ readFrame spoilt7 = .badCheck 7 := by
  refine ⟨⟨⟨rfl, rfl⟩, rfl, rfl⟩, ?_⟩
  decide +kernel

theorem witness_PresenceMovesPeerByView :
    (let s : State := { base with address := some 24, peers := [⟨12, .neighbour, .lost, none, some (1, 16), .announced⟩] };
      s.ready ∧ s.lineUsed = true ∧ s.address = some 24 ∧ (1 ≤ 24 ∧ 24 ≤ 24)
      ∧ s.peer 12 = some ⟨12, .neighbour, .lost, none, some (1, 16), .announced⟩
      ∧ Muting.announced ≠ .pending ∧ PeerState.lost ≠ .present)
    ∧ (base.ready ∧ base.lineUsed = true ∧ base.address = some 7 ∧ base.peer 9 = some (present 9 .neighbour)
      ∧ (present 9 .neighbour).muting ≠ .pending ∧ (0x40 : BitVec 24).getLsbD (7 - 1) = true
      ∧ (0x3F : BitVec 24).getLsbD (7 - 1) = false ∧ base.vacant ∧ base.noBoundaryAt 9)
    ∧ (let s : State := { base with peers := [⟨12, .neighbour, .lost, none, none, .pending⟩] };
      s.ready ∧ s.lineUsed = true ∧ s.peer 12 = some ⟨12, .neighbour, .lost, none, none, .pending⟩) := by
  refine ⟨⟨⟨rfl, rfl⟩, ?_⟩, ⟨⟨rfl, rfl⟩, ?_, ?_, ?_, ?_, ?_, ?_, ?_, noBoundaryAt9 _ rfl⟩, ⟨rfl, rfl⟩, ?_⟩
  all_goals first | decide +kernel | (intro g; revert g; decide +kernel)

theorem witness_PresencePeriodAnnounces :
    (base.ready ∧ base.presenceTimer.isSome = true ∧ base.sendQueue.length + 8 ≤ 32)
      ∧ (let s := { base with sendQueue := List.replicate 25 (placed 12 (.proven 1 ⟨12, 1⟩ none)) };
        s.ready ∧ s.presenceTimer.isSome = true ∧ 32 < s.sendQueue.length + 8) := by
  refine ⟨⟨⟨rfl, rfl⟩, ?_⟩, ⟨rfl, rfl⟩, ?_⟩ <;> decide +kernel

/-- B1 asks its neighbour for direction. -/
def asking : State := ({ base with
  requests := [⟨51, 12, .direction 1, .waiting 20⟩] } : State).setBoundary 1
    { base.boundaries[1] with direction := .asking .into }

theorem witness_SilenceLosesPeerAndOrphans :
    (let s := { base with peers := [⟨12, .neighbour, .half, some 0, none, .absent⟩] };
      s.ready ∧ s.peer 12 = some ⟨12, .neighbour, .half, some 0, none, .absent⟩)
      ∧ asking.ready ∧ asking.peer 12 = some (present 12 .neighbour) ∧ (present 12 .neighbour).silence.isSome = true
      ∧ asking.vacant ∧ asking.sending = none ∧ asking.cfg.boundaries[1] = some ⟨12, 0, 9, 5⟩
      ∧ asking.boundaries[1].direction = .asking .into
      ∧ ∀ b : Fin 4, asking.boundaries[b].claims.length + asking.boundaries[b].waiting.length ≤ 4 := by
  refine ⟨⟨⟨rfl, rfl⟩, ?_⟩, ⟨rfl, rfl⟩, ?_, ?_, ?_, ?_, ?_⟩
  all_goals first | decide +kernel | (intro g; revert g; decide +kernel)

theorem witness_SilenceLosesPeerAndOrphans_routes :
    ∀ i ∈ [inst6 .held, { inst6 .positioning with settingTimer := some 7 }],
      (with6 i).ready ∧ (with6 i).peer 12 = some (present 12 .neighbour) ∧ (with6 i).plainRoute 1 i route6
        ∧ (∀ h : Fin 8, h ≠ 1 → (with6 i).instances[h] = none) ∧ i.portions = [proven12]
        ∧ proven12.state.holding = true ∧ i.state ≠ .emergency
        ∧ (with6 i).holdsLock ((with6 i).ownRef i.route) = true := by
  intro i hi
  simp only [List.mem_cons, List.not_mem_nil, or_false] at hi
  unfold State.plainRoute RouteInst.portionsFit
  rcases hi with rfl | rfl <;> refine ⟨⟨rfl, rfl⟩, ?_⟩ <;> decide +kernel

theorem witness_PassedDeadlineLeavesOfferUnanswered :
    ((offering .offered).ready ∧ (offering .offered).requestsHold
      ∧ (⟨51, 12, .offer 1, .waiting 0⟩ : Request) ∈ (offering .offered).requests)
    ∧ asking.ready ∧ asking.requestsHold ∧ (⟨51, 12, .direction 1, .waiting 20⟩ : Request) ∈ asking.requests
      ∧ asking.boundaries[1].direction = .asking .into ∧ asking.boundaries[1].waiting = [] := by
  refine ⟨⟨⟨rfl, rfl⟩, ⟨?_, ?_⟩, ?_⟩, ⟨rfl, rfl⟩, ⟨?_, ?_⟩, ?_⟩ <;> decide +kernel

/-- Route 6 in SETTING, its remote portion asked for. -/
def inst6Asked : RouteInst := { inst6 .setting with
  portions := [⟨12, [5, 6, 17], .pending, some 52⟩], settingTimer := some 2000 }

theorem witness_PassedDeadlineLeavesOfferUnanswered_reserve :
    let s := { with6 inst6Asked with requests := [⟨52, 12, .portion 1 6, .waiting 0⟩] }
    s.ready ∧ s.requestsHold ∧ (⟨52, 12, .portion 1 6, .waiting 0⟩ : Request) ∈ s.requests
      ∧ s.plainRoute 1 inst6Asked route6 ∧ inst6Asked.beingSet = true ∧ inst6Asked.route = 6
      ∧ (⟨12, [5, 6, 17], .pending, some 52⟩ : Portion) ∈ inst6Asked.portions ∧ inst6Asked.released = []
      ∧ s.isPresent 12 = true ∧ s.sendQueue.length + inst6Asked.portions.length + 1 ≤ 32 := by
  unfold State.plainRoute RouteInst.portionsFit
  refine ⟨⟨rfl, rfl⟩, ⟨?_, ?_⟩, ?_⟩ <;> decide +kernel

/-- Route 8 in SETTING: 9 has been asked, 12 not yet. -/
def inst8 : RouteInst := { newInstance route8 3000 with
  portions := [⟨9, [2], .pending, some 51⟩, ⟨12, [3, 4], .none, none⟩] }

/-- Route 8 in POSITIONING, its flank claim with 12 unanswered. -/
def inst8Flank : RouteInst := { inst8 with
  state := .positioning
  portions := [⟨9, [2], .granted, some 51⟩, ⟨12, [3, 4], .granted, some 52⟩]
  flank := [⟨.primary, 12, .pending, some 53, none⟩] }

/-- The area with route 8 so. -/
def flanking : State := { base with
  instances := base.instances.set 2 (some inst8Flank), requests := [⟨53, 12, .flank 2 8 [17], .waiting 20⟩] }

theorem witness_PassedDeadlineLeavesOfferUnanswered_flank :
    flanking.ready ∧ flanking.requestsHold
      ∧ (⟨53, 12, .flank 2 8 [17], .waiting 20⟩ : Request) ∈ flanking.requests
      ∧ flanking.running 2 = some (inst8Flank, route8) ∧ flanking.instanceOf inst8Flank.route = some (2, inst8Flank)
      ∧ inst8Flank.state = .positioning ∧ route8.flank = [⟨⟨12, 17, .normal⟩, 1, none⟩]
      ∧ inst8Flank.flank = [⟨.primary, 12, .pending, some 53, none⟩] ∧ inst8Flank.portionsFit route8
      ∧ inst8Flank.directionHeld = false ∧ (∀ h : Fin 8, flanking.signals[h].aspect = .stop)
      ∧ flanking.isPresent 12 = true ∧ flanking.sendQueue.length + inst8Flank.portions.length + 2 ≤ 32 := by
  unfold RouteInst.portionsFit
  refine ⟨⟨rfl, rfl⟩, ⟨?_, ?_⟩, ?_⟩ <;> decide +kernel

theorem witness_ChecksPassOrTurnAway :
    base.service ≠ .configFault ∧ Kind.ofCode 0x24 = some .command ∧ base.peer 1 = none
      ∧ base.peer 12 = some (present 12 .neighbour) ∧ (present 12 .neighbour).role ≠ .desk
      ∧ Kind.ofCode 0x10 = some .reserve ∧ Kind.reserve.request = true ∧ Kind.offer.request = true
      ∧ base.peer 23 = some (present 23 .desk) ∧ (present 23 .desk).role ≠ .neighbour
      ∧ Kind.command.cls = (told 23 (.command 9 .rearm)).cls
      ∧ decodeBody .command (told 23 (.command 9 .rearm)).bytes = some (.command 9 .rearm)
      ∧ Kind.command.unexamined = false ∧ Kind.command.tagged = true
      ∧ decodeBody .reserve [9, 7] = none ∧ Kind.reserve.unexamined = false
      ∧ Kind.proven.request = false ∧ Kind.proven.tagged = false ∧ decodeBody .proven [9] = none
      ∧ Kind.report.unexamined = true ∧ Kind.ofCode Kind.report.code = some .report := by
  decide +kernel

/-- A telegram of unknown kind 0x3F at the front, in a class. -/
def unknown (cls kind : Nat) : State := { base with recvQueue := [⟨cls, 12, kind, [5]⟩] }

theorem witness_UnknownAndIgnoredTelegrams :
    ((unknown 2 0x3F).ready ∧ (unknown 1 0x3F).ready ∧ (unknown 2 0x26).ready ∧ (unknown 3 0x31).ready)
      ∧ base.service ≠ .configFault ∧ base.peer 12 = some (present 12 .neighbour)
      ∧ Kind.ofCode 0x3F = none ∧ (unknown 1 0x3F).sendQueue.length < 32 := by
  refine ⟨⟨⟨rfl, rfl⟩, ⟨rfl, rfl⟩, ⟨rfl, rfl⟩, rfl, rfl⟩, ?_⟩
  decide +kernel

/-- The requirements of a RESERVE by 12: T5, P5 in position, P6 to be called, and exit S5. -/
def asks : List WireReq :=
  [⟨5, .path, .clear⟩, ⟨21, .path, .normal⟩, ⟨22, .path, .reverse⟩, ⟨29, .exit, .stop⟩]

theorem witness_ReserveLocksAndGrantsOrRefuses :
    (let s := handed base 12 (.reserve 4 ⟨12, 1⟩ asks);
      s.ready ∧ s.hands 12 (.reserve 4 ⟨12, 1⟩ asks) [] ∧ s.reserveRefusal 12 ⟨12, 1⟩ asks = none
      ∧ s.reservation ⟨12, 1⟩ = none ∧ s.admissionRefusal ⟨12, 1⟩ asks = none ∧ s.sendQueue.length + 2 ≤ 32
      ∧ 12 ≠ s.own ∧ ∀ q ∈ asks, s.callable q.elem q.state)
    ∧ (let s := handed idle 12 (.reserve 4 ⟨12, 1⟩ asks);
      s.ready ∧ s.hands 12 (.reserve 4 ⟨12, 1⟩ asks) [] ∧ s.sendQueue.length < 32
      ∧ s.reserveRefusal 12 ⟨12, 1⟩ asks = some ⟨.notInService, 0⟩)
    ∧ (let s := handed (filtered .occupied 0 none) 12 (.reserve 4 ⟨12, 1⟩ [⟨3, .path, .clear⟩]);
      s.ready ∧ s.hands 12 (.reserve 4 ⟨12, 1⟩ [⟨3, .path, .clear⟩]) [] ∧ s.sendQueue.length < 32
      ∧ s.reserveRefusal 12 ⟨12, 1⟩ [⟨3, .path, .clear⟩] = none ∧ s.activeReservation ⟨12, 1⟩ = none
      ∧ s.admissionRefusal ⟨12, 1⟩ [⟨3, .path, .clear⟩] = some ⟨.occupied, 1⟩) := by
  unfold State.callable
  refine ⟨⟨⟨rfl, rfl⟩, handed_hands _ _ _ ?_ ?_, ?_⟩, ⟨⟨rfl, rfl⟩, handed_hands _ _ _ ?_ ?_, ?_⟩,
    ⟨rfl, rfl⟩, handed_hands _ _ _ ?_ ?_, ?_⟩ <;> decide +kernel

/-- T3 reserved by 12:R1, its filter in a state. -/
def reserved (f : FilterState) (st : EntryState) : State :=
  ({ base with reservations := [⟨⟨12, 1⟩, 4, [⟨.track 3, .path, .clear⟩], none, .proven, st⟩] } : State).setSection 3
    { base.sections[3] with filter := f, lock := some ⟨⟨12, 1⟩, .path, none, false⟩ }

theorem witness_ReleaseFreesOrMarksPending :
    ∀ f ∈ [FilterState.clear, .occupied],
      let s := handed (reserved f .active) 12 (.release 4 ⟨12, 1⟩ [3])
      s.ready ∧ s.reservationsHold ∧ s.hands 12 (.release 4 ⟨12, 1⟩ [3]) []
        ∧ s.reservation ⟨12, 1⟩ = some ⟨⟨12, 1⟩, 4, [⟨.track 3, .path, .clear⟩], none, .proven, .active⟩
        ∧ s.sections[3].lock = some ⟨⟨12, 1⟩, .path, none, false⟩ ∧ 12 ≠ s.own ∧ s.sendQueue.length < 32 := by
  intro f hf
  simp only [List.mem_cons, List.not_mem_nil, or_false] at hf
  rcases hf with rfl | rfl <;>
    refine ⟨⟨rfl, rfl⟩, ⟨?_, ?_⟩, handed_hands _ _ _ ?_ ?_, ?_⟩ <;> decide +kernel

theorem witness_FlankClaimEntersAndReleaseFrees :
    (∀ state ∈ [Required.normal, .reverse],
      let s := handed base 12 (.flankClaim 4 ⟨12, 1⟩ [⟨21, .flank, state⟩])
      s.ready ∧ s.hands 12 (.flankClaim 4 ⟨12, 1⟩ [⟨21, .flank, state⟩]) []
        ∧ s.claimRefusal 12 ⟨12, 1⟩ [⟨21, .flank, state⟩] = none ∧ s.registered ⟨12, 1⟩ = none
        ∧ s.claimVerdict ⟨12, 1⟩ (.points 5) state = none ∧ 12 ≠ s.own ∧ s.callable 21 state
        ∧ s.sendQueue.length + 2 ≤ 32)
    ∧ (let r : RegisterEntry := ⟨⟨12, 1⟩, .active, [⟨.points 4, .normal, 4, .none⟩, ⟨.points 5, .normal, 4, .proven⟩]⟩;
      let s := handed { claimedBy12 .active with register := [⟨⟨9, 2⟩, .active, []⟩, r] } 12
        (.flankRelease 4 ⟨12, 1⟩ [21]);
      s.ready ∧ s.hands 12 (.flankRelease 4 ⟨12, 1⟩ [21]) [] ∧ (s.register.map (·.ref)).Nodup
      ∧ s.registered ⟨12, 1⟩ = some r ∧ r.state = .active
      ∧ (r.elems.any fun c => c.elem == .points 5 && c.tag == 4) = true) := by
  unfold State.callable
  refine ⟨fun state h => ?_, ⟨rfl, rfl⟩, handed_hands _ _ _ ?_ ?_, ?_⟩
  · simp only [List.mem_cons, List.not_mem_nil, or_false] at h
    rcases h with rfl | rfl <;> refine ⟨⟨rfl, rfl⟩, handed_hands _ _ _ ?_ ?_, ?_⟩ <;> decide +kernel
  all_goals decide +kernel

theorem witness_OrphanExpiryFreesElements :
    (∀ f ∈ [FilterState.clear, .occupied],
      let s := reserved f (.orphaned (some 0))
      s.ready ∧ s.reservationsHold
        ∧ s.reservation ⟨12, 1⟩
          = some ⟨⟨12, 1⟩, 4, [⟨.track 3, .path, .clear⟩], none, .proven, .orphaned (some 0)⟩
        ∧ s.sections[3].lock = some ⟨⟨12, 1⟩, .path, none, false⟩ ∧ 12 ≠ s.own)
    ∧ (claimedBy12 (.orphaned (some 0))).ready
      ∧ (claimedBy12 (.orphaned (some 0))).register
        = [⟨⟨12, 1⟩, .orphaned (some 0), [⟨.points 5, .normal, 4, .proven⟩]⟩] := by
  refine ⟨?_, ⟨rfl, rfl⟩, rfl⟩
  intro f hf
  simp only [List.mem_cons, List.not_mem_nil, or_false] at hf
  rcases hf with rfl | rfl <;> refine ⟨⟨rfl, rfl⟩, ⟨?_, ?_⟩, ?_⟩ <;> decide +kernel

/-- B1 with a direction, claims and inbound records. -/
def boundary1 (d : Direction) (claims : List Nat) (inbound : List InboundRec) : State :=
  base.setBoundary 1 { base.boundaries[1] with direction := d, claims := claims, inbound := inbound }

theorem witness_DirectionRequestIsGrantedOrRefused :
    ∀ x ∈ [(Direction.neutral, []), (.out, []), (.out, [6]), (.into, []), (.asking .into, [])],
      let s := handed (boundary1 x.1 x.2 []) 12 (.directionRequest 4 1)
      s.ready ∧ s.hands 12 (.directionRequest 4 1) [] ∧ (s.service = .outOfService ∨ s.service = .inService)
        ∧ s.boundaryAt 1 = some (1, ⟨12, 0, 9, 5⟩) ∧ s.blockOf (.boundary 1) = none ∧ s.sendQueue.length < 32
        ∧ s.boundaries[1].direction = x.1 ∧ s.own ≤ 12 := by
  intro x hx
  simp only [List.mem_cons, List.not_mem_nil, or_false] at hx
  rcases hx with rfl | rfl | rfl | rfl | rfl <;>
    refine ⟨⟨rfl, rfl⟩, handed_hands _ _ _ ?_ ?_, ?_⟩ <;> decide +kernel

/-- The same station at address 24, so that its neighbour 12 has the lower address. -/
theorem witness_DirectionRequestIsGrantedOrRefused_asking :
    let q : Request := ⟨51, 12, .direction 1, .waiting 20⟩
    let s := handed { asking with address := some 24 } 12 (.directionRequest 4 1)
    s.ready ∧ s.hands 12 (.directionRequest 4 1) [] ∧ q ∈ s.requests ∧ 12 < s.own ∧ s.boundaries[1].waiting = []
      ∧ s.requestsHold ∧ s.requests = [q] ∧ s.boundaries[1].direction = .asking .into
      ∧ s.boundaryAt 1 = some (1, ⟨12, 0, 9, 5⟩) ∧ s.blockOf (.boundary 1) = none := by
  refine ⟨⟨rfl, rfl⟩, handed_hands _ _ _ ?_ ?_, ?_, ?_, ?_, ⟨?_, ?_⟩, ?_⟩ <;> decide +kernel

theorem witness_DirectionRequestIsGrantedOrRefused_refused :
    (let s := handed { base with service := .joining } 12 (.directionRequest 4 1);
      s.ready ∧ s.hands 12 (.directionRequest 4 1) [] ∧ s.service = .joining ∧ s.sendQueue.length < 32)
    ∧ (let s := handed base 12 (.directionRequest 4 0);
      s.ready ∧ s.hands 12 (.directionRequest 4 0) [] ∧ s.boundaryAt 0 = none)
    ∧ (let s := handed base 9 (.directionRequest 4 1);
      s.ready ∧ s.hands 9 (.directionRequest 4 1) [] ∧ s.boundaryAt 1 = some (1, ⟨12, 0, 9, 5⟩) ∧ 12 ≠ 9)
    ∧ (let s := handed { base with blocking := [(.boundary 1, .noRoute)] } 12 (.directionRequest 4 1);
      s.ready ∧ s.hands 12 (.directionRequest 4 1) [] ∧ (s.blockOf (.boundary 1)).isSome = true
      ∧ s.boundaries[1].direction ≠ .into) := by
  refine ⟨⟨⟨rfl, rfl⟩, handed_hands _ _ _ ?_ ?_, ?_⟩, ⟨⟨rfl, rfl⟩, handed_hands _ _ _ ?_ ?_, ?_⟩,
    ⟨⟨rfl, rfl⟩, handed_hands _ _ _ ?_ ?_, ?_⟩, ⟨rfl, rfl⟩, handed_hands _ _ _ ?_ ?_, ?_⟩ <;> decide +kernel

theorem witness_OfferJoinsInboundQueue :
    ∀ n ∈ [3, 4],
      let s := handed (boundary1 .into [] (List.replicate n ⟨300, 0, 1⟩)) 12 (.offer 4 1 301 1500 9)
      s.ready ∧ s.hands 12 (.offer 4 1 301 1500 9) [] ∧ (s.service = .outOfService ∨ s.service = .inService)
        ∧ s.boundaryAt 1 = some (1, ⟨12, 0, 9, 5⟩) ∧ s.boundaries[1].direction = .into
        ∧ s.boundaries[1].inbound.length = n ∧ s.sendQueue.length + 4 ≤ 32 := by
  intro n hn
  simp only [List.mem_cons, List.not_mem_nil, or_false] at hn
  rcases hn with rfl | rfl <;> refine ⟨⟨rfl, rfl⟩, handed_hands _ _ _ ?_ ?_, ?_⟩ <;> decide +kernel

theorem witness_ConfirmOrTimerEndsOutboundRecord :
    (let s := handed (offering .accepted) 12 (.confirm 4 1 301);
      s.ready ∧ s.hands 12 (.confirm 4 1 301) [] ∧ s.boundaryAt 1 = some (1, ⟨12, 0, 9, 5⟩)
      ∧ s.boundaries[1].lastConfirm ≠ some (301, 4)
      ∧ s.boundaries[1].outbound = [⟨301, 1500, 51, .accepted, some 0⟩])
    ∧ (let s := handed (base.setBoundary 1 { base.boundaries[1] with lastConfirm := some (301, 4) }) 12
        (.confirm 4 1 301);
      s.ready ∧ s.hands 12 (.confirm 4 1 301) [] ∧ s.boundaryAt 1 = some (1, ⟨12, 0, 9, 5⟩)
      ∧ s.boundaries[1].lastConfirm = some (301, 4))
    ∧ (offering .accepted).ready
      ∧ (offering .accepted).boundaries[1].outbound = [⟨301, 1500, 51, .accepted, some 0⟩] := by
  refine ⟨⟨⟨rfl, rfl⟩, handed_hands _ _ _ ?_ ?_, ?_⟩, ⟨⟨rfl, rfl⟩, handed_hands _ _ _ ?_ ?_, ?_⟩,
    ⟨rfl, rfl⟩, ?_⟩ <;> decide +kernel

theorem witness_BoundaryAnswersAreTaken :
    (∀ reason ∈ [none, some Reason.contended],
      let s := handed asking 12 (.directionAnswer 51 0 reason)
      s.ready ∧ s.requestsHold ∧ (⟨51, 12, .direction 1, .waiting 20⟩ : Request) ∈ s.requests
        ∧ s.cfg.boundaries[1] = some ⟨12, 0, 9, 5⟩ ∧ s.boundaries[1].direction = .asking .into
        ∧ s.boundaries[1].waiting = [] ∧ s.hands 12 (.directionAnswer 51 0 reason) [])
    ∧ (∀ reason ∈ [none, some Reason.queueFull],
      let s := handed (offering .offered) 12 (.offerAnswer 51 0 reason)
      s.ready ∧ s.requestsHold ∧ (⟨51, 12, .offer 1, .waiting 0⟩ : Request) ∈ s.requests
        ∧ s.cfg.boundaries[1] = some ⟨12, 0, 9, 5⟩ ∧ s.hands 12 (.offerAnswer 51 0 reason) []) := by
  refine ⟨fun r hr => ?_, fun r hr => ?_⟩ <;>
    simp only [List.mem_cons, List.not_mem_nil, or_false] at hr <;> rcases hr with rfl | rfl
  all_goals first
    | refine ⟨⟨rfl, rfl⟩, ⟨?_, ?_⟩, ?_, ?_, ?_, ?_, handed_hands _ _ _ ?_ ?_⟩ <;> decide +kernel
    | refine ⟨⟨rfl, rfl⟩, ⟨?_, ?_⟩, ?_, ?_, handed_hands _ _ _ ?_ ?_⟩ <;> decide +kernel

/-- Route 9 in SETTING, waiting for its direction at B1. -/
def inst9 : RouteInst := { newInstance route9 3000 with awaitingDirection := true }

/-- The area with B1 ASKING for route 9. -/
def asking9 : State := ({ base with
  instances := base.instances.set 3 (some inst9), requests := [⟨51, 12, .direction 1, .waiting 20⟩] } : State).setBoundary 1
    { base.boundaries[1] with direction := .asking .neutral, waiting := [9] }

theorem witness_BoundaryAnswersAreTaken_waiting :
    ∀ reason ∈ [none, some Reason.contended, some .blocked],
      let s := handed asking9 12 (.directionAnswer 51 0 reason)
      s.ready ∧ s.requestsHold ∧ (⟨51, 12, .direction 1, .waiting 20⟩ : Request) ∈ s.requests
        ∧ s.cfg.boundaries[1] = some ⟨12, 0, 9, 5⟩ ∧ s.boundaries[1].direction = .asking .neutral
        ∧ s.boundaries[1].waiting = [inst9.route] ∧ s.plainRoute 3 inst9 route9
        ∧ s.instanceOf inst9.route = some (3, inst9) ∧ inst9.state = .setting ∧ inst9.awaitingDirection = true
        ∧ exitBoundary route9 = some 1 ∧ s.hands 12 (.directionAnswer 51 0 reason) [] ∧ inst9.portions = []
        ∧ s.signals[3].proceedInput = false := by
  intro reason h
  simp only [List.mem_cons, List.not_mem_nil, or_false] at h
  unfold State.plainRoute RouteInst.portionsFit
  rcases h with rfl | rfl | rfl <;>
    refine ⟨⟨rfl, rfl⟩, ⟨?_, ?_⟩, ?_, ?_, ?_, ?_, ?_, ?_, ?_, ?_, ?_, handed_hands _ _ _ ?_ ?_, ?_, ?_⟩ <;>
    decide +kernel

theorem witness_NoticeWritesImageAndCapture :
    (let s := handed base 9 (.stateNotice 7 true true false false 59999);
      s.ready ∧ s.vacant ∧ s.hands 9 (.stateNotice 7 true true false false 59999) []
      ∧ s.remoteEntry ⟨9, 7⟩ = some ⟨9, 7, true, .clear, none, []⟩)
    ∧ (let s := handed base 9 (.stateNotice 8 true true false false 60000);
      s.ready ∧ s.vacant ∧ s.hands 9 (.stateNotice 8 true true false false 60000) []
      ∧ s.remoteEntry ⟨9, 8⟩ = none) := by
  refine ⟨⟨⟨rfl, rfl⟩, ?_, handed_hands _ _ _ ?_ ?_, ?_⟩, ⟨rfl, rfl⟩, ?_, handed_hands _ _ _ ?_ ?_, ?_⟩
  all_goals first | decide +kernel | (intro g; revert g; decide +kernel)

theorem witness_ProofAndLapseReachPortion :
    (let i := { inst6 .held with portions := [⟨12, [5, 6, 17], .lapsed .lamp, some 52⟩] };
      let s := handed (with6 i) 12 (.proven 52 ⟨7, 6⟩ none);
      s.ready ∧ (7 : Nat) = s.own ∧ s.instanceOf 6 = some (1, i)
      ∧ (⟨12, [5, 6, 17], .lapsed .lamp, some 52⟩ : Portion) ∈ i.portions
      ∧ (PortionState.lapsed .lamp).holding = true ∧ s.hands 12 (.proven 52 ⟨7, 6⟩ none) []
      ∧ i.state ≠ .positioning)
    ∧ (let s := handed open6 12 (.lapse 52 ⟨7, 6⟩ none .lamp);
      s.ready ∧ (7 : Nat) = s.own ∧ s.instanceOf 6 = some (1, inst6 .open)
      ∧ (⟨12, [5, 6, 17], .proven, some 52⟩ : Portion) ∈ (inst6 .open).portions
      ∧ PortionState.proven.holding = true ∧ s.hands 12 (.lapse 52 ⟨7, 6⟩ none .lamp) []
      ∧ (inst6 .open).state = .open ∧ s.signals[1].aspect = .proceed ∧ s.signals[1].stopInput = false) := by
  refine ⟨⟨⟨rfl, rfl⟩, ?_, ?_, ?_, ?_, handed_hands _ _ _ ?_ ?_, ?_⟩,
    ⟨rfl, rfl⟩, ?_, ?_, ?_, ?_, handed_hands _ _ _ ?_ ?_, ?_⟩ <;> decide +kernel

theorem witness_ProofAndLapseReachPortion_proven :
    let p : Portion := { proven12 with state := .granted }
    let i : RouteInst := { inst6 .positioning with portions := [p] }
    let s := handed (positioning6 p) 12 (.proven 52 ⟨7, 6⟩ none)
    s.ready ∧ 7 = s.own ∧ s.instanceOf 6 = some (1, i) ∧ p ∈ i.portions ∧ p.state.holding = true
      ∧ s.hands 12 (.proven 52 ⟨7, 6⟩ none) [] ∧ s.running 1 = some (i, route6) ∧ i.inStep = false
      ∧ s.firstMissing 1 { i with portions := [{ p with state := .proven }] } route6 = none
      ∧ s.clearRefusal 1 ⟨7, 6⟩ = none ∧ s.signals[1].proceedInput = false := by
  refine ⟨⟨rfl, rfl⟩, ?_, ?_, ?_, ?_, handed_hands _ _ _ ?_ ?_, ?_⟩ <;> decide +kernel

theorem witness_GrantAsksNextOwnerOrIsReturned :
    (let s := handed ({ base with
        instances := base.instances.set 2 (some inst8), requests := [⟨51, 9, .portion 2 8, .waiting 20⟩] } : State)
        9 (.reserveAnswer 51 ⟨7, 8⟩ none 0 [0]);
      s.ready ∧ s.requestsHold ∧ s.running 2 = some (inst8, route8) ∧ inst8.state = .setting
      ∧ inst8.portions = [⟨9, [2], .pending, some 51⟩, ⟨12, [3, 4], .none, none⟩]
      ∧ (⟨51, 9, .portion 2 8, .waiting 20⟩ : Request) ∈ s.requests ∧ s.isPresent 12 = true
      ∧ s.sendQueue.length + 2 ≤ 32 ∧ s.ownRef 8 = ⟨7, 8⟩
      ∧ s.hands 9 (.reserveAnswer 51 ⟨7, 8⟩ none 0 [0]) [])
    ∧ (let s := handed base 9 (.reserveAnswer 51 ⟨7, 8⟩ none 0 [0]);
      s.ready ∧ s.requests = [] ∧ s.isPresent 9 = true ∧ s.sendQueue.length + 2 ≤ 32
      ∧ s.hands 9 (.reserveAnswer 51 ⟨7, 8⟩ none 0 [0]) []) := by
  refine ⟨⟨⟨rfl, rfl⟩, ⟨?_, ?_⟩, ?_, ?_, ?_, ?_, ?_, ?_, ?_, handed_hands _ _ _ ?_ ?_⟩,
    ⟨rfl, rfl⟩, ?_, ?_, ?_, handed_hands _ _ _ ?_ ?_⟩ <;> decide +kernel

theorem witness_FlankVerdictGrantsPortion :
    let s := handed flanking 12 (.flankAnswer 53 ⟨7, 8⟩ none 0 [(17, none)])
    s.ready ∧ s.requestsHold ∧ s.running 2 = some (inst8Flank, route8) ∧ inst8Flank.state = .positioning
      ∧ route8.flank = [⟨⟨12, 17, .normal⟩, 1, none⟩]
      ∧ inst8Flank.flank = [⟨.primary, 12, .pending, some 53, none⟩]
      ∧ (⟨53, 12, .flank 2 8 [17], .waiting 20⟩ : Request) ∈ s.requests
      ∧ (inUseReq ⟨⟨12, 17, .normal⟩, 1, none⟩ .primary).elem = 17
      ∧ s.hands 12 (.flankAnswer 53 ⟨7, 8⟩ none 0 [(17, none)]) [] := by
  refine ⟨⟨rfl, rfl⟩, ⟨?_, ?_⟩, ?_, ?_, ?_, ?_, ?_, ?_, handed_hands _ _ _ ?_ ?_⟩ <;> decide +kernel

/-- P2 stands NORMAL, as route 6 wants it, or REVERSE at REST, to be called; route 9 ends at B1, which is NEUTRAL. -/
theorem witness_AcceptedSetLocksAndAsks :
    ∀ x ∈ [(base, route6), (base.setPoint 2 { base.points[2] with
        commanded := some .reverse, contactN := false, contactR := true }, route6), (base, route9)],
      let s := asked x.1 (.set x.2.number)
      s.ready ∧ s.handsCommand 23 9 (.set x.2.number) [] ∧ s.service = .inService
        ∧ s.routeRecord x.2.number = some x.2 ∧ s.instances[x.2.entry] = none ∧ s.instanceOf x.2.number = none
        ∧ s.setRefusal x.2 = none ∧ s.judge (some x.2.entry) [] (localPart x.2) = none ∧ s.takeovers x.2 = []
        ∧ (∀ q ∈ localPart x.2, s.callable q.elem q.state) ∧ s.sendQueue.length + 4 ≤ 32
        ∧ s.requests.length < 16
        ∧ (exitBoundary x.2 = none ∧ ownersOf x.2 = [12]
          ∨ exitBoundary x.2 = some 1 ∧ s.cfg.boundaries[1] = some ⟨12, 0, 9, 5⟩
            ∧ s.boundaries[1].direction = .neutral) := by
  intro x hx
  simp only [List.mem_cons, List.not_mem_nil, or_false] at hx
  unfold State.callable
  rcases hx with rfl | rfl | rfl <;> refine ⟨⟨rfl, rfl⟩, asked_hands _ _ ?_ ?_, ?_⟩ <;> decide +kernel

theorem witness_RefusedSetChangesNothing :
    ((asked idle (.set 6)).ready ∧ (asked idle (.set 6)).handsCommand 23 9 (.set 6) []
      ∧ (asked idle (.set 6)).service ≠ .inService)
    ∧ ((asked base (.set 7)).ready ∧ (asked base (.set 7)).handsCommand 23 9 (.set 7) []
      ∧ (asked base (.set 7)).routeRecord 7 = none)
    ∧ ((asked open6 (.set 6)).ready ∧ (asked open6 (.set 6)).handsCommand 23 9 (.set 6) []
      ∧ (asked open6 (.set 6)).instances[route6.entry] = some (inst6 .open) ∧ (inst6 .open).state ≠ .held)
    ∧ (let s := asked { base with peers := [present 23 .desk] } (.set 6);
      s.ready ∧ s.handsCommand 23 9 (.set 6) [] ∧ s.setRefusal route6 = some ⟨.peerAbsent, 5⟩)
    ∧ (let s := asked (filtered .occupied 0 none) (.set 6);
      s.ready ∧ s.handsCommand 23 9 (.set 6) [] ∧ s.setRefusal route6 = none
      ∧ s.judge (some route6.entry) [] (localPart route6) = some ⟨.occupied, 1⟩) := by
  refine ⟨⟨⟨rfl, rfl⟩, asked_hands _ _ ?_ ?_, ?_⟩, ⟨⟨rfl, rfl⟩, asked_hands _ _ ?_ ?_, ?_⟩,
    ⟨⟨rfl, rfl⟩, asked_hands _ _ ?_ ?_, ?_⟩, ⟨⟨rfl, rfl⟩, asked_hands _ _ ?_ ?_, ?_⟩,
    ⟨rfl, rfl⟩, asked_hands _ _ ?_ ?_, ?_⟩ <;> decide +kernel

/-- Route 6 in a state, with a train on T1 that came over 09/T7 in 3200 cs. -/
def approached (st : RouteState) : State := ({ with6 (inst6 st) with
  remote := [⟨9, 7, true, .occupied, some ⟨65000, false⟩, []⟩] } : State).setSection 1
    { base.sections[1] with filter := .occupied, entryCapture := some ⟨2664, false⟩ }

theorem witness_CancelRunsApproachDelay :
    (let s := asked (approached .held) (.cancel 6);
      s.ready ∧ s.handsCommand 23 9 (.cancel 6) [] ∧ s.service = .inService ∧ s.routeRecord 6 = some route6
      ∧ s.instanceOf 6 = some (1, inst6 .held) ∧ (inst6 .held).state = .held ∧ (inst6 .held).faultMarks = []
      ∧ s.signals[1].aspect = .stop ∧ s.approachOccupied ⟨0, route6.approach.val⟩ = true
      ∧ s.sendQueue.length + 4 ≤ 32)
    ∧ (let s := asked (open6.setSection 1 { open6.sections[1] with filter := .occupied }) (.cancel 6);
      s.ready ∧ s.handsCommand 23 9 (.cancel 6) [] ∧ s.instanceOf 6 = some (1, inst6 .open)
      ∧ (inst6 .open).faultMarks = [] ∧ s.signals[1].aspect = .proceed ∧ s.signals[1].stopInput = false
      ∧ s.approachOccupied ⟨0, route6.approach.val⟩ = true)
    ∧ 10 ≤ route6.decel ∧ 10 ≤ route6.distantLength ∧ route6.tMin ≤ route6.tMax
    ∧ (approached .held).validSpan route6 = some 3200
    ∧ base.validSpan route6 = none ∧ base.sections[(1 : Fin 16)].train = none
    ∧ (let s := base.setSection 1 { base.sections[(1 : Fin 16)] with train := some ⟨301, 1800⟩ };
      s.validSpan route6 = none ∧ s.sections[1].train = some ⟨301, 1800⟩) := by
  refine ⟨⟨⟨rfl, rfl⟩, asked_hands _ _ ?_ ?_, ?_⟩, ⟨⟨rfl, rfl⟩, asked_hands _ _ ?_ ?_, ?_⟩, ?_⟩ <;>
    decide +kernel

/-- Section 7.9, "a cancel with the train on the approach": 65000 to 2664 is 3200 cs, and D is 57 s. -/
theorem test_cancelOnTheApproach :
    leads .cancel (asked (approached .held) (.cancel 6)) (fun t =>
      t.instances[1].map (·.approachTimer) == some (some 5700)
        && t.instances[1].map (·.delay) == some (some 57)) = true := by
  decide +kernel

theorem witness_EmergencyReleaseRunsTmax :
    (∀ st ∈ [RouteState.held, .emergency],
      let s := asked (with6 (inst6 st)) (.emergencyRelease 6)
      s.ready ∧ s.handsCommand 23 9 (.emergencyRelease 6) [] ∧ s.service = .inService
        ∧ s.routeRecord 6 = some route6 ∧ s.instanceOf 6 = some (1, inst6 st) ∧ (inst6 st).beingSet = false
        ∧ s.signals[1].aspect = .stop ∧ s.sendQueue.length + 4 ≤ 32)
    ∧ (let s := asked open6 (.emergencyRelease 6);
      s.ready ∧ s.handsCommand 23 9 (.emergencyRelease 6) [] ∧ s.instanceOf 6 = some (1, inst6 .open)
      ∧ s.signals[1].aspect = .proceed ∧ s.signals[1].stopInput = false) := by
  refine ⟨fun st h => ?_, ⟨rfl, rfl⟩, asked_hands _ _ ?_ ?_, ?_⟩
  · simp only [List.mem_cons, List.not_mem_nil, or_false] at h
    rcases h with rfl | rfl <;> refine ⟨⟨rfl, rfl⟩, asked_hands _ _ ?_ ?_, ?_⟩ <;> decide +kernel
  all_goals decide +kernel

theorem witness_ExpiredTimersEndRoutes :
    ∀ i ∈ [{ inst6 .positioning with settingTimer := some 0 }, { inst6 .cancelling with approachTimer := some 0 },
        { inst6 .emergency with emergencyTimer := .running 0 }],
      (with6 i).ready ∧ (with6 i).plainRoute 1 i route6
        ∧ (i.beingSet = true ∧ i.settingTimer.isSome = true
          ∨ i.state = .cancelling ∧ i.approachTimer.isSome = true
          ∨ i.state = .emergency ∧ i.emergencyTimer.isRunning = true) := by
  intro i h
  simp only [List.mem_cons, List.not_mem_nil, or_false] at h
  unfold State.plainRoute RouteInst.portionsFit
  rcases h with rfl | rfl | rfl <;> refine ⟨⟨rfl, rfl⟩, ?_⟩ <;> decide +kernel

theorem witness_OverlapExpiryReleasesOverlap :
    ∀ marks ∈ [[], [2]],
      let i : RouteInst := { inst6 .entered with overlapTimer := .running 0, faultMarks := marks }
      (with6 i).ready ∧ (with6 i).running 1 = some (i, route6) ∧ route6.flank = []
        ∧ (∀ h : Fin 8, (with6 i).signals[h].aspect = .stop) ∧ heldOverlap i route6 = [17] := by
  intro marks h
  simp only [List.mem_cons, List.not_mem_nil, or_false] at h
  rcases h with rfl | rfl <;> refine ⟨⟨rfl, rfl⟩, ?_⟩ <;> decide +kernel

/-- A blocking table of 8 points. -/
def full : State := { idle with blocking := allEight.map fun p => (.points p, .noRoute) }

theorem witness_BlockingCommandsWriteTheTable :
    ((asked idle (.block 5 .noMove)).ready ∧ (asked idle (.block 5 .noMove)).handsCommand 23 9 (.block 5 .noMove) []
      ∧ (asked idle (.block 5 .noMove)).equippedElem 5 = some (.track 5)
      ∧ (asked idle (.block 5 .noMove)).isBlocked (.track 5) = false)
    ∧ ((asked full (.block 5 .noMove)).ready ∧ (asked full (.block 5 .noMove)).handsCommand 23 9 (.block 5 .noMove) []
      ∧ 8 ≤ (asked full (.block 5 .noMove)).blocking.length
      ∧ (asked full (.block 5 .noMove)).isBlocked (.points 7) = true)
    ∧ ((asked full (.block 32 .noMove)).handsCommand 23 9 (.block 32 .noMove) []
      ∧ (asked full (.block 32 .noMove)).equippedElem 32 = none)
    ∧ ((asked full (.unblock 23)).ready ∧ (asked full (.unblock 23)).handsCommand 23 9 (.unblock 23) []
      ∧ (asked full (.unblock 23)).equippedElem 23 = some (.points 7))
    ∧ leads .block (asked idle (.block 33 .noMove)) (fun t => t.blockOf (.boundary 1) == some .noMove) = true
      ∧ fits (.boundary 1) .exit .out = true := by
  refine ⟨⟨⟨rfl, rfl⟩, asked_hands _ _ ?_ ?_, ?_⟩, ⟨⟨rfl, rfl⟩, asked_hands _ _ ?_ ?_, ?_⟩,
    ⟨asked_hands _ _ ?_ ?_, ?_⟩, ⟨⟨rfl, rfl⟩, asked_hands _ _ ?_ ?_, ?_⟩, ?_⟩ <;> decide +kernel

theorem witness_PointMoveDrivesFreePoint :
    let s := asked idle (.pointMove 23 2)
    s.ready ∧ s.handsCommand 23 9 (.pointMove (16 + (7 : Fin 8).val) 2) []
      ∧ (s.service = .outOfService ∨ s.service = .inService) ∧ s.cfg.points[7] = some ⟨4, 20, 600, 150⟩
      ∧ targetPosition 2 = some .reverse ∧ s.moveRefusal 7 = none ∧ s.points[(7 : Fin 8)].drive = .rest
      ∧ s.points[(7 : Fin 8)].detection ≠ .at .reverse ∧ s.points[(7 : Fin 8)].requesters = []
      ∧ s.points[(7 : Fin 8)].lockedToward (otherPosition .reverse) = false ∧ s.sendQueue.length + 4 ≤ 32 := by
  refine ⟨⟨rfl, rfl⟩, asked_hands _ _ ?_ ?_, ?_⟩ <;> decide +kernel

theorem witness_DescriberCommandsWriteRecords :
    ((asked idle (.describe 15 65534)).ready
      ∧ (asked idle (.describe 15 65534)).handsCommand 23 9 (.describe 15 65534) []
      ∧ (asked idle (.describe 15 65534)).describeRefusal 15 65534 = none
      ∧ (asked idle (.describe 15 65534)).sendQueue.length + 4 ≤ 32)
    ∧ ((asked idle (.erase 15)).handsCommand 23 9 (.erase 15) []
      ∧ (asked idle (.erase 15)).sectionRefusal 15 = none)
    ∧ (asked (offering .offered) (.handoverClear 33)).handsCommand 23 9 (.handoverClear 33) []
      ∧ (asked (offering .offered) (.handoverClear 33)).handoverRefusal 33 = none
      ∧ (asked (offering .offered) (.handoverClear 33)).requestsHold := by
  refine ⟨⟨⟨rfl, rfl⟩, asked_hands _ _ ?_ ?_, ?_⟩, ⟨asked_hands _ _ ?_ ?_, ?_⟩, asked_hands _ _ ?_ ?_, ?_, ?_, ?_⟩ <;>
    decide +kernel

theorem witness_ReportUnitCommandsAnswer :
    ((asked idle (.status 71)).ready ∧ (asked idle (.status 71)).handsCommand 23 9 (.status 71) []
      ∧ statusSubjects 71 = some [.route 7] ∧ (asked idle (.status 71)).reportable (.route 7) = true
      ∧ (asked idle (.status 71)).sendQueue.length + 5 ≤ 32)
    ∧ (asked idle .faultFetch).handsCommand 23 9 .faultFetch []
    ∧ (asked idle .rearm).handsCommand 23 9 .rearm [] := by
  refine ⟨⟨⟨rfl, rfl⟩, asked_hands _ _ ?_ ?_, ?_⟩, asked_hands _ _ ?_ ?_, asked_hands _ _ ?_ ?_⟩ <;>
    decide +kernel

theorem witness_AdmitAndWithdrawMoveService :
    ((asked idle .admission).resetHeld = false ∧ (asked idle .admission).service = .outOfService
      ∧ (asked idle .admission).handsCommand 23 9 .admission [])
    ∧ (asked idle .withdraw).handsCommand 23 9 .withdraw []
    ∧ (asked base .withdraw).service = .inService ∧ (asked base .withdraw).handsCommand 23 9 .withdraw [] := by
  refine ⟨⟨rfl, rfl, asked_hands _ _ ?_ ?_⟩, asked_hands _ _ ?_ ?_, rfl, asked_hands _ _ ?_ ?_⟩ <;>
    decide +kernel

theorem witness_DrainingReportsTheOldest :
    let s := { base with
      reports := [.controller, .route 7], sendQueue := List.replicate 24 (placed 12 (.proven 1 ⟨12, 1⟩ none)) }
    s.ready ∧ s.lineUsed = true ∧ s.reports = [.controller, .route 7] ∧ s.reports.length ≤ 45
      ∧ s.sendQueue.length + 8 ≤ 32 := by
  refine ⟨⟨rfl, rfl⟩, ?_⟩
  decide +kernel

theorem witness_DecodedBodyIsTheEncodedBody :
    bodyFits (.offer 255 3 65534 9999 255) ∧ bodyFits (.proven 0 ⟨255, 255⟩ (some 255))
      ∧ bodyFits (.stateNotice 15 true true false true 65535) ∧ bodyFits (.stateNotice 24 true true true true 0)
      ∧ bodyFits (.flankAnswer 1 ⟨24, 24⟩ none 255 (List.replicate 30 (255, some .badTelegram)))
      ∧ bodyFits (.command 1 (.describe 255 65535)) ∧ bodyFits (.presence .inService 8 0xFFFFFF) := by
  refine ⟨?_, ⟨⟨?_, ?_⟩, ?_⟩, ?_, ?_, ⟨⟨?_, ?_⟩, ?_, ?_, ?_, ?_⟩, ⟨?_, ?_⟩, ?_⟩
  all_goals simp [bodyFits, subjectFits]

theorem witness_ReadFrameIsTheSentFrame :
    (31 : Nat) < 32 ∧ (⟨31, .alert (List.replicate 64 0)⟩ : Telegram).dest < 32
      ∧ (encodeBody (.alert (List.replicate 64 0))).length ≤ 64 := by
  decide +kernel

/-- A withdrawal with a signal at PROCEED, an element blocked and a request pending: the premises of the invariants. -/
theorem witness_StepKeepsInvariants :
    let s := { asked base .withdraw with
      pending := [.withdraw], blocking := [(.track 3, .noRoute)], requests := [⟨50, 12, .offer 1, .waiting 5⟩]
      signals := base.signals.set 0 { base.signals[0] with
        aspect := .proceed, stopLamp := .dark, proceedLamp := .lit, proceedInput := true } }
    (s.blockingHolds ∧ s.receiveHolds ∧ s.sendHolds ∧ s.reportsHold ∧ s.requestsHold ∧ s.reservationsHold)
      ∧ (s.darkOutsideService ∧ s.lampsHold ∧ s.drainedOut) ∧ (s.pointsHold ∧ s.clearTimersStopped)
      ∧ (match step s with | .next t => t.service != .inService | _ => false) = true := by
  refine ⟨?_, ?_, ⟨fun p => ?_, ?_⟩, ?_⟩
  · unfold State.blockingHolds State.receiveHolds State.sendHolds State.reportsHold State.requestsHold
      State.reservationsHold
    decide +kernel
  · unfold State.darkOutsideService State.lampsHold State.drainedOut
    decide +kernel
  · simp [PointRec.inPosition, asked, handed, base, PointRec.initial, Drive.target]
  · unfold State.clearTimersStopped
    decide +kernel
  · decide +kernel

end Sys2Proof.Tests
end

section
/-! PROOFS. O9, the filter of a section while it is CLEAR (R21). Two families of lemmas settle it.

What the samples of a section write (its filter, run, timer and entry capture) is `State.sensed`, and no consequence of
an event changes it: one equation for each part of an event, up to `event_sensed`. With it the state after a
SECTION_SAMPLE is read off the filter (`sectionSample_writes`).

That the clear timer is stopped throughout rests on the laws of an event: all commands but five are lawful from the
sections as they were (`exec_lawful`), and those five write filters whose timer is stopped where they are CLEAR. -/

namespace Sys2Proof.Machine

/-! ## What the samples of a section write (R21 to R24) -/

/-- A section record with only what its samples write: the filter, its run and timer, and the entry capture. -/
def SectionRec.sensed (r : SectionRec) : SectionRec :=
  { r with
    sequenceFault := false
    train := none
    lock := none }

/-- What the samples of every section have written. -/
@[simp] abbrev State.sensed (s : State) : Vector SectionRec 16 := s.sections.map SectionRec.sensed

theorem State.sensed_get (s : State) (i : Fin 16) : s.sensed[i] = s.sections[i].sensed := by simp

/-- A section record may be written that differs in what no sample writes. -/
theorem sensed_setSection (s : State) (i : Fin 16) (r : SectionRec) (same : r.sensed = s.sections[i].sensed) :
    (s.setSection i r).sensed = s.sensed := by
  ext1 n h
  simp only [Vector.getElem_map, State.setSection_get]
  split
  · next e => subst e; exact same
  · rfl

/-- What every round of a fold leaves the same, the fold leaves the same. -/
theorem foldl_same {σ α β : Type} (view : σ → β) {f : σ → α → σ} (same : ∀ s x, view (f s x) = view s)
    (xs : List α) (s : σ) : view (xs.foldl f s) = view s := by
  induction xs generalizing s with
  | nil => rfl
  | cons x xs ih => exact (ih _).trans (same s x)

theorem Reported.sections {s t : State} (h : Reported s t) : t.sections = s.sections := by rw [h.same]

@[simp] theorem place_sections (s : State) (x : Subject) : (s.place x).sections = s.sections :=
  (reported_place s x).sections

@[simp] theorem recordFault_sections (s : State) (k : FaultKind) (x : Subject) (n : Option Nat) :
    (s.recordFault k x n).sections = s.sections := (reported_recordFault s k x n).sections

@[simp] theorem recordFaults_sections (s : State) (ks : List FaultKind) (x : Subject) :
    (s.recordFaults ks x).sections = s.sections := (reported_recordFaults s ks x).sections

@[simp] theorem post_sections (s : State) (d : Nat) (b : Body) : (s.post d b).sections = s.sections :=
  (reported_post s d b).sections

@[simp] theorem postProof_sections (w : Work) (d : Nat) (b : Body) :
    (w.postProof d b).st.sections = w.st.sections := by
  unfold Work.postProof
  split <;> simp

@[simp] theorem dropRequest_sections (s : State) (tag : Byte) : (s.dropRequest tag).sections = s.sections := by
  unfold State.dropRequest
  split
  · rfl
  · dsimp only
    split <;> rfl

/-! ## Parts of an event that write no section record -/

@[simp] theorem request_sections (s : State) (d : Nat) (x : RequestSubject) (b : Byte → Body) :
    (s.request d x b).1.sections = s.sections := by
  unfold State.request
  dsimp only
  split <;> rfl

@[simp] theorem endInstance_sections (s : State) (g : Fin 8) : (s.endInstance g).sections = s.sections := by
  unfold State.endInstance
  split <;> simp

@[simp] theorem endIfEmpty_sections (s : State) (g : Fin 8) : (s.endIfEmpty g).sections = s.sections := by
  unfold State.endIfEmpty
  repeat' split
  all_goals simp

@[simp] theorem endOrWait_sections (s : State) (g : Fin 8) : (s.endOrWait g).sections = s.sections := by
  unfold State.endOrWait
  repeat' split
  all_goals simp

@[simp] theorem lockGone_sections (s : State) (ref : RouteRef) (e : Elem) :
    (s.lockGone ref e).sections = s.sections := by
  unfold State.lockGone
  repeat' split
  all_goals simp

/-! ### Points and signals -/

@[simp] theorem takePoint_sections (w : Work) (p : Fin 8) (step : PointStep) :
    (w.takePoint p step).st.sections = w.st.sections := by
  unfold Work.takePoint
  simp

@[simp] theorem movePoint_sections (w : Work) (p : Fin 8) (x : Position) (who : Requester) :
    (w.movePoint p x who).st.sections = w.st.sections := takePoint_sections _ _ _

@[simp] theorem lampLit_sections (w : Work) (g : Fin 8) : (w.lampLit g).st.sections = w.st.sections := by
  unfold Work.lampLit
  dsimp only
  repeat' split
  all_goals simp

@[simp] theorem setAspect_sections (w : Work) (g : Fin 8) (a : Aspect) :
    (w.setAspect g a).st.sections = w.st.sections := by
  unfold Work.setAspect
  extract_lets r r' w'
  split
  · exact lampLit_sections w' g
  · rfl

@[simp] theorem replaceSignal_sections (w : Work) (g : Fin 8) : (w.replaceSignal g).st.sections = w.st.sections := by
  unfold Work.replaceSignal
  dsimp only
  split <;> simp

@[simp] theorem clearSignal_sections (w : Work) (g : Fin 8) (ref : RouteRef) :
    (w.clearSignal g ref).st.sections = w.st.sections := setAspect_sections _ _ _

@[simp] theorem grantClaim_sections (w : Work) (ref : RouteRef) (e : Elem) (state : Required) :
    (w.grantClaim ref e state).st.sections = w.st.sections := by
  unfold Work.grantClaim
  dsimp only
  repeat' split
  all_goals simp

@[simp] theorem freeClaim_sections (w : Work) (ref : RouteRef) (e : Elem) :
    (w.freeClaim ref e).st.sections = w.st.sections := by
  unfold Work.freeClaim
  dsimp only
  repeat' split
  all_goals simp

/-! ### Flank portions and claims -/

@[simp] theorem changeFlank_sections (s : State) (g : Fin 8) (f : Nat) (c : FlankPortion → FlankPortion) :
    (s.changeFlank g f c).sections = s.sections := rfl

@[simp] theorem refuseFlank_sections (s : State) (g : Fin 8) (f : Nat) (reason : Reason) :
    (s.refuseFlank g f reason).sections = s.sections := by
  unfold State.refuseFlank
  split <;> rfl

@[simp] theorem markFlank_sections (s : State) (g : Fin 8) (parts : List (Nat × FlankEntry × FlankPortion))
    (lapse : Option LapseReason) : (s.markFlank g parts lapse).sections = s.sections :=
  foldl_same State.sections (fun _ _ => changeFlank_sections _ _ _ _) _ _

@[simp] theorem claimLocal_sections (w : Work) (g : Fin 8) (x : Nat × FlankEntry × FlankPortion) :
    (w.claimLocal g x).st.sections = w.st.sections := by
  unfold Work.claimLocal
  repeat' split
  all_goals simp

@[simp] theorem placeClaim_sections (w : Work) (g : Fin 8) (owner : Nat)
    (due : List (Nat × FlankEntry × FlankPortion)) : (w.placeClaim g owner due).st.sections = w.st.sections := by
  unfold Work.placeClaim
  split
  · rfl
  · extract_lets reqs placed w'
    have base : w'.st.sections = w.st.sections := request_sections _ _ _ _
    split
    · exact (foldl_same State.sections (fun _ _ => changeFlank_sections _ _ _ _) due w'.st).trans base
    · exact (foldl_same State.sections (fun _ _ => refuseFlank_sections _ _ _ _) due w'.st).trans base

@[simp] theorem flankRounds_sections (g : Fin 8) (n : Nat) (w : Work) :
    (Work.flankRounds g n w).st.sections = w.st.sections := by
  induction n generalizing w with
  | zero => rfl
  | succ n ih =>
    have rounds {α : Type} {f : Work → α → Work} (same : ∀ w x, (f w x).st.sections = w.st.sections)
        (xs : List α) : (Work.flankRounds g n (xs.foldl f w)).st.sections = w.st.sections :=
      (ih _).trans (foldl_same (·.st.sections) same xs w)
    unfold Work.flankRounds
    dsimp only
    repeat' split
    · rfl
    · rfl
    · exact rounds (fun w x => claimLocal_sections w g x) _
    · rfl
    · rfl
    · exact rounds (fun w o => placeClaim_sections w g o _) _

@[simp] theorem claimFlank_sections (w : Work) (g : Fin 8) : (w.claimFlank g).st.sections = w.st.sections :=
  flankRounds_sections g 6 w

@[simp] theorem flankFailed_sections (w : Work) (g : Fin 8) (route dest : Nat) (tag : Byte) (elems : List Nat) :
    (w.flankFailed g route dest tag elems).st.sections = w.st.sections :=
  (claimFlank_sections _ g).trans (foldl_same State.sections (fun _ _ => refuseFlank_sections _ _ _ _) _ w.st)

@[simp] theorem releaseFlank_sections (w : Work) (g : Fin 8) (cause : ReleaseCause)
    (chosen : Nat × FlankEntry × FlankPortion → Bool) :
    (w.releaseFlank g cause chosen).st.sections = w.st.sections := by
  unfold Work.releaseFlank
  split
  · rfl
  · extract_lets parts due ref w₁ held waiting ended withdrawn w₂ w₃
    have freed : w₁.st.sections = w.st.sections := by
      refine foldl_same (·.st.sections) (fun w x => ?_) due w
      repeat' split
      all_goals simp
    have marked : w₂.st.sections = w₁.st.sections :=
      foldl_same State.sections (fun _ _ => changeFlank_sections _ _ _ _) due w₁.st
    have withdrew : w₃.st.sections = w₂.st.sections :=
      foldl_same State.sections (fun _ _ => dropRequest_sections _ _) ended w₂.st
    exact (withdrew.trans marked).trans freed

@[simp] theorem returnFlank_sections (w : Work) : w.returnFlank.st.sections = w.st.sections :=
  foldl_same State.sections (fun _ _ => post_sections _ _ _) _ w.st

@[simp] theorem releaseProtecting_sections (w : Work) (g : Fin 8) (cause : ReleaseCause) (freed : List Nat) :
    (w.releaseProtecting g cause freed).st.sections = w.st.sections := releaseFlank_sections _ _ _ _

@[simp] theorem stopFlank_sections (w : Work) (g : Fin 8) : (w.stopFlank g).st.sections = w.st.sections :=
  releaseFlank_sections _ _ _ _

@[simp] theorem assessClaim_sections (w : Work) (ref : RouteRef) (e : Elem) :
    (w.assessClaim ref e).st.sections = w.st.sections := by
  unfold Work.assessClaim State.changeClaimed
  dsimp only
  repeat' split
  all_goals simp

@[simp] theorem lapseClaim_sections (w : Work) (ref : RouteRef) (e : Elem) (reason : LapseReason) :
    (w.lapseClaim ref e reason).st.sections = w.st.sections := by
  unfold Work.lapseClaim State.changeClaimed
  dsimp only
  repeat' split
  all_goals simp

/-! ### Boundaries -/

@[simp] theorem settleDirection_sections (w : Work) (b : Fin 4) (direction : Direction) (told : DirectionTold) :
    (w.settleDirection b direction told).st.sections = w.st.sections := rfl

@[simp] theorem returnDirection_sections (w : Work) (b : Fin 4) (told : DirectionTold) :
    (w.returnDirection b told).st.sections = w.st.sections := by
  unfold Work.returnDirection
  split <;> simp

@[simp] theorem boundaryBroken_sections (w : Work) (b : Fin 4) (station : Nat) :
    (w.boundaryBroken b station).st.sections = w.st.sections := by
  unfold Work.boundaryBroken State.changeBoundary
  repeat' split
  all_goals simp

@[simp] theorem outbound_sections (s : State) (b : Fin 4) (c : BoundaryCfg) (i : Fin 16) :
    (s.outbound b c i).sections = s.sections := by
  have offered (t : TrainRecord) : (s.offerTrain b c t).sections = s.sections := by
    unfold State.offerTrain State.changeBoundary
    dsimp only
    split <;> simp
  unfold State.outbound
  split
  · rfl
  · split
    · rfl
    · exact offered _

@[simp] theorem edgeCleared_sections (s : State) (i : Fin 16) : (s.edgeCleared i).sections = s.sections := by
  refine foldl_same State.sections (fun s b => ?_) _ s
  repeat' split
  all_goals rfl

@[simp] theorem leaveDirection_sections (s : State) (g : Fin 8) : (s.leaveDirection g).sections = s.sections := by
  unfold State.leaveDirection
  dsimp only
  repeat' split
  all_goals rfl

/-! ### Routes at their controller -/

@[simp] theorem reportEntered_sections (w : Work) (g : Fin 8) : (w.reportEntered g).st.sections = w.st.sections := by
  unfold Work.reportEntered
  split <;> simp

@[simp] theorem reportRoute_sections (w : Work) (route : Nat) : (w.reportRoute route).st.sections = w.st.sections := by
  unfold Work.reportRoute
  split <;> simp

@[simp] theorem loseProof_sections (w : Work) (g : Fin 8) : (w.loseProof g).st.sections = w.st.sections := by
  unfold Work.loseProof
  repeat' split
  all_goals simp

@[simp] theorem assess_sections (w : Work) (g : Fin 8) : (w.assess g).st.sections = w.st.sections := by
  unfold Work.assess Work.stepIntoOpen
  dsimp only
  repeat' split
  all_goals simp

@[simp] theorem opened_sections (w : Work) (g : Fin 8) (ref : RouteRef) :
    (w.opened g ref).st.sections = w.st.sections := by
  unfold Work.opened
  repeat' split
  all_goals simp

@[simp] theorem lampHolds_sections (w : Work) (route : Nat) : (w.lampHolds route).st.sections = w.st.sections := by
  unfold Work.lampHolds
  repeat' split
  all_goals simp

@[simp] theorem goOn_sections (w : Work) (g : Fin 8) : (w.goOn g).st.sections = w.st.sections := by
  unfold Work.goOn State.changePortion
  dsimp only
  repeat' split
  all_goals simp

@[simp] theorem enterPositioning_sections (w : Work) (g : Fin 8) :
    (w.enterPositioning g).st.sections = w.st.sections := by
  unfold Work.enterPositioning
  repeat' split
  all_goals simp

@[simp] theorem flankLapsed_sections (w : Work) (g : Fin 8) (f : Nat) (lapse : LapseReason) (reason : Reason) :
    (w.flankLapsed g f lapse reason).st.sections = w.st.sections := by
  unfold Work.flankLapsed
  repeat' split
  all_goals simp

@[simp] theorem localFlankTold_sections (w : Work) (route : Nat) (e : Elem) (lapse : Option LapseReason)
    (reason : Reason) : (w.localFlankTold route e lapse reason).st.sections = w.st.sections := by
  unfold Work.localFlankTold
  dsimp only
  repeat' split
  all_goals simp

@[simp] theorem releaseAt_sections (s : State) (r : RouteRecord) (i : RouteInst) (freed : List Nat) (p : Portion) :
    (s.releaseAt r i freed p).sections = s.sections := by
  have placed (t : State) (indices : List Nat) : (t.releasePortion r p indices).sections = t.sections := by
    unfold State.releasePortion State.unholdImages
    split <;> simp
  unfold State.releaseAt
  split
  · exact placed _ _
  · split
    · rw [placed]
      cases p.tag with
      | none => rfl
      | some tag => exact dropRequest_sections s tag
    · rfl

@[simp] theorem breakToEmergency_sections (w : Work) (g : Fin 8) :
    (w.breakToEmergency g).st.sections = w.st.sections := by
  unfold Work.breakToEmergency
  simp

@[simp] theorem directionTold_sections (w : Work) (route : Nat) (told : DirectionTold) :
    (w.directionTold route told).st.sections = w.st.sections := by
  unfold Work.directionTold
  dsimp only
  repeat' split
  all_goals simp

@[simp] theorem sectionKnown_sections (w : Work) (g : Fin 8) (x : SectionRef) :
    (w.sectionKnown g x).st.sections = w.st.sections := by
  unfold Work.sectionKnown
  repeat' split
  all_goals simp

/-! ### Reservations and peers -/

@[simp] theorem assessReservation_sections (w : Work) (ref : RouteRef) :
    (w.assessReservation ref).st.sections = w.st.sections := by
  unfold Work.assessReservation
  dsimp only
  repeat' split
  all_goals simp

@[simp] theorem lapseReservation_sections (w : Work) (ref : RouteRef) (reason : LapseReason) :
    (w.lapseReservation ref reason).st.sections = w.st.sections := by
  unfold Work.lapseReservation
  dsimp only
  repeat' split
  all_goals simp

@[simp] theorem forceBreak_sections (w : Work) (station : Nat) :
    (w.forceBreak station).st.sections = w.st.sections := by
  unfold Work.forceBreak
  split
  · rfl
  · dsimp only
    split <;> rfl

@[simp] theorem breakWith_sections (w : Work) (station : Nat) :
    (w.breakWith station).st.sections = w.st.sections := rfl

@[simp] theorem requestFailed_sections (w : Work) (q : Request) :
    (w.requestFailed q).st.sections = w.st.sections := by
  unfold Work.requestFailed State.offerAnswered State.changeBoundary
  repeat' split
  all_goals simp

/-! ### What points and signals tell -/

@[simp] theorem tellHolder_sections (w : Work) (p : Fin 8) (ref : RouteRef) (m : MoveResult) :
    (w.tellHolder p ref m).st.sections = w.st.sections := by
  unfold Work.tellHolder
  dsimp only
  repeat' split
  all_goals simp

@[simp] theorem tellClaimant_sections (w : Work) (p : Fin 8) (ref : RouteRef) (m : MoveResult) :
    (w.tellClaimant p ref m).st.sections = w.st.sections := by
  unfold Work.tellClaimant
  dsimp only
  repeat' split
  all_goals simp

@[simp] theorem tellResult_sections (w : Work) (p : Fin 8) (m : MoveResult) (who : Requester) :
    (w.tellResult p m who).st.sections = w.st.sections := by
  unfold Work.tellResult
  split <;> simp

@[simp] theorem tellHolderProof_sections (w : Work) (ref : RouteRef) (told : ProofTold) :
    (w.tellHolderProof ref told).st.sections = w.st.sections := by
  unfold Work.tellHolderProof
  dsimp only
  repeat' split
  all_goals simp

@[simp] theorem tellClaimantProof_sections (w : Work) (p : Fin 8) (ref : RouteRef) (told : ProofTold) :
    (w.tellClaimantProof p ref told).st.sections = w.st.sections := by
  unfold Work.tellClaimantProof
  repeat' split
  all_goals simp

@[simp] theorem tellExit_sections (w : Work) (user : Fin 8) (present : Bool) :
    (w.tellExit user present).st.sections = w.st.sections := by
  unfold Work.tellExit
  dsimp only
  split <;> simp

@[simp] theorem toldWithdrawn_sections (w : Work) (route : Nat) :
    (w.toldWithdrawn route).st.sections = w.st.sections := by
  unfold Work.toldWithdrawn
  split <;> simp

/-! ## Parts of an event that write locks, train records or sequence fault flags -/

@[simp] theorem setTrain_sensed (s : State) (i : Fin 16) (x : Option TrainRecord) :
    (s.setTrain i x).sensed = s.sensed := sensed_setSection _ _ _ rfl

@[simp] theorem freeLock_sensed (w : Work) (ref : RouteRef) (e : Elem) :
    (w.freeLock ref e).st.sensed = w.st.sensed := by
  unfold Work.freeLock
  split
  · rfl
  · split
    · rfl
    · split
      · next i _ =>
        dsimp only
        split
        · exact sensed_setSection _ _ _ rfl
        · simpa using sensed_setSection w.st i w.st.sections[i].dropLock rfl
      · dsimp only
        split <;> simp
      · dsimp only
        split <;> simp
      · rfl

@[simp] theorem removePending_sensed (w : Work) (i : Fin 16) : (w.removePending i).st.sensed = w.st.sensed := by
  unfold Work.removePending
  extract_lets elems due
  refine (foldl_same State.sensed (fun s ref => ?_) _ _).trans
    (foldl_same (·.st.sensed) (fun w x => freeLock_sensed w x.2 x.1) due w)
  repeat' split
  all_goals simp

/-! ### Trains -/

@[simp] theorem describerStep_sensed (s : State) (i : Fin 16) (measured : Option Nat) :
    (s.describerStep i measured).sensed = s.sensed := by
  unfold State.describerStep State.attach
  repeat' split
  all_goals simp

@[simp] theorem edgeOccupied_sensed (s : State) (i : Fin 16) (measured : Option Nat) :
    (s.edgeOccupied i measured).sensed = s.sensed := by
  refine foldl_same State.sensed (fun s b => ?_) _ s
  unfold State.arrival State.attach State.changeBoundary
  dsimp only
  repeat' split
  all_goals simp

@[simp] theorem endSpeed_sensed (s : State) (i : Fin 16) : (s.endSpeed i).sensed = s.sensed := by
  unfold State.endSpeed
  split <;> simp

@[simp] theorem eraseUnlocked_sensed (s : State) (i : Fin 16) : (s.eraseUnlocked i).sensed = s.sensed := by
  unfold State.eraseUnlocked
  split <;> simp

/-! ### Freeing what a route holds -/

@[simp] theorem freeIndices_sensed (w : Work) (g : Fin 8) (freed : List Nat) :
    (w.freeIndices g freed).st.sensed = w.st.sensed := by
  unfold Work.freeIndices
  split
  · rfl
  · refine (foldl_same State.sensed (fun s p => by rw [State.sensed, releaseAt_sections]) _ _).trans
      (foldl_same (·.st.sensed) (fun w k => ?_) freed w)
    repeat' split
    all_goals simp

@[simp] theorem releaseEverything_sensed (w : Work) (g : Fin 8) :
    (w.releaseEverything g).st.sensed = w.st.sensed := by
  unfold Work.releaseEverything
  split <;> simp

@[simp] theorem rollback_sensed (w : Work) (g : Fin 8) (failure : Option Failure) :
    (w.rollback g failure).st.sensed = w.st.sensed := by
  unfold Work.rollback
  repeat' split
  all_goals simp

@[simp] theorem releaseSection_sensed (w : Work) (g : Fin 8) (i : RouteInst) (r : RouteRecord) (k : Nat) :
    (w.releaseSection g i r k).st.sensed = w.st.sensed := by
  unfold Work.releaseSection
  dsimp only
  split <;> simp

@[simp] theorem releaseSections_sensed (g : Fin 8) (n : Nat) (w : Work) :
    (Work.releaseSections g n w).st.sensed = w.st.sensed := by
  induction n generalizing w with
  | zero => rfl
  | succ n ih =>
    unfold Work.releaseSections
    repeat' split
    · rfl
    · exact (ih _).trans (releaseSection_sensed w g _ _ _)
    · rfl

@[simp] theorem testRelease_sensed (w : Work) (g : Fin 8) : (w.testRelease g).st.sensed = w.st.sensed := by
  unfold Work.testRelease
  simp

@[simp] theorem overlapExpires_sensed (w : Work) (g : Fin 8) : (w.overlapExpires g).st.sensed = w.st.sensed := by
  unfold Work.overlapExpires
  dsimp only
  repeat' split
  all_goals simp

@[simp] theorem startOverlap_sensed (w : Work) (g : Fin 8) (r : RouteRecord) :
    (w.startOverlap g r).st.sensed = w.st.sensed := by
  unfold Work.startOverlap
  repeat' split
  all_goals simp

@[simp] theorem finishOff_sensed (w : Work) (g : Fin 8) : (w.finishOff g).st.sensed = w.st.sensed := by
  unfold Work.finishOff
  split
  · rfl
  · next i r _ =>
    have waits (s : State) : ((exitBoundary r).elim s fun b => s.dropWaiting b i.route).sections = s.sections := by
      cases exitBoundary r <;> rfl
    dsimp only
    split <;> simp [waits]

/-! ### Train entry, overrun and sequence faults -/

@[simp] theorem enterProgress_sensed (r : RouteRecord) (w : Work) (g : Fin 8) :
    (enterProgress r w g).st.sensed = w.st.sensed := by
  unfold enterProgress
  dsimp only
  split <;> simp

@[simp] theorem trainEntry_sensed (w : Work) (g : Fin 8) (i : RouteInst) (r : RouteRecord) :
    (w.trainEntry g i r).st.sensed = w.st.sensed := by
  unfold Work.trainEntry Work.overrun
  split <;> simp

@[simp] theorem sequenceFault_sensed (s : State) (g : Fin 8) (x : SectionRef) :
    (s.sequenceFault g x).sensed = s.sensed := by
  unfold State.sequenceFault
  split
  · split
    · next t _ =>
      split
      · rfl
      · simpa using sensed_setSection s t { s.sections[t] with sequenceFault := true } rfl
    · rfl
  · simp

@[simp] theorem markFault_sensed (w : Work) (g : Fin 8) (i : RouteInst) (index : Nat) (x : SectionRef) :
    (w.markFault g i index x).st.sensed = w.st.sensed := by
  unfold Work.markFault
  split <;> simp

@[simp] theorem occupyPath_sensed (w : Work) (g : Fin 8) (i : RouteInst) (r : RouteRecord) (k : Nat) :
    (w.occupyPath g i r k).st.sensed = w.st.sensed := by
  unfold Work.occupyPath
  dsimp only
  repeat' split
  all_goals simp

@[simp] theorem pathOccupied_sensed (w : Work) (g : Fin 8) (i : RouteInst) (r : RouteRecord) (k index : Nat)
    (q : RouteReq) : (w.pathOccupied g i r k index q).st.sensed = w.st.sensed := by
  unfold Work.pathOccupied
  extract_lets outOfSequence
  repeat' split
  all_goals simp

@[simp] theorem overlapOccupied_sensed (w : Work) (g : Fin 8) (i : RouteInst) (r : RouteRecord) (index : Nat)
    (q : RouteReq) : (w.overlapOccupied g i r index q).st.sensed = w.st.sensed := by
  unfold Work.overlapOccupied
  split <;> simp

@[simp] theorem sectionTaken_sensed (w : Work) (g : Fin 8) (x : SectionRef) :
    (w.sectionTaken g x).st.sensed = w.st.sensed := by
  unfold Work.sectionTaken
  repeat' split
  all_goals simp

@[simp] theorem sectionFreed_sensed (w : Work) (g : Fin 8) (x : SectionRef) :
    (w.sectionFreed g x).st.sensed = w.st.sensed := by
  unfold Work.sectionFreed
  dsimp only
  repeat' split
  all_goals simp

@[simp] theorem withdrawRoute_sensed (w : Work) (g : Fin 8) : (w.withdrawRoute g).st.sensed = w.st.sensed := by
  unfold Work.withdrawRoute
  repeat' split
  all_goals simp

@[simp] theorem breakRoute_sensed (w : Work) (g : Fin 8) (station : Nat) :
    (w.breakRoute g station).st.sensed = w.st.sensed := by
  unfold Work.breakRoute
  dsimp only
  repeat' split
  all_goals simp

/-! ## An event -/

/-- No task writes what the samples write. -/
theorem take_sensed (w : Work) (x : Task) : (w.take x).st.sensed = w.st.sensed := by
  cases x <;> unfold Work.take
  case exitToReservation => dsimp only; split <;> simp
  all_goals simp [Work.toldRefused]

/-- The tasks of an event leave what the samples have written. -/
theorem settle_sensed (start : State) (n : Nat) (ts : List Task) (w : Work) :
    (Work.settle start n ts w).1.st.sensed = w.st.sensed := by
  induction n generalizing ts w with
  | zero => cases ts <;> rfl
  | succ n ih =>
    cases ts with
    | nil => rfl
    | cons x xs =>
      rw [settle_cons]
      refine ((ih _ _).trans (take_sensed _ x)).trans ?_
      rw [State.sensed, Work.on_st, (reported_placeChanged start w.st).sections]

/-- After its work an event writes nothing of what the samples write. -/
theorem event_sensed {before start : State} {work : Work → Work} (live : before.resetHeld = false) :
    ∃ t, before.event start work = .next t ∧ t.sensed = (work (Work.begin start)).st.sensed := by
  refine ⟨_, event_of_live live, ?_⟩
  rw [State.sensed, (drained_drained _).same, (reported_conclude before _).sections]
  show (Work.settle start taskBound _ _).1.returnFlank.st.sensed = _
  rw [State.sensed, returnFlank_sections]
  exact settle_sensed _ _ _ _

/-! ## The change of occupancy (R24) -/

@[simp] theorem testPoint_sections (w : Work) (p : Fin 8) : (w.testPoint p).st.sections = w.st.sections :=
  takePoint_sections _ _ _

/-- What the samples of a section write once its filter has changed: becoming OCCUPIED writes the entry capture
(R24). -/
def FilterChange.captured (now : Stamp) (r : SectionRec) : FilterChange → SectionRec
  | .becameOccupied => { r with entryCapture := some ⟨now, false⟩ }
  | .becameClear | .none => r

/-- Becoming OCCUPIED writes the entry capture; the speed, the describer and the boundaries write none of it. -/
theorem sectionOccupied_sensed (w : Work) (i : Fin 16) :
    (w.sectionOccupied i).st.sensed
      = (w.st.setSection i (FilterChange.becameOccupied.captured w.st.captureTimer w.st.sections[i])).sensed := by
  unfold Work.sectionOccupied
  extract_lets w₁ measured w₂ w₃ w₄
  have speed : w₂.st.sensed = w₁.st.sensed := by
    show (measured.elim w₁.st (w₁.st.writeSpeed i)).sensed = _
    cases measured with
    | none => rfl
    | some v => exact setTrain_sensed _ _ _
  have step : w₃.st.sensed = w₂.st.sensed := describerStep_sensed _ _ _
  have edge : w₄.st.sensed = w₃.st.sensed := edgeOccupied_sensed _ _ _
  exact (edge.trans step).trans speed

theorem sectionCleared_sensed (w : Work) (i : Fin 16) : (w.sectionCleared i).st.sensed = w.st.sensed := by
  unfold Work.sectionCleared
  extract_lets listed w₁ w₂ w₃ w₄
  have tested : w₃.st.sections = w₂.st.sections :=
    foldl_same (·.st.sections) (fun w p => testPoint_sections w p) _ w₂
  simp [w₄, tested, w₂, w₁]

/-- The samples of a section write its record as the filter has made it, and the capture of its change. -/
theorem takeFilter_sensed (w : Work) (i : Fin 16) (made : SectionRec × FilterChange) :
    (w.takeFilter i made).st.sections[i].sensed = (made.2.captured w.st.captureTimer made.1).sensed := by
  have written (r : SectionRec) (v : Work) (e : v.st.sensed = (w.st.setSection i r).sensed) :
      v.st.sections[i].sensed = r.sensed := by
    rw [← State.sensed_get, e, State.sensed_get]
    simp
  obtain ⟨r, change⟩ := made
  cases change with
  | none => exact written r _ rfl
  | becameOccupied =>
    refine written _ _ ((sectionOccupied_sensed _ i).trans ?_)
    simp [State.setSection]
  | becameClear => exact written r _ (sectionCleared_sensed _ i)

/-! ## A sample at a CLEAR filter (R21) -/

/-- A sample given to a CLEAR filter leaves the clear timer, and counts or ends the occupied run (R21). -/
theorem sample_of_clear (c : SectionCfg) (occupied : Bool) (r : SectionRec) (clear : r.filter = .clear) :
    r.sample c occupied =
      if occupied then
        if c.samples ≤ r.occupiedRun + 1 then ({ r with filter := .occupied, occupiedRun := 0 }, .becameOccupied)
        else ({ r with occupiedRun := r.occupiedRun + 1 }, .none)
      else ({ r with occupiedRun := 0 }, .none) := by
  unfold SectionRec.sample
  rw [clear]
  cases occupied <;> rfl

/-- A controller that samples its field is out of reset. -/
theorem live_of_sampling {s : State} (h : s.sampling = true) : s.resetHeld = false := by
  unfold State.sampling at h
  simp_all

/-- SECTION_SAMPLE completes with the section's record as its filter has made it (R20 to R24). -/
theorem sectionSample_writes (i : Fin 16) (occupied : Bool) (s : State) (c : SectionCfg)
    (sampling : s.sampling = true) (named : s.cfg.sections[i] = some c) :
    Completes (.sectionSample i occupied) s fun t =>
      let made := s.sections[i].sample c occupied
      t.sections[i].sensed = (made.2.captured s.captureTimer made.1).sensed := by
  have cfg : s.sectionCfg i = c := by simp [State.sectionCfg, named]
  have equipped : s.equipped (.track i) = true := by simp [State.equipped, named]
  obtain ⟨t, done, e⟩ := event_sensed (before := s) (start := s)
    (work := fun w => w.takeFilter i (w.st.sections[i].sample (w.st.sectionCfg i) occupied))
    (live_of_sampling sampling)
  refine ⟨t, ?_, ?_⟩
  · show execSectionSample i occupied s = _
    unfold execSectionSample
    rw [if_pos ⟨sampling, equipped⟩, done]
  · dsimp only
    rw [← State.sensed_get, e, State.sensed_get, takeFilter_sensed, Work.begin_st, cfg]

/-- Records that the samples have written alike agree in all that they write. -/
theorem sensed_inj {r r' : SectionRec} (h : r.sensed = r'.sensed) :
    r.filter = r'.filter ∧ r.occupiedRun = r'.occupiedRun ∧ r.clearTimer = r'.clearTimer
      ∧ r.entryCapture = r'.entryCapture := by
  simpa [SectionRec.sensed] using h

/-! ## What a command does to the filters -/

/-- The outcome of a command that writes no filter: nothing, or an event whose work is lawful, from a state with the
sections as they were. -/
inductive LawfulOutcome (s : State) : Host.Outcome State Fault Refusal → Prop
  | idle : LawfulOutcome s (.next s)
  | event {start : State} {work : Work → Work} (sections : start.sections = s.sections)
      (lawful : ∀ w, Lawful start w.st → Lawful start (work w).st) : LawfulOutcome s (s.event start work)

section
variable {s t : State} {w : Work}

theorem LawfulOutcome.ite {c : Prop} [Decidable c] {o : Host.Outcome State Fault Refusal} (h : LawfulOutcome s o) :
    LawfulOutcome s (if c then o else .next s) := by
  split
  · exact h
  · exact .idle

/-! ### Telegrams taken from the receive queue (R75) -/

theorem lawful_reply (dest : Nat) (body : Body) (h : Lawful s w.st) : Lawful s (w.reply dest body).st := by
  unfold Work.reply
  split
  · exact lawful_postProof _ _ h
  · exact lawful_post _ _ h

theorem lawful_keepRequest (x : RawTelegram) (h : Lawful s t) : Lawful s (t.keepRequest x) := by
  unfold State.keepRequest
  split
  · exact lawful_changePeer _ _ h
  · exact h

theorem lawful_vetted (x : RawTelegram) {owner : Nat → Body → Work → Work}
    (owns : ∀ source body w, Lawful s w.st → Lawful s (owner source body w).st) (verdict : Vetting)
    (h : Lawful s w.st) : Lawful s (w.vetted x owner verdict).st := by
  cases verdict with
  | ignored => exact h
  | lineError => exact lawful_recordFault _ _ _ h
  | refused answer => exact lawful_draw _ (lawful_reply _ _ h)
  | passed body => exact owns _ _ _ (lawful_keepRequest _ h)

/-- A telegram row is lawful where what its owner does is. -/
theorem takeFront_lawful (mine : RawTelegram → Bool) {write : Body → State → State}
    {owner : Nat → Body → Work → Work} (writes : ∀ body t, (write body t).sections = t.sections)
    (owns : ∀ start source body w, Lawful start w.st → Lawful start (owner source body w).st) :
    LawfulOutcome s (s.takeFront mine write owner) := by
  unfold State.takeFront
  split
  · exact .idle
  · refine .ite (.event ?_ fun w h => lawful_vetted _ (owns _) _ h)
    split
    · exact writes _ _
    · rfl

theorem takeTelegram_lawful (mine : RawTelegram → Bool) {owner : Nat → Body → Work → Work}
    (owns : ∀ start source body w, Lawful start w.st → Lawful start (owner source body w).st) :
    LawfulOutcome s (s.takeTelegram mine owner) := takeFront_lawful mine (fun _ _ => rfl) owns

/-! ### The commands of desks (section 12.3) -/

/-- A command decided is lawful where its effect, taken when nothing refuses it and the answer has been placed, is
lawful. -/
theorem lawful_decide (dest : Nat) (tag : Byte) (code : Nat) (refusal : Option Reason) {accepted : Work → Work}
    (accepts : refusal = none → Lawful s (w.st.answerDesk dest tag code none none) →
      Lawful s (accepted (w.on (·.answerDesk dest tag code none))).st)
    (h : Lawful s w.st) : Lawful s (w.decide dest tag code refusal accepted).st := by
  cases refusal with
  | some reason => exact lawful_answerDesk _ _ _ _ _ h
  | none => exact accepts rfl (lawful_answerDesk _ _ _ _ _ h)

theorem lawful_takeSet (dest : Nat) (tag : Byte) (n : Nat) (h : Lawful s w.st) :
    Lawful s (w.takeSet dest tag n).st := by
  have refused (reason : Reason) (index : Option Nat) :
      Lawful s (w.st.answerDesk dest tag 1 (some reason) index) := lawful_answerDesk _ _ _ _ _ h
  unfold Work.takeSet
  dsimp only
  split
  · exact refused _ _
  · split
    · exact refused _ _
    · split
      · split
        · split
          · exact lawful_answerDesk _ _ _ _ _ h
          · exact lawful_reclear _ _ _ _ _ h
        · exact refused _ _
      · split
        · exact refused _ _
        · split
          · exact refused _ _
          · exact lawful_startRoute _ _ _ ‹_› h

/-- A POINT_MOVE admitted moves a point that no lock and no claim holds (checks 4 and 5 of R51). -/
theorem moveRefusal_free {p : Fin 8} (x : Position) (admitted : t.moveRefusal p = none) : t.points[p].openTo x := by
  refine PointRec.openTo_of_free x ?_
  unfold State.moveRefusal at admitted
  dsimp only at admitted
  split at admitted
  · cases admitted
  · split at admitted
    · cases admitted
    · simp_all [PointRec.free]

theorem pointRefusal_moveRefusal {n target : Nat} {p : Fin 8} {x : Position} (named : moveOf n target = some (p, x))
    (admitted : t.pointRefusal n target = none) : t.moveRefusal p = none := by
  unfold State.pointRefusal at admitted
  rw [named] at admitted
  split at admitted
  · cases admitted
  · cases admitted
  · next e => cases e; exact admitted

/-- An update of the fault record and the alert mark alone. -/
theorem Lawful.faults {u : State} (h : Lawful s t)
    (e : u = { t with counts := u.counts, firstFault := u.firstFault, alertArmed := u.alertArmed }) : Lawful s u := by
  refine h.trans ?_
  rw [e]
  exact ⟨rfl, rfl, fun _ => ⟨rfl, rfl⟩, id, id, id, id, id, id, id, fun _ _ h k => absurd h k⟩

theorem lawful_fetchFaults (dest : Nat) (tag : Byte) (h : Lawful s t) : Lawful s (t.fetchFaults dest tag) := by
  have placed : Lawful s ((t.post dest (t.fetchAnswer tag)).draw 4) := lawful_draw _ (lawful_post _ _ h)
  unfold State.fetchFaults
  dsimp only
  split
  · exact placed.faults rfl
  · exact placed

theorem lawful_rearm (h : Lawful s t) : Lawful s t.rearm := by
  unfold State.rearm
  split
  · exact h.faults rfl
  · exact lawful_draw _ (h.reported (reported_sendAlert t))

@[simp] theorem takeAdmission_sections (s : State) : s.takeAdmission.sections = s.sections := by
  unfold State.takeAdmission
  repeat' split
  all_goals rfl

@[simp] theorem leaveService_sections (s : State) : s.leaveService.sections = s.sections := by
  unfold State.leaveService
  split <;> rfl

@[simp] theorem blockWrite_sections (body : Body) (s : State) : (blockWrite body s).sections = s.sections := by
  unfold blockWrite State.takeBlock
  repeat' split
  all_goals rfl

/-! ### The area line (chapter 5) -/

@[simp] theorem contend_sections (s : State) (idle : Nat) (levels : BitVec 18) :
    (s.contend idle levels).sections = s.sections := by
  unfold State.contend
  repeat' split
  all_goals rfl

theorem lawful_dequeue (k : Nat) (h : Lawful s t) : Lawful s (t.dequeue k) :=
  lawful_sendQueue _ (List.length_eraseIdx_le _ _) h

theorem lawful_requestDelivered (tag : Byte) (h : Lawful s t) : Lawful s (t.requestDelivered tag) := by
  refine lawful_requests _ ?_ h
  rw [List.map_map, List.map_congr_left (g := (·.tag)) fun q _ => ?_]
  dsimp only [Function.comp]
  split <;> rfl

theorem lawful_delivered (k : Nat) (e : SendEntry) (h : Lawful s t) : Lawful s (t.delivered k e) := by
  have left := lawful_dequeue k h
  unfold State.delivered
  dsimp only
  split
  · exact left
  · split
    · exact lawful_requestDelivered _ left
    · exact left.other rfl
    · exact left

theorem lawful_lineError (k : Nat) (e : SendEntry) (h : Lawful s w.st) : Lawful s (w.lineError k e).st := by
  unfold Work.lineError
  split
  · exact lawful_dequeue k h
  · split
    · exact h
    · exact lawful_givenUp _ (lawful_recordFault _ _ _ (lawful_dequeue k h))

theorem lawful_unacknowledged (k : Nat) (e : SendEntry) (h : Lawful s w.st) :
    Lawful s (w.unacknowledged k e).st := by
  unfold Work.unacknowledged
  split
  · exact lawful_dequeue k h
  · split
    · exact h
    · exact lawful_givenUp _ (lawful_recordFault _ _ _ (lawful_dequeue k h))

theorem lawful_deadline (tag : Byte) (h : Lawful s w.st) : Lawful s (w.deadline tag).st := by
  unfold Work.deadline
  split
  · exact lawful_dropRequests _ h
  · exact h

/-- A whole frame is taken lawfully (R67, R71). -/
theorem takeFrame_lawful (x : FrameReading) : LawfulOutcome s (s.takeFrame x) := by
  have failed (dest : Nat) : LawfulOutcome s (s.event s.frameTaken fun w =>
      if s.address = some dest then w.on (·.recordFault .lineError .controller) else w) := by
    refine .event rfl fun w h => ?_
    split
    · exact lawful_recordFault _ _ _ h
    · exact h
  unfold State.takeFrame
  split
  · exact .event rfl fun _ h => h
  · exact failed _
  · exact failed _
  · split
    · split
      · exact .event rfl fun _ h => h
      · exact .event rfl fun _ h => h
    · refine .event rfl fun w h => ?_
      split
      · split
        · exact lawful_takePresence _ _ h
        · exact h
      · exact h

/-! ### The field and the loader -/

theorem lawful_markStale (x : CaptureRef) (h : Lawful s t) : Lawful s (t.markStale x) := by
  cases x with
  | track i => exact lawful_setSection _ _ ⟨rfl, rfl⟩ h
  | remote station index => exact lawful_changeRemote _ _ h

theorem keyStateChange_lawful (readings : BitVec 5) : LawfulOutcome s (execKeyStateChange readings s) := by
  unfold execKeyStateChange
  split
  · exact .idle
  · dsimp only
    split
    · exact .idle
    · split
      · exact .event rfl fun _ h => h
      · split
        · exact .event rfl fun _ h => lawful_withdraw h
        · exact .event rfl fun _ h => h

theorem abortMark_lawful : LawfulOutcome s (execAbortMark s) := by
  unfold execAbortMark
  split
  · exact .idle
  · split
    · exact .idle
    · exact .event rfl fun _ h => lawful_lineError _ _ h

theorem acknowledgementSlot_lawful (dominant : Bool) : LawfulOutcome s (execAcknowledgementSlot dominant s) := by
  unfold execAcknowledgementSlot
  split
  · exact .idle
  · split
    · exact .idle
    · refine .event rfl fun w h => ?_
      split
      · exact lawful_delivered _ _ h
      · exact lawful_unacknowledged _ _ h

theorem frameReceive_lawful (idle : Nat) (levels : List Bool) :
    LawfulOutcome s (execFrameReceive idle levels s) := by
  unfold execFrameReceive
  refine .ite ?_
  split
  · exact .event rfl fun _ h => h
  · exact takeFrame_lawful _

/-! ### Every command -/

theorem pointMove_lawful : LawfulOutcome s (execPointMove s) :=
  takeTelegram_lawful _ fun _ _ _ w h => by
    split
    · next dest tag n target =>
      refine lawful_decide _ _ _ _ (fun admitted answered => ?_) h
      split
      · next p x named =>
        refine lawful_movePoint p x .desk ?_ answered
        rw [Work.on_st, (reported_answerDesk w.st _ tag 6 none none).same]
        exact moveRefusal_free x (pointRefusal_moveRefusal named admitted)
      · exact answered
    · exact h

theorem cancel_lawful : LawfulOutcome s (execCancel s) :=
  takeTelegram_lawful _ fun _ _ _ _ h => by
    split
    · refine lawful_decide _ _ _ _ (fun _ h => ?_) h
      split
      · exact lawful_cancel _ _ _ h
      · exact h
    · exact h

theorem emergencyRelease_lawful : LawfulOutcome s (execEmergencyRelease s) :=
  takeTelegram_lawful _ fun _ _ _ _ h => by
    split
    · refine lawful_decide _ _ _ _ (fun _ h => ?_) h
      split
      · split
        · exact h
        · exact lawful_emergencyRelease _ _ _ h
      · exact h
    · exact h

theorem describe_lawful : LawfulOutcome s (execDescribe s) :=
  takeTelegram_lawful _ fun _ _ _ _ h => by
    split
    · refine lawful_decide _ _ _ _ (fun _ h => ?_) h
      split
      · exact lawful_setTrain _ _ h
      · exact h
    · exact h

theorem erase_lawful : LawfulOutcome s (execErase s) :=
  takeTelegram_lawful _ fun _ _ _ _ h => by
    split
    · refine lawful_decide _ _ _ _ (fun _ h => ?_) h
      split
      · exact lawful_setTrain _ _ h
      · exact h
    · exact h

theorem handoverClear_lawful : LawfulOutcome s (execHandoverClear s) :=
  takeTelegram_lawful _ fun _ _ _ _ h => by
    split
    · refine lawful_decide _ _ _ _ (fun _ h => ?_) h
      split
      · exact lawful_clearHandover _ h
      · exact h
    · exact h

theorem status_lawful : LawfulOutcome s (execStatus s) :=
  takeTelegram_lawful _ fun _ _ _ _ h => by
    split
    · refine lawful_decide _ _ _ _ (fun _ h => ?_) h
      exact Lawful.foldl (fun _ x h => lawful_place x h) _ h
    · exact h

theorem withdraw_lawful : LawfulOutcome s (execWithdraw s) :=
  takeFront_lawful _ (fun _ => leaveService_sections) fun _ _ _ _ h => by
    split
    · split
      · exact lawful_answerDesk _ _ _ _ _ h
      · rw [Work.answerLast_st]
        split
        · exact lawful_withdraw h
        · exact h
    · exact h

theorem settingLimitExpiry_lawful (g : Fin 8) : LawfulOutcome s (execSettingLimitExpiry g s) :=
  .event rfl fun _ h => by
    split
    · split
      · exact lawful_rollback _ _ h
      · exact h
    · exact h

theorem approachReleaseExpiry_lawful (g : Fin 8) : LawfulOutcome s (execApproachReleaseExpiry g s) :=
  .event rfl fun _ h => by
    split
    · split
      · exact lawful_fullRelease _ h
      · exact h
    · exact h

theorem overlapTimerExpiry_lawful (g : Fin 8) : LawfulOutcome s (execOverlapTimerExpiry g s) :=
  .event rfl fun _ h => by
    split
    · split
      · exact lawful_overlapExpires _ h
      · exact h
    · exact h

/-- The commands that write the filter of a section: a start, an image, and a section's samples and clear timer. -/
def Instr.writesFilter : Instr → Bool
  | .start _ | .resetAsserted | .imageCheck .. | .sectionSample .. | .clearTimerExpiry _ => true
  | _ => false

/-- Every other command is lawful, from the sections as they were. -/
theorem exec_lawful (c : Instr) (s : State) (other : Instr.writesFilter c = false) : LawfulOutcome s (exec c s) := by
  cases c
  case start => cases other
  case resetAsserted => cases other
  case imageCheck => cases other
  case sectionSample => cases other
  case clearTimerExpiry => cases other
  case startHoldExpiry => exact .ite (.event rfl fun _ h => h)
  case keyStateChange readings => exact keyStateChange_lawful readings
  case staleMark x => exact .event rfl fun _ h => lawful_markStale x h
  case detectionChange => exact .ite (.event rfl fun _ h => lawful_takePoint _ _ (PointRec.sound_detect ..) h)
  case currentSenseChange =>
    exact .ite (.event rfl fun _ h => lawful_takePoint _ _ (PointRec.sound_senseChange ..) h)
  case overCurrentExpiry =>
    exact .ite (.event rfl fun _ h => lawful_takePoint _ _ (PointRec.sound_overCurrentExpiry ..) h)
  case throwTimerExpiry =>
    exact .ite (.event rfl fun _ h => lawful_takePoint _ _ (PointRec.sound_throwExpiry ..) h)
  case reversalLockExpiry =>
    exact .ite (.event rfl fun _ h => lawful_takePoint _ _ (PointRec.sound_reversalExpiry ..) h)
  case lampProvingInputChange => exact .ite (.event rfl fun _ h => lawful_lampInput _ _ _ h)
  case lampProvingTimerExpiry => exact .ite (.event rfl fun _ h => lawful_lampExpiry _ h)
  case contention idle levels => exact .ite (.event (contend_sections s idle levels) fun _ h => h)
  case abortMark => exact abortMark_lawful
  case acknowledgementSlot dominant => exact acknowledgementSlot_lawful dominant
  case frameReceive idle levels => exact frameReceive_lawful idle levels
  case presence => exact .ite (.event rfl fun _ h => lawful_takePresence _ _ h)
  case presencePeriod => exact .ite (.event rfl fun _ h => lawful_announce h)
  case silenceTimerExpiry => exact .event rfl fun _ h => lawful_silenceExpires _ h
  case answerDeadline => exact .event rfl fun _ h => lawful_deadline _ h
  case reserve =>
    exact takeTelegram_lawful _ fun _ _ _ _ h => by
      split
      exacts [lawful_takeReserve _ _ _ _ h, h]
  case release =>
    exact takeTelegram_lawful _ fun _ _ _ _ h => by
      split
      exacts [lawful_takeRelease _ _ _ _ h, h]
  case flankClaim =>
    exact takeTelegram_lawful _ fun _ _ _ _ h => by
      split
      exacts [lawful_takeFlankClaim _ _ _ _ h, h]
  case flankRelease =>
    exact takeTelegram_lawful _ fun _ _ _ _ h => by
      split
      exacts [lawful_takeFlankRelease _ _ _ _ h, h]
  case directionRequest =>
    exact takeTelegram_lawful _ fun _ _ _ _ h => by
      split
      exacts [lawful_takeDirectionRequest _ _ _ h, h]
  case offer =>
    exact takeTelegram_lawful _ fun _ _ _ _ h => by
      split
      exacts [lawful_takeOffer _ _ _ _ _ _ h, h]
  case confirm =>
    exact takeTelegram_lawful _ fun _ _ _ _ h => by
      split
      exacts [lawful_takeConfirm _ _ _ _ h, h]
  case stateNotice =>
    exact takeTelegram_lawful _ fun _ _ _ _ h => by
      split
      exacts [lawful_takeNotice _ _ _ _ _ h, h]
  case proven =>
    exact takeTelegram_lawful _ fun _ _ _ _ h => by
      split
      exacts [lawful_portionProven _ _ _ h, lawful_flankProven _ _ _ _ h, h]
  case lapse =>
    exact takeTelegram_lawful _ fun _ _ _ _ h => by
      split
      exacts [lawful_portionLapsed _ _ _ _ h, lawful_flankLapse _ _ _ _ _ h, h]
  case reserveAnswer =>
    exact takeTelegram_lawful _ fun _ _ _ _ h => by
      split
      exacts [lawful_takeReserveAnswer _ _ _ _ _ _ h, h]
  case flankAnswer =>
    exact takeTelegram_lawful _ fun _ _ _ _ h => by
      split
      exacts [lawful_takeFlankAnswer _ _ _ _ _ h, h]
  case directionAnswer =>
    exact takeTelegram_lawful _ fun _ _ _ _ h => by
      split
      exacts [lawful_takeDirectionAnswer _ _ _ _ h, h]
  case offerAnswer =>
    exact takeTelegram_lawful _ fun _ _ _ _ h => by
      split
      exacts [lawful_takeOfferAnswer _ _ _ _ h, h]
  case set =>
    exact takeTelegram_lawful _ fun _ _ _ _ h => by
      split
      exacts [lawful_takeSet _ _ _ h, h]
  case cancel => exact cancel_lawful
  case emergencyRelease => exact emergencyRelease_lawful
  case block =>
    exact takeFront_lawful _ blockWrite_sections fun _ _ _ _ h => by
      split
      exacts [lawful_answerDesk _ _ _ _ _ h, h]
  case unblock =>
    exact takeFront_lawful _ blockWrite_sections fun _ _ _ _ h => by
      split
      exacts [lawful_answerDesk _ _ _ _ _ h, h]
  case pointMove => exact pointMove_lawful
  case describe => exact describe_lawful
  case erase => exact erase_lawful
  case handoverClear => exact handoverClear_lawful
  case status => exact status_lawful
  case faultFetch =>
    exact takeTelegram_lawful _ fun _ _ _ _ h => by
      split
      exacts [lawful_fetchFaults _ _ h, h]
  case rearm =>
    exact takeTelegram_lawful _ fun _ _ _ _ h => by
      split
      exacts [lawful_answerDesk _ _ _ _ _ (lawful_rearm h), h]
  case admitCommand =>
    exact takeFront_lawful _ (fun _ => takeAdmission_sections) fun _ _ _ _ h => by
      split
      exacts [lawful_answerDesk _ _ _ _ _ h, h]
  case withdraw => exact withdraw_lawful
  case settingLimitExpiry g => exact settingLimitExpiry_lawful g
  case approachReleaseExpiry g => exact approachReleaseExpiry_lawful g
  case overlapTimerExpiry g => exact overlapTimerExpiry_lawful g
  case emergencyTimerExpiry => exact .event rfl fun _ h => lawful_emergencyExpires _ h
  case orphanTimerExpiry => exact .event rfl fun _ h => lawful_orphanExpires _ h
  case claimOrphanExpiry => exact .event rfl fun _ h => lawful_claimsExpire _ h
  case confirmTimerExpiry => exact .event rfl fun _ h => lawful_confirmExpires _ _ h
  case reportDrain => exact .event rfl fun _ h => h
  case unknownKind => exact takeTelegram_lawful _ fun _ _ _ _ h => h
  case commandAnswerReceived => exact takeTelegram_lawful _ fun _ _ _ _ h => h

end

/-! ## The clear timer is stopped throughout (R21) -/

/-- After the outcome the clear timers of the CLEAR filters are stopped, if they were before. -/
def KeepsTimersStopped (s : State) (o : Host.Outcome State Fault Refusal) : Prop :=
  ∀ t, o = .next t → s.clearTimersStopped → t.clearTimersStopped

theorem Lawful.clearTimersStopped {s t : State} (h : Lawful s t) (stopped : s.clearTimersStopped) :
    t.clearTimersStopped := by
  intro i clear
  obtain ⟨filter, timer⟩ := h.filter i
  exact timer.trans (stopped i (filter ▸ clear))

/-- Where sections are the same, so are their filters and timers. -/
theorem clearTimersStopped_of_sections {s t : State} (same : t.sections = s.sections)
    (stopped : s.clearTimersStopped) : t.clearTimersStopped := by
  unfold State.clearTimersStopped
  rw [same]
  exact stopped

theorem KeepsTimersStopped.next {s t : State} (h : s.clearTimersStopped → t.clearTimersStopped) :
    KeepsTimersStopped s (.next t) := by
  rintro u e stopped
  cases e
  exact h stopped

/-- An event keeps the timers stopped where its work is lawful from a state in which they are. -/
theorem event_keepsTimersStopped {before start base : State} {work : Work → Work} (kept : start.keep base = base)
    (stopped : before.clearTimersStopped → base.clearTimersStopped)
    (lawful : Lawful base (work (Work.begin start)).st) : KeepsTimersStopped before (before.event start work) := by
  cases held : before.resetHeld with
  | true =>
    rw [event_of_reset held]
    exact .next id
  | false =>
    obtain ⟨t, left, u, done, ended, reported⟩ := event_lawful held kept lawful
    rw [done]
    refine .next fun k => ?_
    have settled : u.clearTimersStopped :=
      clearTimersStopped_of_sections reported.sections (ended.clearTimersStopped (stopped k))
    exact clearTimersStopped_of_sections (by rw [(drained_drained u).same]) settled

theorem LawfulOutcome.keepsTimersStopped {s : State} {o : Host.Outcome State Fault Refusal} (h : LawfulOutcome s o) :
    KeepsTimersStopped s o := by
  cases h with
  | idle => exact .next id
  | event sections lawful =>
    exact event_keepsTimersStopped (State.keep_self _) (clearTimersStopped_of_sections sections) (lawful _ (.refl _))

/-- A section record may be written whose timer is stopped where its filter is CLEAR. -/
theorem setSection_clearTimersStopped {s : State} {i : Fin 16} {r : SectionRec}
    (stopped : r.filter = .clear → r.clearTimer = none) (others : s.clearTimersStopped) :
    (s.setSection i r).clearTimersStopped := by
  intro j
  rcases eq_or_ne i j with rfl | n
  · simpa using stopped
  · have away : ¬ i.val = j.val := fun e => n (Fin.ext e)
    simpa [away] using others j

/-- A filter that a sample leaves CLEAR has its timer stopped (R21 to R23). -/
theorem sample_clearTimer (c : SectionCfg) (occupied : Bool) (r : SectionRec)
    (stopped : r.filter = .clear → r.clearTimer = none) :
    (r.sample c occupied).1.filter = .clear → (r.sample c occupied).1.clearTimer = none := by
  unfold SectionRec.sample SectionRec.filterClears
  dsimp only
  repeat' split
  all_goals simp_all

/-- A clear timer that expires is stopped (R22, R23). -/
theorem clearExpiry_clearTimer (r : SectionRec) (stopped : r.filter = .clear → r.clearTimer = none) :
    r.clearExpiry.1.filter = .clear → r.clearExpiry.1.clearTimer = none := by
  unfold SectionRec.clearExpiry
  split
  · exact fun _ => rfl
  · exact stopped

/-- What a filter makes of its section keeps the timers stopped, where it stops its own. -/
theorem takeFilter_keepsTimersStopped (s : State) (i : Fin 16) (made : State → SectionRec × FilterChange)
    (stops : s.clearTimersStopped → (made s).1.filter = .clear → (made s).1.clearTimer = none) :
    KeepsTimersStopped s (s.event s fun w => w.takeFilter i (made w.st)) :=
  event_keepsTimersStopped (base := s.setSection i (made s).1) rfl
    (fun stopped => setSection_clearTimersStopped (stops stopped) stopped) (lawful_takeFilter i (made s) (.begin s))

theorem keepsTimersStopped_ite {s : State} {c : Prop} [Decidable c] {o : Host.Outcome State Fault Refusal}
    (h : KeepsTimersStopped s o) : KeepsTimersStopped s (if c then o else .next s) := by
  split
  · exact h
  · exact .next id

/-- With start values every filter is UNDECIDED (R19). -/
theorem initial_clearTimersStopped {s : State} (h : s.sections = Vector.replicate 16 SectionRec.initial) :
    s.clearTimersStopped := by
  intro i
  simp [h, SectionRec.initial]

theorem lawful_lightSignals {s : State} {w : Work} (h : Lawful s w.st) : Lawful s w.lightSignals.st := by
  refine Lawful.foldlWork (fun w g h => ?_) _ h
  split
  · exact lawful_setAspect g .stop (by simp) h
  · exact h

theorem imageCheck_keepsTimersStopped (memory : List Byte) (inputs : FieldInputs) (s : State) :
    KeepsTimersStopped s (execImageCheck memory inputs s) := by
  unfold execImageCheck
  refine keepsTimersStopped_ite ?_
  split
  · exact LawfulOutcome.keepsTimersStopped (.event rfl fun _ h => lawful_announce h)
  · exact event_keepsTimersStopped (State.keep_self _) (fun _ => initial_clearTimersStopped rfl)
      (lawful_announce (lawful_lightSignals (lawful_recordFaults _ _ (.refl _))))

/-- Every command keeps the clear timers of CLEAR filters stopped. -/
theorem exec_keepsTimersStopped (c : Instr) (s : State) : KeepsTimersStopped s (exec c s) := by
  cases other : Instr.writesFilter c with
  | false => exact (exec_lawful c s other).keepsTimersStopped
  | true =>
    cases c
    case start straps =>
      show KeepsTimersStopped s (execStart straps s)
      unfold execStart
      dsimp only
      split <;> exact .next fun _ => initial_clearTimersStopped rfl
    case resetAsserted => exact .next fun _ => initial_clearTimersStopped rfl
    case imageCheck memory inputs => exact imageCheck_keepsTimersStopped memory inputs s
    case sectionSample i occupied =>
      exact keepsTimersStopped_ite (takeFilter_keepsTimersStopped s i
        (fun t => t.sections[i].sample (t.sectionCfg i) occupied) fun k => sample_clearTimer _ _ _ (k i))
    case clearTimerExpiry i =>
      exact keepsTimersStopped_ite (takeFilter_keepsTimersStopped s i (fun t => t.sections[i].clearExpiry)
        fun k => clearExpiry_clearTimer _ (k i))
    all_goals cases other

/-- Ten milliseconds start no clear timer (R25). -/
theorem tick_clearTimersStopped {s : State} (stopped : s.clearTimersStopped) : s.tick.clearTimersStopped := by
  unfold State.tick
  split
  · exact stopped
  · intro i clear
    have timer : s.sections[i].clearTimer = none := stopped i (by simpa using clear)
    simpa [lessTime] using timer

/-- Every step keeps the clear timers of CLEAR filters stopped (R21). -/
theorem step_keepsTimersStopped (s : State) : KeepsTimersStopped s (step s) := by
  unfold step
  split
  · exact .next tick_clearTimersStopped
  · exact fun t done stopped => exec_keepsTimersStopped _ _ t done (clearTimersStopped_of_sections rfl stopped)

/-- Settles O9: a sample at a CLEAR filter writes what its filter makes of it and no consequence of the event changes
that; and every step keeps the clear timer stopped, since each command that writes a filter stops it. -/
theorem clearFilterCountsOccupiedRun : Obligations.ClearFilterCountsOccupiedRun := by
  refine ⟨fun i occupied s c sampling named clear => ?_, step_keepsTimersStopped⟩
  obtain ⟨t, done, written⟩ := sectionSample_writes i occupied s c sampling named
  refine ⟨t, done, ?_⟩
  rw [sample_of_clear c occupied _ clear] at written
  dsimp only at written ⊢
  split
  · next on =>
    rw [if_pos on] at written
    split
    · next reached =>
      rw [if_pos reached] at written
      obtain ⟨filter, run, timer, capture⟩ := sensed_inj written
      have new : t.sections[i].filter = .occupied := filter
      exact ⟨timer, new, run, by rw [SectionRec.occupied, new]; rfl, capture⟩
    · next short =>
      rw [if_neg short] at written
      obtain ⟨filter, run, timer, capture⟩ := sensed_inj written
      exact ⟨timer, filter.trans clear, run, capture⟩
  · next off =>
    rw [if_neg off] at written
    obtain ⟨filter, run, timer, capture⟩ := sensed_inj written
    exact ⟨timer, filter.trans clear, run, capture⟩

end Sys2Proof.Machine
end

section
/-! PROOFS. O59, the PROCEED outputs outside IN_SERVICE (R54, R64, R198). The laws of an event keep both rules
(`Lawful.dark`, `Lawful.lamps`), so what is left is the state that each command begins its event from.

Most commands begin with the signals as they were and without leaving IN_SERVICE (`OutcomeKeepsSignalRules.steady`).
The two that leave it, the key turned OFF and WITHDRAW, replace every signal at PROCEED within their event
(`OutcomeKeepsSignalRules.withdrawn`). A start, a reset and an accepted image set every signal to its start value, at
STOP with the PROCEED lamp DARK. -/

namespace Sys2Proof.Machine

/-! ## The two rules together -/

/-- From `s` to `t` both rules of the signals are kept: STOP outside IN_SERVICE (R64, R198), and a DARK PROCEED lamp at
STOP (R54). -/
structure KeepsSignalRules (s t : State) : Prop where
  dark : s.darkOutsideService → t.darkOutsideService
  lamps : s.lampsHold → t.lampsHold

theorem KeepsSignalRules.refl (s : State) : KeepsSignalRules s s := ⟨id, id⟩

theorem KeepsSignalRules.trans {s t u : State} (h : KeepsSignalRules s t) (k : KeepsSignalRules t u) :
    KeepsSignalRules s u := ⟨k.dark ∘ h.dark, k.lamps ∘ h.lamps⟩

theorem Lawful.keepsSignalRules {s t : State} (h : Lawful s t) : KeepsSignalRules s t := ⟨h.dark, h.lamps⟩

theorem Reported.keepsSignalRules {s t : State} (h : Reported s t) : KeepsSignalRules s t :=
  ((Lawful.refl s).reported h).keepsSignalRules

theorem lampsHold_of_signals {s t : State} (signals : t.signals = s.signals) (lamps : s.lampsHold) : t.lampsHold := by
  unfold State.lampsHold
  rw [signals]
  exact lamps

/-- Where the signals are as they were, and IN_SERVICE is not left, the rules are kept. -/
theorem keepsSignalRules_of_signals {s t : State} (signals : t.signals = s.signals)
    (stays : t.service ≠ .inService → s.service ≠ .inService) : KeepsSignalRules s t where
  dark := by
    unfold State.darkOutsideService
    rw [signals]
    exact fun dark out => dark (stays out)
  lamps := lampsHold_of_signals signals

/-- Signals that are all at STOP with the PROCEED lamp DARK meet the rules, whatever stood before. -/
theorem keepsSignalRules_of_stopped {s t : State}
    (stopped : ∀ g : Fin 8, t.signals[g].aspect = .stop ∧ t.signals[g].proceedLamp = .dark) : KeepsSignalRules s t :=
  ⟨fun _ _ g => (stopped g).1, fun _ g _ => (stopped g).2⟩

/-- Every next state of the outcome keeps the rules. -/
def OutcomeKeepsSignalRules (s : State) (o : Host.Outcome State Fault Refusal) : Prop :=
  ∀ t, o = .next t → KeepsSignalRules s t

section
variable {s : State}

theorem OutcomeKeepsSignalRules.next {t : State} (h : KeepsSignalRules s t) : OutcomeKeepsSignalRules s (.next t) := by
  rintro u e
  cases e
  exact h

theorem OutcomeKeepsSignalRules.idle : OutcomeKeepsSignalRules s (.next s) := .next (.refl s)

theorem OutcomeKeepsSignalRules.ite {c : Prop} [Decidable c] {o : Host.Outcome State Fault Refusal}
    (h : OutcomeKeepsSignalRules s o) : OutcomeKeepsSignalRules s (if c then o else .next s) := by
  split
  · exact h
  · exact .idle

/-! ## An event -/

/-- An event keeps the rules where its work is lawful from a state that keeps them. -/
theorem event_keepsSignalRules {start base : State} {work : Work → Work} (kept : start.keep base = base)
    (entry : KeepsSignalRules s base) (lawful : Lawful base (work (Work.begin start)).st) :
    OutcomeKeepsSignalRules s (s.event start work) := by
  cases held : s.resetHeld with
  | true =>
    rw [event_of_reset held]
    exact .idle
  | false =>
    obtain ⟨t, left, u, done, ended, reported⟩ := event_lawful held kept lawful
    rw [done]
    have settled : KeepsSignalRules t { t with agenda := left } := keepsSignalRules_of_signals rfl id
    have drained : KeepsSignalRules u u.drained :=
      keepsSignalRules_of_signals (by rw [(drained_drained u).same]) (by rw [(drained_drained u).same]; exact id)
    exact .next ((((entry.trans ended.keepsSignalRules).trans settled).trans reported.keepsSignalRules).trans drained)

/-- An event that begins with the signals as they were and in which IN_SERVICE is not left. -/
theorem OutcomeKeepsSignalRules.steady {start : State} {work : Work → Work} (signals : start.signals = s.signals)
    (stays : start.service ≠ .inService → s.service ≠ .inService)
    (lawful : ∀ w, Lawful start w.st → Lawful start (work w).st) :
    OutcomeKeepsSignalRules s (s.event start work) :=
  event_keepsSignalRules (State.keep_self start) (keepsSignalRules_of_signals signals stays) (lawful _ (.refl _))

/-- An event whose own work leaves every signal at STOP may leave IN_SERVICE (R64, R197). -/
theorem OutcomeKeepsSignalRules.withdrawn {start : State} {work : Work → Work} (signals : start.signals = s.signals)
    (lawful : Lawful start (work (Work.begin start)).st)
    (stopped : ∀ g : Fin 8, (work (Work.begin start)).st.signals[g].aspect = .stop) :
    OutcomeKeepsSignalRules s (s.event start work) :=
  event_keepsSignalRules lawful.kept ⟨fun _ _ => stopped, lawful.lamps ∘ lampsHold_of_signals signals⟩ (.refl _)

/-! ## Telegrams taken from the receive queue (R75) -/

/-- A telegram row keeps the rules where the event of each telegram that passes the checks keeps them. -/
theorem takeFront_of_passed {mine : RawTelegram → Bool} {write : Body → State → State}
    {owner : Nat → Body → Work → Work}
    (passed : ∀ t rest body, mine t = true → s.vet t = .passed body →
      OutcomeKeepsSignalRules s (s.event (write body { s with recvQueue := rest }) fun w =>
        owner t.source body (w.on (·.keepRequest t)))) :
    OutcomeKeepsSignalRules s (s.takeFront mine write owner) := by
  unfold State.takeFront
  split
  · exact .idle
  · next t rest _ =>
    split
    · next front =>
      cases verdict : s.vet t with
      | ignored => exact .steady rfl id fun _ h => h
      | lineError => exact .steady rfl id fun _ h => lawful_recordFault _ _ _ h
      | refused answer => exact .steady rfl id fun _ h => lawful_draw _ (lawful_reply _ _ h)
      | passed body => exact passed t rest body front verdict
    · exact .idle

/-- A telegram row keeps the rules where what its owner writes and does keeps them. -/
theorem takeFront_keepsSignalRules (mine : RawTelegram → Bool) {write : Body → State → State}
    {owner : Nat → Body → Work → Work} (signals : ∀ body t, (write body t).signals = t.signals)
    (stays : ∀ body t, (write body t).service ≠ .inService → t.service ≠ .inService)
    (owns : ∀ start source body w, Lawful start w.st → Lawful start (owner source body w).st) :
    OutcomeKeepsSignalRules s (s.takeFront mine write owner) :=
  takeFront_of_passed fun t _ body _ _ =>
    .steady (signals body _) (stays body _) fun _ h => owns _ _ _ _ (lawful_keepRequest t h)

theorem takeTelegram_keepsSignalRules (mine : RawTelegram → Bool) {owner : Nat → Body → Work → Work}
    (owns : ∀ start source body w, Lawful start w.st → Lawful start (owner source body w).st) :
    OutcomeKeepsSignalRules s (s.takeTelegram mine owner) :=
  takeFront_keepsSignalRules mine (fun _ _ => rfl) (fun _ _ => id) owns

/-- A telegram that is turned away does not pass. -/
theorem turnAway_ne_passed (t : RawTelegram) (reason : Reason) (body : Body) : s.turnAway t reason ≠ .passed body := by
  unfold State.turnAway
  repeat' split
  all_goals simp

/-- Check 3 passes the body that the telegram's bytes hold (R76). -/
theorem formCheck_passed {t : RawTelegram} {body : Body} (h : s.formCheck t = .passed body) :
    ∃ k, Kind.ofCode t.kind = some k ∧ decodeBody k t.bytes = some body := by
  unfold State.formCheck at h
  split at h
  · split at h <;> cases h
  · next k named =>
    refine ⟨k, named, ?_⟩
    split at h
    · cases h
    · split at h
      · next decoded =>
        cases h
        split at decoded
        · exact decoded
        · cases decoded
      · split at h <;> cases h

/-- The checks pass the body that the telegram's bytes hold (R75). -/
theorem vet_passed {t : RawTelegram} {body : Body} (h : s.vet t = .passed body) :
    ∃ k, Kind.ofCode t.kind = some k ∧ decodeBody k t.bytes = some body := by
  unfold State.vet State.vetFrom at h
  dsimp only at h
  refine formCheck_passed (s := s) ?_
  split at h
  · split at h
    · exact h
    · exact absurd h (turnAway_ne_passed _ _ _)
  · split at h
    · exact absurd h (turnAway_ne_passed _ _ _)
    · split at h
      · exact absurd h (turnAway_ne_passed _ _ _)
      · split at h
        · next passed =>
          split at h
          · exact absurd h (turnAway_ne_passed _ _ _)
          · split at h
            · cases h
            · cases h
              exact passed
        · exact h

theorem decodeBody_command {bytes : List Byte} {body : Body} (h : decodeBody .command bytes = some body) :
    ∃ tag c, body = .command tag c := by
  match bytes with
  | [] | [_] => cases h
  | tag :: code :: ops =>
    obtain ⟨c, -, rfl⟩ := Option.map_eq_some_iff.mp h
    exact ⟨tag, c, rfl⟩

/-- A COMMAND that passes its checks hands its owner a command (R76). -/
theorem vet_passed_command {t : RawTelegram} {body : Body} {code : Nat} (mine : t.isCommand code = true)
    (h : s.vet t = .passed body) : ∃ tag c, body = .command tag c := by
  obtain ⟨k, named, decoded⟩ := vet_passed h
  obtain ⟨kind, -⟩ := Bool.and_eq_true_iff.mp mine
  obtain rfl : k = .command := by simpa [RawTelegram.isKind, named] using kind
  exact decodeBody_command decoded

/-! ## Entering and leaving IN_SERVICE (R193, R195, R197) -/

@[simp] theorem takeAdmission_signals (s : State) : s.takeAdmission.signals = s.signals := by
  unfold State.takeAdmission
  repeat' split
  all_goals rfl

/-- No ADMIT leaves IN_SERVICE (R195). -/
theorem takeAdmission_stays (h : s.takeAdmission.service ≠ .inService) : s.service ≠ .inService := by
  intro inService
  exact h (by simp [State.takeAdmission, inService])

theorem admitCommand_keepsSignalRules : OutcomeKeepsSignalRules s (execAdmitCommand s) :=
  takeFront_keepsSignalRules _ (fun _ => takeAdmission_signals) (fun _ _ => takeAdmission_stays) fun _ _ _ _ h => by
    split
    · exact lawful_answerDesk _ _ _ _ _ h
    · exact h

theorem startHoldExpiry_keepsSignalRules : OutcomeKeepsSignalRules s (execStartHoldExpiry s) := by
  unfold execStartHoldExpiry
  split
  · next joining => exact .steady rfl (fun _ => by simp [joining.2]) fun _ h => h
  · exact .idle

/-- The key turned OFF in IN_SERVICE withdraws the controller; no other reading leaves IN_SERVICE (R195, R197). -/
theorem keyStateChange_keepsSignalRules (readings : BitVec 5) :
    OutcomeKeepsSignalRules s (execKeyStateChange readings s) := by
  unfold execKeyStateChange
  split
  · exact .idle
  · dsimp only
    split
    · exact .idle
    · split
      · exact .steady rfl (fun out => absurd rfl out) fun _ h => h
      · split
        · exact .withdrawn rfl (lawful_withdraw (.refl _)) (withdraw_stops _)
        · exact .steady rfl id fun _ h => h

@[simp] theorem leaveService_signals (s : State) : s.leaveService.signals = s.signals := by
  unfold State.leaveService
  split <;> rfl

/-- WITHDRAW leaves IN_SERVICE only where its event replaces every signal at PROCEED (R196, R197). -/
theorem withdraw_keepsSignalRules : OutcomeKeepsSignalRules s (execWithdraw s) :=
  takeFront_of_passed fun t _ _ mine passed => by
    obtain ⟨tag, c, rfl⟩ := vet_passed_command mine passed
    by_cases inService : s.service = .inService
    · have now : s.notNow = none := by simp [State.notNow, inService]
      simp only [now, if_pos inService]
      refine .withdrawn (leaveService_signals _) ?_ fun g => ?_
      · rw [Work.answerLast_st]
        exact lawful_withdraw (lawful_keepRequest t (.refl _))
      · rw [Work.answerLast_st]
        exact withdraw_stops _ g
    · refine .steady (leaveService_signals _) (fun _ => inService) fun w h => ?_
      dsimp only
      split
      · exact lawful_answerDesk _ _ _ _ _ (lawful_keepRequest t h)
      · rw [if_neg inService]
        exact lawful_keepRequest t h

/-! ## Every command -/

/-- With every signal at its start values the rules hold (R53). -/
theorem keepsSignalRules_of_initial {t : State} (h : t.signals = Vector.replicate 8 SignalRec.initial) :
    KeepsSignalRules s t :=
  keepsSignalRules_of_stopped fun g => by simp [h, SignalRec.initial]

theorem start_keepsSignalRules (straps : BitVec 5) : OutcomeKeepsSignalRules s (execStart straps s) := by
  unfold execStart
  dsimp only
  split <;> exact .next (keepsSignalRules_of_initial rfl)

/-- An image is checked out of service; where it is accepted the signals take their start values (R53, R189). -/
theorem imageCheck_keepsSignalRules (memory : List Byte) (inputs : FieldInputs) :
    OutcomeKeepsSignalRules s (execImageCheck memory inputs s) := by
  have joined (c : AreaConfig) (rate : BitRate) (g : Fin 8) : (s.joined c rate inputs).signals[g].aspect = .stop
      ∧ (s.joined c rate inputs).signals[g].proceedLamp = .dark := by
    simp only [State.joined, Fin.getElem_fin, Vector.getElem_ofFn]
    split <;> exact ⟨rfl, rfl⟩
  unfold execImageCheck
  split
  · next loading =>
    split
    · exact .steady rfl (fun _ => by simp [loading]) fun _ h => lawful_announce h
    · exact event_keepsSignalRules (State.keep_self _) (keepsSignalRules_of_stopped (joined _ _))
        (lawful_announce (lawful_lightSignals (lawful_recordFaults _ _ (.refl _))))
  · exact .idle

/-- A contention writes of its line and send queue alone (R68, R69). -/
theorem contend_signals (s : State) (idle : Nat) (levels : BitVec 18) :
    (s.contend idle levels).signals = s.signals ∧ (s.contend idle levels).service = s.service := by
  unfold State.contend
  repeat' split
  all_goals exact ⟨rfl, rfl⟩

theorem contention_keepsSignalRules (idle : Nat) (levels : BitVec 18) :
    OutcomeKeepsSignalRules s (execContention idle levels s) := by
  obtain ⟨signals, service⟩ := contend_signals s idle levels
  exact .ite (.steady signals (service ▸ id) fun _ h => h)

theorem blockWrite_signals (body : Body) (s : State) :
    (blockWrite body s).signals = s.signals ∧ (blockWrite body s).service = s.service := by
  unfold blockWrite State.takeBlock
  repeat' split
  all_goals exact ⟨rfl, rfl⟩

/-- BLOCK and UNBLOCK write the blocking table alone (R12, R13). -/
theorem takeBlocking_keepsSignalRules (mine : RawTelegram → Bool) {owner : Nat → Body → Work → Work}
    (owns : ∀ start source body w, Lawful start w.st → Lawful start (owner source body w).st) :
    OutcomeKeepsSignalRules s (s.takeFront mine blockWrite owner) :=
  takeFront_keepsSignalRules mine (fun body t => (blockWrite_signals body t).1)
    (fun body t => by rw [(blockWrite_signals body t).2]; exact id) owns

/-- A frame received writes of its line and receive queue alone, but for a PRESENCE, which is lawful (R71, R84). -/
theorem takeFrame_keepsSignalRules (x : FrameReading) : OutcomeKeepsSignalRules s (s.takeFrame x) := by
  have taken {work : Work → Work} (lawful : ∀ w, Lawful s.frameTaken w.st → Lawful s.frameTaken (work w).st) :
      OutcomeKeepsSignalRules s (s.event s.frameTaken work) := .steady rfl id lawful
  have failed (dest : Nat) : OutcomeKeepsSignalRules s (s.event s.frameTaken fun w =>
      if s.address = some dest then w.on (·.recordFault .lineError .controller) else w) := by
    refine taken fun w h => ?_
    split
    · exact lawful_recordFault _ _ _ h
    · exact h
  unfold State.takeFrame
  split
  · exact taken fun _ h => h
  · exact failed _
  · exact failed _
  · split
    · split
      · exact .steady rfl id fun _ h => h
      · exact taken fun _ h => h
    · refine taken fun w h => ?_
      repeat' split
      · exact lawful_takePresence _ _ h
      · exact h
      · exact h

theorem frameReceive_keepsSignalRules (idle : Nat) (levels : List Bool) :
    OutcomeKeepsSignalRules s (execFrameReceive idle levels s) := by
  unfold execFrameReceive
  refine .ite ?_
  split
  · exact .steady rfl id fun _ h => h
  · exact takeFrame_keepsSignalRules _

theorem abortMark_keepsSignalRules : OutcomeKeepsSignalRules s (execAbortMark s) := by
  unfold execAbortMark
  split
  · exact .idle
  · split
    · exact .idle
    · exact .steady rfl id fun _ h => lawful_lineError _ _ h

theorem acknowledgementSlot_keepsSignalRules (dominant : Bool) :
    OutcomeKeepsSignalRules s (execAcknowledgementSlot dominant s) := by
  unfold execAcknowledgementSlot
  split
  · exact .idle
  · split
    · exact .idle
    · refine .steady rfl id fun w h => ?_
      split
      · exact lawful_delivered _ _ h
      · exact lawful_unacknowledged _ _ h

/-- What a section's samples make of its filter touches no signal (R21 to R24). -/
theorem takeFilter_keepsSignalRules (i : Fin 16) (made : State → SectionRec × FilterChange) :
    OutcomeKeepsSignalRules s (s.event s fun w => w.takeFilter i (made w.st)) :=
  event_keepsSignalRules (base := s.setSection i (made s).1) rfl (keepsSignalRules_of_signals rfl id)
    (lawful_takeFilter i (made s) (.begin s))

/-- A POINT_MOVE admitted moves a point that no lock and no claim holds (R51). -/
theorem pointMove_keepsSignalRules : OutcomeKeepsSignalRules s (execPointMove s) :=
  takeTelegram_keepsSignalRules _ fun _ dest _ w h => by
    split
    · next tag n target =>
      refine lawful_decide _ _ _ _ (fun admitted answered => ?_) h
      split
      · next p x named =>
        have points : (w.st.answerDesk dest tag 6 none none).points = w.st.points := by
          rw [(reported_answerDesk w.st dest tag 6 none none).same]
        refine lawful_movePoint p x .desk ?_ answered
        rw [Work.on_st, points]
        exact moveRefusal_free x (pointRefusal_moveRefusal named admitted)
      · exact answered
    · exact h

/-- Every command keeps the rules of the signals. -/
theorem exec_keepsSignalRules (c : Instr) (s : State) : OutcomeKeepsSignalRules s (exec c s) := by
  cases c
  case start straps => exact start_keepsSignalRules straps
  case resetAsserted => exact .next (keepsSignalRules_of_initial rfl)
  case imageCheck memory inputs => exact imageCheck_keepsSignalRules memory inputs
  case startHoldExpiry => exact startHoldExpiry_keepsSignalRules
  case keyStateChange readings => exact keyStateChange_keepsSignalRules readings
  case admitCommand => exact admitCommand_keepsSignalRules
  case withdraw => exact withdraw_keepsSignalRules
  case contention idle levels => exact contention_keepsSignalRules idle levels
  case abortMark => exact abortMark_keepsSignalRules
  case acknowledgementSlot dominant => exact acknowledgementSlot_keepsSignalRules dominant
  case frameReceive idle levels => exact frameReceive_keepsSignalRules idle levels
  case sectionSample i occupied =>
    exact .ite (takeFilter_keepsSignalRules i fun t => t.sections[i].sample (t.sectionCfg i) occupied)
  case clearTimerExpiry i => exact .ite (takeFilter_keepsSignalRules i fun t => t.sections[i].clearExpiry)
  case detectionChange | currentSenseChange | overCurrentExpiry | throwTimerExpiry | reversalLockExpiry =>
    refine .ite (.steady rfl id fun _ h => lawful_takePoint _ _ ?_ h)
    apply_rules [PointRec.sound_detect, PointRec.sound_senseChange, PointRec.sound_overCurrentExpiry,
      PointRec.sound_throwExpiry, PointRec.sound_reversalExpiry]
  case lampProvingInputChange | lampProvingTimerExpiry | presence | presencePeriod =>
    refine .ite (.steady rfl id fun _ h => ?_)
    apply_rules [lawful_lampInput, lawful_lampExpiry, lawful_takePresence, lawful_announce]
  case staleMark | silenceTimerExpiry | answerDeadline | emergencyTimerExpiry | orphanTimerExpiry | claimOrphanExpiry
      | confirmTimerExpiry | reportDrain =>
    refine .steady rfl id fun _ h => ?_
    apply_rules [lawful_markStale, lawful_silenceExpires, lawful_deadline, lawful_emergencyExpires,
      lawful_orphanExpires, lawful_claimsExpire, lawful_confirmExpires]
  case settingLimitExpiry | approachReleaseExpiry | overlapTimerExpiry =>
    refine .steady rfl id fun _ h => ?_
    repeat' split
    all_goals apply_rules [lawful_rollback, lawful_fullRelease, lawful_overlapExpires]
  case reserve | release | flankClaim | flankRelease | directionRequest | offer | confirm | stateNotice | proven
      | lapse | reserveAnswer | flankAnswer | directionAnswer | offerAnswer | set | faultFetch =>
    refine takeTelegram_keepsSignalRules _ fun _ _ _ _ h => ?_
    split
    all_goals apply_rules [lawful_takeReserve, lawful_takeRelease, lawful_takeFlankClaim, lawful_takeFlankRelease,
      lawful_takeDirectionRequest, lawful_takeOffer, lawful_takeConfirm, lawful_takeNotice, lawful_portionProven,
      lawful_flankProven, lawful_portionLapsed, lawful_flankLapse, lawful_takeReserveAnswer, lawful_takeFlankAnswer,
      lawful_takeDirectionAnswer, lawful_takeOfferAnswer, lawful_takeSet, lawful_fetchFaults]
  case cancel | emergencyRelease | describe | erase | handoverClear =>
    refine takeTelegram_keepsSignalRules _ fun _ _ _ _ h => ?_
    split
    · refine lawful_decide _ _ _ _ (fun _ answered => ?_) h
      repeat' split
      all_goals apply_rules [lawful_cancel, lawful_emergencyRelease, lawful_setTrain, lawful_clearHandover]
    · exact h
  case status =>
    refine takeTelegram_keepsSignalRules _ fun _ _ _ _ h => ?_
    split
    · exact lawful_decide _ _ _ _ (fun _ answered => Lawful.foldl (fun _ x => lawful_place x) _ answered) h
    · exact h
  case rearm =>
    refine takeTelegram_keepsSignalRules _ fun _ _ _ _ h => ?_
    split
    · exact lawful_answerDesk _ _ _ _ _ (lawful_rearm h)
    · exact h
  case pointMove => exact pointMove_keepsSignalRules
  case block | unblock =>
    refine takeBlocking_keepsSignalRules _ fun _ _ _ _ h => ?_
    split
    · exact lawful_answerDesk _ _ _ _ _ h
    · exact h
  case unknownKind | commandAnswerReceived => exact takeTelegram_keepsSignalRules _ fun _ _ _ _ h => h

end

/-! ## Every step -/

theorem tick_keepsSignalRules (s : State) : KeepsSignalRules s s.tick := by
  unfold State.tick
  split
  · exact .refl s
  · exact ⟨fun dark out g => by simpa using dark out g, fun lamps g stop => by
      simpa using lamps g (by simpa using stop)⟩

/-- Every step keeps the rules of the signals (R54, R64, R198). -/
theorem step_keepsSignalRules (s : State) : OutcomeKeepsSignalRules s (step s) := by
  unfold step
  split
  · exact .next (tick_keepsSignalRules s)
  · next c rest _ =>
    have front : KeepsSignalRules s { s with pending := rest } := keepsSignalRules_of_signals rfl id
    exact fun t done => front.trans (exec_keepsSignalRules c _ t done)

/-- Outside IN_SERVICE the rules leave every PROCEED output off (R198). -/
theorem proceedOutput_off {s : State} (dark : s.darkOutsideService) (lamps : s.lampsHold)
    (out : s.service ≠ .inService) (g : Fin 8) : s.signals[g].proceedLamp.output = false := by
  rw [lamps g (dark out g)]
  rfl

/-- The IN SERVICE output is on exactly in IN_SERVICE, out of reset (R198). -/
theorem inServiceOutput_iff (s : State) :
    s.inServiceOutput = true ↔ s.resetHeld = false ∧ s.service = .inService := by
  simp [State.inServiceOutput]

/-- Settles O59: every step keeps the two rules of the signals, and together they turn the PROCEED outputs off outside
IN_SERVICE. -/
theorem stepKeepsSignalsDarkOutsideService : Obligations.StepKeepsSignalsDarkOutsideService := by
  refine ⟨inServiceOutput_iff, fun s t done => ?_, fun s t dark lamps done out => ?_⟩
  · exact ⟨(step_keepsSignalRules s t done).dark, (step_keepsSignalRules s t done).lamps⟩
  · obtain ⟨keepsDark, keepsLamps⟩ := step_keepsSignalRules s t done
    exact proceedOutput_off (keepsDark dark) (keepsLamps lamps) out

end Sys2Proof.Machine
end

section
/-! PROOFS. O57, O58, O60 and O3: what every command keeps, and the fields that only some commands write. Each command
is idle, or an event that is lawful from a base state; what the command itself writes on the way to that base is
`Framed`, and the laws of an event carry `Framed` on to the next state (`Enters.answers`). So the commands are gone
through once (`exec_enters`), and the four statements are read off. -/

namespace Sys2Proof.Machine

/-! ## What a command may write -/

/-- From `s` to `t` the command `c` has kept its frame, the bounds of the queues and tables, and the positions of the
points, and has energised no drive output of a point whose section is OCCUPIED. -/
structure Framed (c : Instr) (s t : State) : Prop where
  pending : t.pending = s.pending
  loader : c.ofLoader = false → t.sameLoader s
  line : c.ofLine = false → t.sameLine s
  blocking : c.ofBlocking = false → t.blocking = s.blocking
  receiving : c.ofReceiving = false → t.recvQueue = s.recvQueue
  blockingHolds : s.blockingHolds → t.blockingHolds
  receiveHolds : s.receiveHolds → t.receiveHolds
  sendHolds : s.sendHolds → t.sendHolds
  reportsHold : s.reportsHold → t.reportsHold
  requestsHold : s.requestsHold → t.requestsHold
  reservationsHold : s.reservationsHold → t.reservationsHold
  pointsHold : s.pointsHold → t.pointsHold
  clear : ∀ (p : Fin 8) (x : Position), t.points[p].output = some x → s.points[p].output ≠ some x →
    t.pointOccupied p = false

section
variable {c : Instr} {s t u : State}

theorem Framed.refl (c : Instr) (s : State) : Framed c s s :=
  ⟨rfl, fun _ => by simp [State.sameLoader], fun _ => by simp [State.sameLine], fun _ => rfl, fun _ => rfl, id, id, id,
    id, id, id, id, fun _ _ h k => absurd h k⟩

/-- A lawful part of an event keeps the frame of its command. -/
theorem Framed.lawful (h : Framed c s t) (k : Lawful t u) : Framed c s u where
  pending := by rw [← k.kept]; exact h.pending
  loader e := by rw [← k.kept]; exact h.loader e
  line e := by rw [← k.kept]; exact h.line e
  blocking e := by rw [← k.kept]; exact h.blocking e
  receiving e := by rw [← k.kept]; exact h.receiving e
  blockingHolds e := by rw [← k.kept]; exact h.blockingHolds e
  receiveHolds e := by rw [← k.kept]; exact h.receiveHolds e
  sendHolds e := k.send (h.sendHolds e)
  reportsHold e := k.reports (h.reportsHold e)
  requestsHold e := k.requests (h.requestsHold e)
  reservationsHold e := k.reservations (h.reservationsHold e)
  pointsHold e := k.points (h.pointsHold e)
  clear p x new old := by
    rw [k.occupied p]
    by_cases e : t.points[p].output = some x
    · exact h.clear p x e old
    · exact k.clear p x new e

/-- Tasks left over are outside of every frame. -/
theorem Framed.leftOver (h : Framed c s t) (left : List Task) : Framed c s { t with agenda := left } :=
  ⟨h.pending, h.loader, h.line, h.blocking, h.receiving, h.blockingHolds, h.receiveHolds, h.sendHolds, h.reportsHold,
    h.requestsHold, h.reservationsHold, h.pointsHold, h.clear⟩

/-- Draining keeps the frame of its command. -/
theorem Framed.drained (h : Framed c s t) : Framed c s t.drained := by
  obtain ⟨same, -, left, room⟩ := drained_drained t
  rw [same]
  exact ⟨h.pending, h.loader, h.line, h.blocking, h.receiving, h.blockingHolds, h.receiveHolds,
    fun e => room (h.sendHolds e), fun e => left.sublist.nodup (h.reportsHold e), h.requestsHold, h.reservationsHold,
    h.pointsHold, h.clear⟩

/-- The front telegram may be taken by a telegram row. -/
theorem Framed.taken {x : RawTelegram} {rest : List RawTelegram} (row : c.ofTelegram = true)
    (queue : s.recvQueue = x :: rest) : Framed c s { s with recvQueue := rest } where
  __ := Framed.refl c s
  receiving e := by simp [Instr.ofReceiving, row] at e
  receiveHolds e := by
    have : (x :: rest).length ≤ 16 := queue ▸ e
    simp only [State.receiveHolds, List.length_cons] at this ⊢
    omega

/-! ## The outcome of a command -/

/-- The commands that put the start values in place of the state: START and RESET_ASSERTED (R187). -/
def Instr.starts : Instr → Bool
  | .start _ | .resetAsserted => true
  | _ => false

/-- The outcome of a command: nothing, a state it puts in place of the old, or an event that is lawful from a base
state within the frame of the command. -/
inductive Enters (c : Instr) (s : State) : Host.Outcome State Fault Refusal → Prop
  | idle : Enters c s (.next s)
  | restarts {t : State} (starts : Instr.starts c = true) (framed : Framed c s t) (drained : t.drainedOut) :
      Enters c s (.next t)
  | event {start base : State} {work : Work → Work} (kept : start.keep base = base) (framed : Framed c s base)
      (lawful : Lawful base (work (Work.begin start)).st) : Enters c s (s.event start work)

/-- An event whose work is lawful from any state, from a start within the frame. -/
theorem Enters.from {start : State} {work : Work → Work} (framed : Framed c s start)
    (lawful : ∀ w, Lawful start w.st → Lawful start (work w).st) : Enters c s (s.event start work) :=
  .event (State.keep_self start) framed (lawful _ (.refl _))

/-- An event that begins with the state as it is. -/
theorem Enters.here {work : Work → Work} (lawful : ∀ w, Lawful s w.st → Lawful s (work w).st) :
    Enters c s (s.event s work) := .from (.refl c s) lawful

theorem Enters.ite {p : Prop} [Decidable p] {o : Host.Outcome State Fault Refusal} (h : Enters c s o) :
    Enters c s (if p then o else .next s) := by
  split
  · exact h
  · exact .idle

/-- A command answers a next state within its frame, with no report left that could be drained. -/
theorem Enters.answers {o : Host.Outcome State Fault Refusal} (h : Enters c s o) :
    ∃ t, o = .next t ∧ Framed c s t ∧ (s.drainedOut → t.drainedOut) := by
  cases h with
  | idle => exact ⟨s, rfl, .refl c s, id⟩
  | restarts _ framed drained => exact ⟨_, rfl, framed, fun _ => drained⟩
  | event kept framed lawful =>
    cases held : s.resetHeld with
    | true => exact ⟨s, event_of_reset held, .refl c s, id⟩
    | false =>
      obtain ⟨t, left, u, done, ended, reported⟩ := event_lawful held kept lawful
      exact ⟨_, done, (((framed.lawful ended).leftOver left).lawful ((Lawful.refl _).reported reported)).drained,
        fun _ => drained_ends u⟩

/-! ## Telegram rows (R75) -/

/-- A telegram row keeps its frame where what its owner writes does, and its owner's work is lawful. -/
theorem takeFront_enters {mine : RawTelegram → Bool} {write : Body → State → State} {owner : Nat → Body → Work → Work}
    (row : c.ofTelegram = true) (writes : ∀ body t, Framed c s t → Framed c s (write body t))
    (owns : ∀ start source body w, Lawful start w.st → Lawful start (owner source body w).st) :
    Enters c s (s.takeFront mine write owner) := by
  unfold State.takeFront
  split
  · exact .idle
  · next queue =>
    have taken := Framed.taken row queue
    refine .ite (.from ?_ fun w h => lawful_vetted _ (owns _) _ h)
    split
    · exact writes _ _ taken
    · exact taken

theorem takeTelegram_enters {mine : RawTelegram → Bool} {owner : Nat → Body → Work → Work}
    (row : c.ofTelegram = true)
    (owns : ∀ start source body w, Lawful start w.st → Lawful start (owner source body w).st) :
    Enters c s (s.takeTelegram mine owner) := takeFront_enters row (fun _ _ h => h) owns

/-! ### BLOCK and UNBLOCK (R12, R13) -/

/-- Writing the block of an element that is blocked already changes no element of the table. -/
theorem reblock_elements (table : List (Elem × BlockKind)) (e : Elem) (kind : BlockKind) :
    (table.map fun x => if x.1 = e then (e, kind) else x).map (·.1) = table.map (·.1) := by
  rw [List.map_map]
  refine List.map_congr_left fun x _ => ?_
  dsimp only [Function.comp]
  split
  · next same => exact same.symm
  · rfl

/-- A block is written within the bounds of the table where nothing refuses it (R12). -/
theorem writeBlock_holds {e : Elem} {kind : BlockKind} (room : (!t.isBlocked e && decide (8 ≤ t.blocking.length)) = false)
    (h : t.blockingHolds) : (t.writeBlock e kind).blockingHolds := by
  obtain ⟨once, few⟩ := h
  unfold State.blockingHolds State.writeBlock
  dsimp only
  split
  · rw [reblock_elements]
    exact ⟨once, by simpa using few⟩
  · next free =>
    have free : t.isBlocked e = false := by simpa using free
    have absent : ∀ x ∈ t.blocking, x.1 ≠ e := by simpa [State.isBlocked] using free
    rw [free] at room
    refine ⟨?_, ?_⟩
    · rw [List.map_append, List.nodup_append]
      refine ⟨once, by simp, fun a ha b hb => ?_⟩
      obtain ⟨x, hx, rfl⟩ := List.mem_map.mp ha
      obtain rfl : b = e := by simpa using hb
      exact absent x hx
    · have : t.blocking.length < 8 := by simpa using room
      simp only [List.length_append, List.length_cons, List.length_nil]
      omega

theorem takeBlock_holds (x : Command) (h : t.blockingHolds) : (t.takeBlock x).blockingHolds := by
  unfold State.takeBlock
  split
  · split
    · next admitted named =>
      refine writeBlock_holds ?_ h
      simp only [State.blockRefusal, named] at admitted
      split at admitted
      · cases admitted
      · next e => cases e; split at admitted <;> simp_all
      · cases admitted
    · exact h
  · split
    · exact ⟨(List.filter_sublist.map _).nodup h.1, (List.length_filter_le _ _).trans h.2⟩
    · exact h
  · exact h

theorem takeBlock_same (x : Command) : t.takeBlock x = { t with blocking := (t.takeBlock x).blocking } := by
  unfold State.takeBlock State.writeBlock
  repeat' split
  all_goals rfl

/-- BLOCK and UNBLOCK keep their frame. -/
theorem Framed.blockWrite (row : c.ofBlocking = true) (body : Body) (h : Framed c s t) :
    Framed c s (blockWrite body t) := by
  unfold Machine.blockWrite
  split
  · rw [takeBlock_same]
    exact ⟨h.pending, h.loader, h.line, fun e => by simp [row] at e, h.receiving,
      fun e => takeBlock_holds _ (h.blockingHolds e), h.receiveHolds, h.sendHolds, h.reportsHold, h.requestsHold,
      h.reservationsHold, h.pointsHold, h.clear⟩
  · exact h

/-! ### Commands that write the loader's state (R187 to R197) -/

/-- A command of the Configuration Loader may write the loader's state. -/
theorem Framed.loaded (row : c.ofLoader = true) (h : Framed c s t)
    (same : u = { t with
      service := u.service, loadResult := u.loadResult, startHoldTimer := u.startHoldTimer
      admission := u.admission, keyOn := u.keyOn }) : Framed c s u := by
  rw [same]
  exact ⟨h.pending, fun e => by simp [row] at e, h.line, h.blocking, h.receiving, h.blockingHolds, h.receiveHolds,
    h.sendHolds, h.reportsHold, h.requestsHold, h.reservationsHold, h.pointsHold, h.clear⟩

/-- An admitted command admits from the state of the loader alone (R195). -/
theorem Framed.takeAdmission (row : c.ofLoader = true) (h : Framed c s t) : Framed c s t.takeAdmission := by
  unfold State.takeAdmission
  split
  · exact h
  · split
    · exact h.loaded row rfl
    · exact h.loaded row rfl

theorem Framed.leaveService (row : c.ofLoader = true) (h : Framed c s t) : Framed c s t.leaveService := by
  unfold State.leaveService
  split
  · exact h.loaded row rfl
  · exact h.loaded row rfl
  · exact h

/-- With START's values, held by the reset input or not, no report can be drained: the line is not used (R66). -/
theorem restarted_drainedOut (h : t.lineUsed = false) : t.drainedOut := fun used => by simp [h] at used

/-- The start values are within the frame of START and RESET_ASSERTED. -/
theorem Framed.restarted (loads : c.ofLoader = true) (lines : c.ofLine = true) (blocks : c.ofBlocking = true)
    (receives : c.ofReceiving = true)
    (same : t = { s.restarted with
      resetHeld := t.resetHeld, service := t.service, loadResult := t.loadResult, address := t.address }) :
    Framed c s t := by
  rw [same]
  refine ⟨rfl, fun e => by simp [loads] at e, fun e => by simp [lines] at e, fun e => by simp [blocks] at e,
    fun e => by simp [receives] at e, fun _ => ⟨.nil, Nat.zero_le _⟩, fun _ => Nat.zero_le _, fun _ => Nat.zero_le _,
    fun _ => List.nodup_singleton _, fun _ => ⟨Nat.zero_le _, .nil⟩, fun _ => ⟨Nat.zero_le _, .nil⟩, fun _ p => ?_,
    fun p x on => ?_⟩
  · simp [State.restarted, State.reset, PointRec.initial, PointRec.inPosition, Drive.target]
  · simp [State.restarted, State.reset, PointRec.initial, PointRec.output] at on

theorem start_enters (straps : BitVec 5) : Enters (.start straps) s (execStart straps s) := by
  unfold execStart
  dsimp only
  split <;> exact .restarts rfl (.restarted rfl rfl rfl rfl rfl) (restarted_drainedOut rfl)

theorem resetAsserted_enters : Enters .resetAsserted s (execResetAsserted s) :=
  .restarts rfl (.restarted rfl rfl rfl rfl rfl) (restarted_drainedOut rfl)

/-- At image acceptance every point is at REST, commanded where it is detected, and no one locks or claims it
(R36). -/
theorem Framed.joined (loads : c.ofLoader = true) (lines : c.ofLine = true) (im : AreaConfig) (rate : BitRate)
    (inputs : FieldInputs) : Framed c s (s.joined im rate inputs) := by
  have points (p : Fin 8) : (s.joined im rate inputs).points[p]
      = if im.points[p].isSome then PointRec.accepted inputs p else PointRec.initial := by
    simp [State.joined]
  refine ⟨rfl, fun e => by simp [loads] at e, fun e => by simp [lines] at e, fun _ => rfl, fun _ => rfl, id, id, id, id,
    id, id, fun _ p => ?_, fun p x on => ?_⟩
  · rw [points p]
    split <;> simp [PointRec.accepted, PointRec.initial, PointRec.inPosition, Drive.target]
  · rw [points p] at on
    split at on <;> simp [PointRec.accepted, PointRec.initial, PointRec.output] at on

theorem imageCheck_enters (memory : List Byte) (inputs : FieldInputs) :
    Enters (.imageCheck memory inputs) s (execImageCheck memory inputs s) := by
  unfold execImageCheck
  refine .ite ?_
  split
  · refine .from ?_ fun _ h => lawful_announce h
    exact { Framed.refl (.imageCheck memory inputs) s with loader := nofun, line := nofun }
  · exact .from (.joined rfl rfl _ _ _) fun _ h =>
      lawful_announce (lawful_lightSignals (lawful_recordFaults _ _ h))

theorem keyStateChange_enters (readings : BitVec 5) :
    Enters (.keyStateChange readings) s (execKeyStateChange readings s) := by
  have framed := Framed.refl (.keyStateChange readings) s
  unfold execKeyStateChange
  split
  · exact .idle
  · dsimp only
    split
    · exact .idle
    · split
      · exact .from (framed.loaded rfl rfl) fun _ h => h
      · split
        · exact .from (framed.loaded rfl rfl) fun _ h => lawful_withdraw h
        · exact .from (framed.loaded rfl rfl) fun _ h => h

theorem withdraw_enters : Enters .withdraw s (execWithdraw s) :=
  takeFront_enters rfl (fun _ _ h => h.leaveService rfl) fun _ _ _ _ h => by
    split
    · split
      · exact lawful_answerDesk _ _ _ _ _ h
      · rw [Work.answerLast_st]
        split
        · exact lawful_withdraw h
        · exact h
    · exact h

/-! ### Commands of the line (R66 to R72) -/

/-- A command of the line may write what is read and sent there. -/
theorem Framed.onLine (row : c.ofLine = true) (h : Framed c s t)
    (same : u = { t with
      idleCount := u.idleCount, yieldGap := u.yieldGap, sending := u.sending, slotDriven := u.slotDriven
      presenceTimer := u.presenceTimer }) : Framed c s u := by
  rw [same]
  exact ⟨h.pending, h.loader, fun e => by simp [row] at e, h.blocking, h.receiving, h.blockingHolds, h.receiveHolds,
    h.sendHolds, h.reportsHold, h.requestsHold, h.reservationsHold, h.pointsHold, h.clear⟩

/-- Contending counts an attempt and writes of the line; no telegram joins or leaves the send queue (R69). -/
theorem Framed.contend (idle : Nat) (levels : BitVec 18) :
    Framed (.contention idle levels) s (s.contend idle levels) := by
  have framed := Framed.refl (.contention idle levels) s
  unfold State.contend
  split
  · exact framed.onLine rfl rfl
  · split
    · exact framed.onLine rfl rfl
    · split
      · exact framed.onLine rfl rfl
      · split
        · exact framed.onLine rfl rfl
        · exact { framed with line := nofun, sendHolds := fun e => by simpa [State.sendHolds] using e }

theorem abortMark_enters : Enters .abortMark s (execAbortMark s) := by
  unfold execAbortMark
  split
  · exact .idle
  · split
    · exact .idle
    · exact .from ((Framed.refl _ s).onLine rfl rfl) fun _ h => lawful_lineError _ _ h

theorem acknowledgementSlot_enters (dominant : Bool) :
    Enters (.acknowledgementSlot dominant) s (execAcknowledgementSlot dominant s) := by
  unfold execAcknowledgementSlot
  split
  · exact .idle
  · split
    · exact .idle
    · refine .from ((Framed.refl _ s).onLine rfl rfl) fun w h => ?_
      split
      · exact lawful_delivered _ _ h
      · exact lawful_unacknowledged _ _ h

/-- A frame is taken into the receive queue only where that has room (R71). -/
theorem frameReceive_enters (idle : Nat) (levels : List Bool) :
    Enters (.frameReceive idle levels) s (execFrameReceive idle levels s) := by
  have framed := Framed.refl (.frameReceive idle levels) s
  have taken {work : Work → Work} (lawful : ∀ w, Lawful s.frameTaken w.st → Lawful s.frameTaken (work w).st) :
      Enters (.frameReceive idle levels) s (s.event s.frameTaken work) := .from (framed.onLine rfl rfl) lawful
  have failed (dest : Nat) : Enters (.frameReceive idle levels) s (s.event s.frameTaken fun w =>
      if s.address = some dest then w.on (·.recordFault .lineError .controller) else w) := by
    refine taken fun w h => ?_
    split
    · exact lawful_recordFault _ _ _ h
    · exact h
  unfold execFrameReceive
  refine .ite ?_
  split
  · exact .from (framed.onLine rfl rfl) fun _ h => h
  · unfold State.takeFrame
    split
    · exact taken fun _ h => h
    · exact failed _
    · exact failed _
    · split
      · split
        · next room =>
          refine .from { framed with
            line := nofun, receiving := nofun, receiveHolds := fun _ => ?_ } fun _ h => h
          simp only [State.receiveHolds, State.accept, List.length_append, List.length_cons, List.length_nil]
          omega
        · exact taken fun _ h => h
      · refine taken fun w h => ?_
        repeat' split
        · exact lawful_takePresence _ _ h
        · exact h
        · exact h

/-! ### Commands that write filters -/

/-- What a filter makes of its section is lawful after it has been written. -/
theorem takeFilter_enters (i : Fin 16) (made : State → SectionRec × FilterChange) :
    Enters c s (s.event s fun w => w.takeFilter i (made w.st)) :=
  .event (base := s.setSection i (made s).1) rfl
    { Framed.refl c s with clear := fun _ _ new old => absurd new old } (lawful_takeFilter i (made s) (.begin s))

/-! ## Every command -/

/-- A POINT_MOVE admitted moves a point that no lock and no claim holds (R51). -/
theorem pointMove_enters : Enters .pointMove s (execPointMove s) :=
  takeTelegram_enters rfl fun _ dest _ w h => by
    split
    · next tag n target =>
      refine lawful_decide _ _ _ _ (fun admitted answered => ?_) h
      split
      · next p x named =>
        have points : (w.st.answerDesk dest tag 6 none none).points = w.st.points := by
          rw [(reported_answerDesk w.st dest tag 6 none none).same]
        refine lawful_movePoint p x .desk ?_ answered
        rw [Work.on_st, points]
        exact moveRefusal_free x (pointRefusal_moveRefusal named admitted)
      · exact answered
    · exact h

/-- Every command is idle, restarts, or is an event lawful from a base within its frame. -/
theorem exec_enters (c : Instr) (s : State) : Enters c s (exec c s) := by
  cases c
  case start straps => exact start_enters straps
  case resetAsserted => exact resetAsserted_enters
  case imageCheck memory inputs => exact imageCheck_enters memory inputs
  case startHoldExpiry => exact .ite (.from ((Framed.refl _ s).loaded rfl rfl) fun _ h => h)
  case keyStateChange readings => exact keyStateChange_enters readings
  case admitCommand =>
    refine takeFront_enters rfl (fun _ _ h => h.takeAdmission rfl) fun _ _ _ _ h => ?_
    split
    · exact lawful_answerDesk _ _ _ _ _ h
    · exact h
  case withdraw => exact withdraw_enters
  case contention idle levels => exact .ite (.from (.contend idle levels) fun _ h => h)
  case abortMark => exact abortMark_enters
  case acknowledgementSlot dominant => exact acknowledgementSlot_enters dominant
  case frameReceive idle levels => exact frameReceive_enters idle levels
  case presencePeriod => exact .ite (.from ((Framed.refl _ s).onLine rfl rfl) fun _ h => lawful_announce h)
  case sectionSample i occupied =>
    exact .ite (takeFilter_enters i fun t => t.sections[i].sample (t.sectionCfg i) occupied)
  case clearTimerExpiry i => exact .ite (takeFilter_enters i fun t => t.sections[i].clearExpiry)
  case detectionChange | currentSenseChange | overCurrentExpiry | throwTimerExpiry | reversalLockExpiry =>
    refine .ite (.here fun _ h => lawful_takePoint _ _ ?_ h)
    apply_rules [PointRec.sound_detect, PointRec.sound_senseChange, PointRec.sound_overCurrentExpiry,
      PointRec.sound_throwExpiry, PointRec.sound_reversalExpiry]
  case lampProvingInputChange | lampProvingTimerExpiry | presence =>
    refine .ite (.here fun _ h => ?_)
    apply_rules [lawful_lampInput, lawful_lampExpiry, lawful_takePresence]
  case staleMark | silenceTimerExpiry | answerDeadline | emergencyTimerExpiry | orphanTimerExpiry | claimOrphanExpiry
      | confirmTimerExpiry | reportDrain =>
    refine .here fun _ h => ?_
    apply_rules [lawful_markStale, lawful_silenceExpires, lawful_deadline, lawful_emergencyExpires,
      lawful_orphanExpires, lawful_claimsExpire, lawful_confirmExpires]
  case settingLimitExpiry | approachReleaseExpiry | overlapTimerExpiry =>
    refine .here fun _ h => ?_
    repeat' split
    all_goals apply_rules [lawful_rollback, lawful_fullRelease, lawful_overlapExpires]
  case reserve | release | flankClaim | flankRelease | directionRequest | offer | confirm | stateNotice | proven
      | lapse | reserveAnswer | flankAnswer | directionAnswer | offerAnswer | set | faultFetch =>
    refine takeTelegram_enters rfl fun _ _ _ _ h => ?_
    split
    all_goals apply_rules [lawful_takeReserve, lawful_takeRelease, lawful_takeFlankClaim, lawful_takeFlankRelease,
      lawful_takeDirectionRequest, lawful_takeOffer, lawful_takeConfirm, lawful_takeNotice, lawful_portionProven,
      lawful_flankProven, lawful_portionLapsed, lawful_flankLapse, lawful_takeReserveAnswer, lawful_takeFlankAnswer,
      lawful_takeDirectionAnswer, lawful_takeOfferAnswer, lawful_takeSet, lawful_fetchFaults]
  case cancel | emergencyRelease | describe | erase | handoverClear =>
    refine takeTelegram_enters rfl fun _ _ _ _ h => ?_
    split
    · refine lawful_decide _ _ _ _ (fun _ answered => ?_) h
      repeat' split
      all_goals apply_rules [lawful_cancel, lawful_emergencyRelease, lawful_setTrain, lawful_clearHandover]
    · exact h
  case status =>
    refine takeTelegram_enters rfl fun _ _ _ _ h => ?_
    split
    · exact lawful_decide _ _ _ _ (fun _ answered => Lawful.foldl (fun _ x => lawful_place x) _ answered) h
    · exact h
  case rearm =>
    refine takeTelegram_enters rfl fun _ _ _ _ h => ?_
    split
    · exact lawful_answerDesk _ _ _ _ _ (lawful_rearm h)
    · exact h
  case pointMove => exact pointMove_enters
  case block | unblock =>
    refine takeFront_enters rfl (fun body _ => Framed.blockWrite rfl body) fun _ _ _ _ h => ?_
    split
    · exact lawful_answerDesk _ _ _ _ _ h
    · exact h
  case unknownKind | commandAnswerReceived => exact takeTelegram_enters rfl fun _ _ _ _ h => h

/-- Every command answers a next state within its frame. -/
theorem exec_framed (c : Instr) (s : State) :
    ∃ t, exec c s = .next t ∧ Framed c s t ∧ (s.drainedOut → t.drainedOut) := (exec_enters c s).answers

/-! ## Every step -/

/-- What every step keeps of O57, O58 and O60. -/
structure StepKeeps (s t : State) : Prop where
  blocking : s.blockingHolds → t.blockingHolds
  receive : s.receiveHolds → t.receiveHolds
  send : s.sendHolds → t.sendHolds
  reports : s.reportsHold → t.reportsHold
  drained : s.drainedOut → t.drainedOut
  requests : s.requestsHold → t.requestsHold
  reservations : s.reservationsHold → t.reservationsHold
  points : s.pointsHold → t.pointsHold
  clear : ∀ (p : Fin 8) (x : Position), t.points[p].output = some x → s.points[p].output ≠ some x →
    t.pointOccupied p = false

theorem Request.less_tag (q : Request) : q.less.tag = q.tag := by
  unfold Request.less
  split <;> rfl

/-- Ten milliseconds take time from timers alone (R25). -/
theorem tick_keeps (s : State) : StepKeeps s s.tick := by
  unfold State.tick
  split
  · exact ⟨id, id, id, id, id, id, id, id, fun _ _ h k => absurd h k⟩
  · refine ⟨id, id, id, id, id, fun k => ?_, fun k => ?_, fun k p => ?_, fun p x new old => absurd ?_ old⟩
    · simpa [State.requestsHold, Function.comp_def, Request.less_tag] using k
    · simpa [State.reservationsHold, Function.comp_def] using k
    · simpa [PointRec.inPosition] using k p
    · simpa [PointRec.output] using new

/-- Every step keeps the bounds of queues and tables, and the rules of the points. -/
theorem step_keeps {s t : State} (done : step s = .next t) : StepKeeps s t := by
  unfold step at done
  split at done
  · cases done
    exact tick_keeps s
  · next c rest _ =>
    obtain ⟨u, ran, h, drained⟩ := exec_framed c { s with pending := rest }
    rw [ran] at done
    cases done
    exact ⟨h.blockingHolds, h.receiveHolds, h.sendHolds, h.reportsHold, drained, h.requestsHold, h.reservationsHold,
      h.pointsHold, h.clear⟩

/-- Settles O57: the bounds are kept by what a command writes itself and by the laws of its event, whose draining comes
last. -/
theorem stepKeepsQueueBounds : Obligations.StepKeepsQueueBounds := fun _ _ done =>
  let h := step_keeps done
  ⟨h.blocking, h.receive, h.send, h.reports, h.drained⟩

/-- Settles O58: a request is placed under a free tag, and a RESERVE admitted under a new reference (`Lawful`). -/
theorem stepKeepsRequestsAndReservationsUnique : Obligations.StepKeepsRequestsAndReservationsUnique := fun _ _ done =>
  let h := step_keeps done
  ⟨h.requests, h.reservations⟩

/-- Settles O60: every write of a point within an event stays in position and drives only under a CLEAR section
(`Lawful`), and occupancy stands once the filter has been written. -/
theorem stepKeepsLocksInPositionAndThrowsClear : Obligations.StepKeepsLocksInPositionAndThrowsClear := fun _ _ done =>
  let h := step_keeps done
  ⟨h.points, h.clear⟩

/-- Settles O3: every command answers a next state within its frame. -/
theorem everyCommandAnswersWithinItsFrame : Obligations.EveryCommandAnswersWithinItsFrame := fun c s => by
  obtain ⟨t, done, h, -⟩ := exec_framed c s
  exact ⟨t, done, h.pending, h.loader, h.line, h.blocking, h.receiving⟩

end

end Sys2Proof.Machine
end

section
/-! PROOFS. What the end of an event leaves. `Noted s t` refines `Reported`: from `s` to `t` an event only reports, and of
the faults it counts none but UNDELIVERED, for a telegram that finds no room. Recording a fault is counting it and
noting, and the end of an event is noting and then draining. `settled_of_quiet` and `settle_cons` give the state in which
the tasks of an event end. The obligations of tier 1 that need no more stand here. -/

namespace Sys2Proof.Machine

/-! ## Reporting without a fault but UNDELIVERED -/

/-- From `s` to `t` subjects were placed, telegrams appended, and no fault but UNDELIVERED counted. -/
structure Noted (s t : State) : Prop extends Reported s t where
  counts : ∀ k, k ≠ .undelivered → t.counts[faultIndex k] = s.counts[faultIndex k]
  rises : ∀ k, min 255 s.counts[faultIndex k] ≤ t.counts[faultIndex k]

section
variable {s t u : State}

theorem Noted.refl (s : State) : Noted s s := ⟨.refl s, fun _ _ => rfl, fun _ => min_le_right _ _⟩

theorem Noted.trans (h : Noted s t) (k : Noted t u) : Noted s u :=
  ⟨h.toReported.trans k.toReported, fun x e => (k.counts x e).trans (h.counts x e), fun x => by
    have := h.rises x; have := k.rises x; omega⟩

/-- Reporting that counts nothing. -/
theorem Noted.of_counts (h : Reported s t) (same : t.counts = s.counts) : Noted s t :=
  ⟨h, fun _ _ => by rw [same], fun _ => by rw [same]; exact min_le_right _ _⟩

theorem Noted.foldl {α : Type} {f : State → α → State} (h : ∀ s x, Noted s (f s x)) (xs : List α) (s : State) :
    Noted s (xs.foldl f s) := by
  induction xs generalizing s with
  | nil => exact .refl s
  | cons x xs ih => exact (h s x).trans (ih (f s x))

@[simp] theorem place_counts (s : State) (x : Subject) : (s.place x).counts = s.counts := by
  unfold State.place
  split <;> rfl

theorem noted_place (s : State) (x : Subject) : Noted s (s.place x) :=
  .of_counts (reported_place s x) (place_counts s x)

/-- A count rises by one, to 255 at most; the others stand (R182). -/
theorem countFault_counts (s : State) (k j : FaultKind) (x : Subject) (n : Option Nat) :
    (s.countFault k x n).counts[faultIndex j]
      = if k = j then min 255 (s.counts[faultIndex j] + 1) else s.counts[faultIndex j] := by
  have inj : faultIndex k = faultIndex j ↔ k = j := by cases k <;> cases j <;> decide
  simp only [State.countFault, Fin.getElem_fin, Vector.getElem_set, Fin.val_inj, inj]
  split
  · next e => rw [e]
  · rfl

theorem noted_countUndelivered (s : State) (x : Subject) (n : Option Nat) :
    Noted s (s.countFault .undelivered x n) := by
  refine ⟨reported_countFault _ _ _ _, fun k e => ?_, fun k => ?_⟩
  · rw [countFault_counts, if_neg (Ne.symm e)]
  · rw [countFault_counts]
    split <;> omega

theorem noted_sendAlert (s : State) : Noted s s.sendAlert := by
  have arm : Noted s { s with alertArmed := false } :=
    .of_counts ⟨rfl, ⟨[], by simp⟩, ⟨[], by simp⟩, id, id, fun _ => rfl⟩ rfl
  have base := arm.trans (noted_place { s with alertArmed := false } .controller)
  unfold State.sendAlert
  dsimp only
  split
  · next room => exact base.trans (.of_counts (reported_enqueue _ _ 2 room) rfl)
  · exact base.trans (noted_countUndelivered _ _ _)

/-- Recording a fault counts it, and then notes (R182, R184). -/
theorem noted_recordFault (s : State) (k : FaultKind) (x : Subject) (n : Option Nat) :
    Noted (s.countFault k x n) (s.recordFault k x n) := by
  unfold State.recordFault
  dsimp only
  split
  · exact noted_sendAlert _
  · exact .refl _

theorem noted_post (s : State) (dest : Nat) (body : Body) : Noted s (s.post dest body) := by
  unfold State.post
  dsimp only
  split
  · exact .refl s
  · split
    · next room => exact .of_counts (reported_enqueue _ _ _ room) rfl
    · exact (noted_countUndelivered _ _ _).trans (noted_recordFault _ _ _ _)

theorem noted_draw (s : State) (n : Nat) : Noted s (s.draw n) := .of_counts (reported_draw s n) rfl

theorem noted_answerDesk (s : State) (dest : Nat) (tag : Byte) (code : Nat) (reason : Option Reason)
    (index : Option Nat) : Noted s (s.answerDesk dest tag code reason index) :=
  (noted_post s dest _).trans (noted_draw _ 1)

theorem noted_postAll (s : State) (dests : List Nat) (body : Body) : Noted s (s.postAll dests body) :=
  Noted.foldl (f := fun s d => s.post d body) (fun s d => noted_post s d body) dests s

theorem noted_placeChanged (before s : State) : Noted s (State.placeChanged before s) :=
  Noted.foldl (fun t x => by
    show Noted t (if before.shown x = s.shown x then t else t.place x)
    split
    · exact .refl t
    · exact noted_place t x) allSubjects s

/-- The end of an event only notes. -/
theorem noted_conclude (before : State) (w : Work) : Noted w.st (State.conclude before w) := by
  have signal (t : State) (g : Fin 8) : Noted t (State.notifySignal before w.turned t g) := by
    unfold State.notifySignal
    split
    · exact .refl t
    · exact noted_postAll _ _ _
  have noticed (t : State) (i : Fin 16) : Noted t (State.notifySection before t i) := by
    unfold State.notifySection
    dsimp only
    split
    · exact .refl t
    · exact noted_postAll _ _ _
  exact (((Noted.foldl signal _ _).trans (Noted.foldl noticed _ _)).trans
    (Noted.foldl (fun _ _ => noted_answerDesk _ _ _ _ _ _) _ _)).trans (noted_placeChanged before _)

/-! ## What an update does to a state that has been noted in -/

/-- An update that neither reads nor writes what is noted keeps the relation. -/
theorem Noted.map (h : Noted s t) (f : State → State)
    (same : ∀ (x : State) c a b r q n, f { x with
        counts := c, firstFault := a, alertArmed := b, reports := r, sendQueue := q, fresh := n }
      = { f x with counts := c, firstFault := a, alertArmed := b, reports := r, sendQueue := q, fresh := n }) :
    Noted (f s) (f t) := by
  have self (x : State) := same x x.counts x.firstFault x.alertArmed x.reports x.sendQueue x.fresh
  have counts (x : State) : (f x).counts = x.counts := by rw [self x]
  have fault (x : State) : (f x).firstFault = x.firstFault := by rw [self x]
  have reports (x : State) : (f x).reports = x.reports := by rw [self x]
  have queue (x : State) : (f x).sendQueue = x.sendQueue := by rw [self x]
  obtain ⟨⟨e, sent, placed, room, once, kept⟩, counted, rises⟩ := h
  refine ⟨⟨?_, ?_, ?_, ?_, ?_, ?_⟩, ?_, ?_⟩
  · have moved := (congrArg f e).trans (same s _ _ _ _ _ _)
    have alert : (f t).alertArmed = t.alertArmed := by rw [self t]
    have free : (f t).fresh = t.fresh := by rw [self t]
    rw [counts, fault, reports, queue, alert, free]
    exact moved
  all_goals simp only [counts, fault, reports, queue]
  · exact sent
  · exact placed
  · exact room
  · exact once
  · exact kept
  · exact counted
  · exact rises

/-! ## The end of an event -/

/-- Out of reset an event ends where its work has settled, but for noting and draining. -/
theorem event_noted {before start : State} {work : Work → Work} (live : before.resetHeld = false) :
    ∃ u, before.event start work = .next u.drained ∧ Noted (start.settled work).st u :=
  ⟨_, event_of_live live, noted_conclude _ _⟩

/-- With no task and nothing to return, the work of an event is all it does. -/
theorem settled_of_quiet {start : State} {work : Work → Work} (none : start.agenda = [])
    (out : (work (Work.begin start)).out = []) (returns : (work (Work.begin start)).returns = []) :
    start.settled work = (work (Work.begin start)).on fun s => start.keep { s with agenda := [] } := by
  unfold State.settled
  dsimp only
  rw [none, out, List.append_nil, settle_nil, returnFlank_of_nil returns]

/-- A quiet event whose work touches none of the fields that an event keeps. -/
theorem settled_quiet_st {start : State} {work : Work → Work} (none : start.agenda = [])
    (out : (work (Work.begin start)).out = []) (returns : (work (Work.begin start)).returns = [])
    (kept : start.keep (work (Work.begin start)).st = (work (Work.begin start)).st)
    (left : (work (Work.begin start)).st.agenda = []) :
    (start.settled work).st = (work (Work.begin start)).st := by
  rw [settled_of_quiet none out returns, Work.on_st]
  conv_rhs => rw [← kept]
  unfold State.keep
  rw [left]

/-- Reporting keeps what an event keeps. -/
theorem Reported.keep (h : Reported s t) (k : u.keep s = s) : u.keep t = t := by
  rw [h.same, ← k]
  rfl

theorem Reported.agenda (h : Reported s t) : t.agenda = s.agenda := by rw [h.same]

end

/-! ## Steps, start and reset -/

/-- Settles O1. -/
theorem stepRunsTheFrontCommand : Obligations.StepRunsTheFrontCommand := fun _ _ => rfl

/-- Settles O2: on an empty queue a step is `State.tick`. -/
theorem emptyQueueLetsTimePass : Obligations.EmptyQueueLetsTimePass := fun s empty => by
  have ticks : step s = .next s.tick := by simp [step, empty]
  refine ⟨fun held => ?_, fun live => ⟨s.tick, ticks, ?_⟩⟩
  · rw [ticks, State.tick, if_pos held]
  · simp [State.tick, live]

/-- Settles O4: both outcomes of the straps leave the start values of `State.reset`. -/
theorem startTakesStartValues : Obligations.StartTakesStartValues := fun straps s => by
  show ∃ t, execStart straps s = .next t ∧ _
  unfold execStart
  dsimp only
  split
  · refine ⟨_, rfl, ?_⟩
    simp [State.restarted, State.reset, State.vacant, State.inServiceOutput, State.faultOutput]
  · refine ⟨_, rfl, ?_⟩
    simp [State.restarted, State.reset, State.vacant, State.inServiceOutput, State.faultOutput, State.lineUsed]

/-- A command that does not start is idle or an event, and so changes nothing in reset (R187; log entry 2). -/
theorem exec_of_held {c : Instr} {s : State} (held : s.resetHeld = true) (other : Instr.starts c = false) :
    exec c s = .next s := by
  obtain h := exec_enters c s
  generalize exec c s = o at h
  cases h with
  | idle => rfl
  | restarts starts => simp [other] at starts
  | event => exact event_of_reset held

/-- Settles O5: RESET_ASSERTED leaves the values of `State.reset`. -/
theorem resetStopsEverything : Obligations.ResetStopsEverything := by
  refine ⟨fun s => ⟨_, rfl, ?_⟩, fun c s held noStart noReset => exec_of_held held ?_⟩
  · simp [State.restarted, State.reset, State.vacant, State.lineUsed, State.sampling, State.inServiceOutput,
      State.faultOutput, PointRec.initial, PointRec.output, SignalRec.initial, LampState.output]
  · cases c
    case start straps => exact absurd rfl (noStart straps)
    case resetAsserted => exact absurd rfl noReset
    all_goals rfl

/-- Settles O56. -/
theorem resetMeetsTheInvariants : Obligations.ResetMeetsTheInvariants := by
  refine ⟨⟨.nil, by decide⟩, Nat.zero_le _, Nat.zero_le _, List.nodup_singleton _, ⟨Nat.zero_le _, .nil⟩,
    ⟨Nat.zero_le _, .nil⟩, fun _ g => ?_, fun g _ => ?_, restarted_drainedOut rfl, fun p => ?_, fun i _ => ?_⟩
  · simp [State.reset, SignalRec.initial]
  · simp [State.reset, SignalRec.initial]
  · simp [State.reset, PointRec.initial, PointRec.inPosition, Drive.target]
  · simp [State.reset, SectionRec.initial]

/-! ## Where nothing shown has changed -/

section
variable {s t : State}

/-- What the reports of two states show is the same where they agree in all that a report is made of: of the sections
what their reports show, of the remote sections the images. -/
structure ShowsSame (s t : State) : Prop where
  sections : ∀ i : Fin 16, t.sections[i].shown = s.sections[i].shown
  images : ∀ x, t.imageOf x = s.imageOf x
  points : t.points = s.points
  signals : t.signals = s.signals
  boundaries : t.boundaries = s.boundaries
  instances : t.instances = s.instances
  lastEnded : t.lastEnded = s.lastEnded
  cfg : t.cfg = s.cfg
  address : t.address = s.address
  service : t.service = s.service
  blocking : t.blocking = s.blocking
  peers : t.peers.map (fun p => (p.address, p.state)) = s.peers.map fun p => (p.address, p.state)
  firstFault : t.firstFault = s.firstFault
  alertArmed : t.alertArmed = s.alertArmed

theorem shown_filter {r r' : SectionRec} (h : r'.shown = r.shown) :
    r'.filter = r.filter ∧ r'.sequenceFault = r.sequenceFault := by
  simp only [SectionRec.shown, SectionRec.mk.injEq] at h
  exact ⟨h.1, h.2.2.2.2.1⟩

theorem ShowsSame.shown (h : ShowsSame s t) (x : Subject) : s.shown x = t.shown x := by
  have own (n : Nat) : t.ownRef n = s.ownRef n := by simp only [State.ownRef, State.own, h.address]
  have block (e : Elem) : t.blockOf e = s.blockOf e := by simp only [State.blockOf, h.blocking]
  have proven (i : RouteInst) (index : Nat) (q : RouteReq) : t.reqProven i index q = s.reqProven i index q := by
    unfold State.reqProven
    simp only [h.points, h.signals, h.images]
    split
    · next j _ =>
      obtain ⟨filter, fault⟩ := shown_filter (h.sections j)
      simp only [SectionRec.occupied, SectionRec.supervision, filter, fault]
    all_goals rfl
  have running (g : Fin 8) : t.running g = s.running g := by
    simp only [State.running, State.routeRecord, h.instances, h.cfg]
  have missing (g : Fin 8) : t.shownMissing g = s.shownMissing g := by
    unfold State.shownMissing State.firstMissing State.entryProven
    simp only [running, own, proven, h.signals]
  cases x with
  | elem e => cases e <;> simp only [State.shown, h.sections, h.points, h.signals, h.boundaries, block]
  | route g => simp only [State.shown, h.instances, h.lastEnded, missing]
  | controller => simp only [State.shown, h.service, h.peers, h.blocking, h.firstFault, h.alertArmed]

/-- An event that shows no change, and changes no aspect, ends as its work has settled. -/
theorem conclude_of_showsSame {w : Work} (h : ShowsSame s w.st) (turned : w.turned = []) (answers : w.answers = []) :
    State.conclude s w = w.st := by
  refine conclude_of_shown s w h.shown (fun g => ?_) (fun i => ?_) turned answers
  · simp only [State.signalNotice, h.signals]
  · obtain ⟨filter, -⟩ := shown_filter (h.sections i)
    simp only [SectionRec.occupied, SectionRec.supervision, filter, and_self]

/-- A quiet event that shows no change ends, but for the draining, as its work has left the state. -/
theorem event_of_showsSame {before start : State} {work : Work → Work} (ready : before.ready)
    (begun : start.agenda = before.agenda) (out : (work (Work.begin start)).out = [])
    (returns : (work (Work.begin start)).returns = []) (turned : (work (Work.begin start)).turned = [])
    (answers : (work (Work.begin start)).answers = [])
    (kept : start.keep (work (Work.begin start)).st = (work (Work.begin start)).st)
    (left : (work (Work.begin start)).st.agenda = start.agenda)
    (shows : ShowsSame before (work (Work.begin start)).st) :
    before.event start work = .next (work (Work.begin start)).st.drained := by
  have none : start.agenda = [] := begun.trans ready.2
  have st := settled_quiet_st none out returns kept (left.trans none)
  rw [event_of_live ready.1]
  have turned' : (start.settled work).turned = [] := by rw [settled_of_quiet none out returns]; exact turned
  have answers' : (start.settled work).answers = [] := by rw [settled_of_quiet none out returns]; exact answers
  rw [conclude_of_showsSame (by rw [st]; exact shows) turned' answers', st]

/-! ## STALE_MARK (R26) -/

theorem changeRemote_entry_same (s : State) (x : SectionRef) (f : RemoteEntry → RemoteEntry)
    (keeps : ∀ e, (f e).station = e.station ∧ (f e).index = e.index) :
    (s.changeRemote x f).remoteEntry x = (s.remoteEntry x).map f := by
  unfold State.changeRemote State.remoteEntry
  dsimp only
  rw [List.find?_map]
  have names : ((fun e : RemoteEntry => e.station == x.station && e.index == x.index) ∘
      fun e => if e.station = x.station ∧ e.index = x.index then f e else e)
      = fun e => e.station == x.station && e.index == x.index := by
    funext e
    dsimp only [Function.comp]
    split
    · rw [(keeps e).1, (keeps e).2]
    · rfl
  rw [names]
  cases found : s.remote.find? fun e => e.station == x.station && e.index == x.index with
  | none => rfl
  | some e =>
    have named := List.find?_some found
    simp only [Bool.and_eq_true, beq_iff_eq] at named
    simp [named]

theorem changeRemote_entry_other (s : State) (x y : SectionRef) (f : RemoteEntry → RemoteEntry)
    (keeps : ∀ e, (f e).station = e.station ∧ (f e).index = e.index) (other : y ≠ x) :
    (s.changeRemote x f).remoteEntry y = s.remoteEntry y := by
  unfold State.changeRemote State.remoteEntry
  dsimp only
  induction s.remote with
  | nil => rfl
  | cons e es ih =>
    rw [List.map_cons, List.find?_cons, List.find?_cons, ih]
    by_cases named : e.station = x.station ∧ e.index = x.index
    · have away : (e.station == y.station && e.index == y.index) = false := by
        refine Bool.eq_false_iff.mpr fun same => other ?_
        simp only [Bool.and_eq_true, beq_iff_eq] at same
        cases x; cases y; simp_all
      rw [if_pos named, (keeps e).1, (keeps e).2, away]
    · rw [if_neg named]

/-- Settles O12: neither the mark nor the capture is shown in a report, so that the event reports nothing. -/
theorem staleMarkChangesNothingElse : Obligations.StaleMarkChangesNothingElse := by
  refine ⟨fun i s v ready fresh => ?_, fun station index s e v ready named fresh => ?_⟩
  · refine ⟨_, event_of_showsSame ready rfl rfl rfl rfl rfl rfl rfl ?_, ?_, ?_⟩
    · have sections (j : Fin 16) : (s.markStale (.track i)).sections[j].shown = s.sections[j].shown := by
        rcases eq_or_ne i j with rfl | other
        · simp [State.markStale, SectionRec.shown]
        · have : ¬ i.val = j.val := fun e => other (Fin.ext e)
          simp [State.markStale, this]
      refine ⟨sections, fun x => ?_, rfl, rfl, rfl, rfl, rfl, rfl, rfl, rfl, rfl, rfl, rfl, rfl⟩
      unfold State.imageOf
      split
      · split
        · next j _ =>
          show (if (s.markStale (.track i)).sections[j].occupied then _ else _) = _
          rw [SectionRec.occupied, (shown_filter (sections j)).1, ← SectionRec.occupied]
        · rfl
      · rfl
    · show s.markStale (.track i) = _
      rw [State.markStale, fresh]
      rfl
    · show (s.markStale (.track i)).captureAge i = _
      rw [State.markStale, fresh]
      simp [Capture.marked, State.captureAge]
  · have same := changeRemote_entry_same s ⟨station, index⟩
      (fun e => { e with capture := e.capture.map Capture.marked }) fun _ => ⟨rfl, rfl⟩
    have others := fun x => changeRemote_entry_other s ⟨station, index⟩ x
      (fun e => { e with capture := e.capture.map Capture.marked }) fun _ => ⟨rfl, rfl⟩
    rw [named] at same
    refine ⟨_, event_of_showsSame ready rfl rfl rfl rfl rfl rfl rfl ?_, rfl, ?_, others⟩
    · refine ⟨fun _ => rfl, fun x => ?_, rfl, rfl, rfl, rfl, rfl, rfl, rfl, rfl, rfl, rfl, rfl, rfl⟩
      show (s.changeRemote ⟨station, index⟩ _).imageOf x = s.imageOf x
      unfold State.imageOf
      split
      · rfl
      · rcases eq_or_ne x ⟨station, index⟩ with rfl | other
        · rw [same, named]
          rfl
        · rw [others x other]
    · refine same.trans ?_
      simp [fresh, Capture.marked]

end

end Sys2Proof.Machine
end

section
/-! PROOFS. Reporting set apart. What an event notes lies in six fields of the state, the `Notes`; everything else an
event computes without looking at them, unless it places a telegram. So an operation commutes with `Work.noting`, and a
chain of tasks is followed on a reference work in which nothing is noted: `Near v w` says that `w` is `v` but for notes
made on the way, and `Leads` that the tasks of an event lead from one reference work to another. -/

namespace Sys2Proof.Machine

/-- The fields in which an event reports. -/
structure Notes where
  counts : Vector Nat 15
  firstFault : Option FaultRecord
  alertArmed : Bool
  reports : List Subject
  sendQueue : List SendEntry
  fresh : Nat

/-- What a state has noted. -/
def State.notes (s : State) : Notes :=
  ⟨s.counts, s.firstFault, s.alertArmed, s.reports, s.sendQueue, s.fresh⟩

/-- The state with other notes. -/
def State.noting (s : State) (n : Notes) : State :=
  { s with
    counts := n.counts, firstFault := n.firstFault, alertArmed := n.alertArmed, reports := n.reports
    sendQueue := n.sendQueue, fresh := n.fresh }

/-- The work with other notes. -/
def Work.noting (w : Work) (n : Notes) : Work := { w with st := w.st.noting n }

@[simp] theorem State.noting_notes (s : State) : s.noting s.notes = s := rfl
@[simp] theorem State.notes_noting (s : State) (n : Notes) : (s.noting n).notes = n := rfl
@[simp] theorem State.noting_noting (s : State) (m n : Notes) : (s.noting m).noting n = s.noting n := rfl
@[simp] theorem State.noting_pending (s : State) (n : Notes) : (s.noting n).pending = s.pending := rfl
@[simp] theorem State.noting_resetHeld (s : State) (n : Notes) : (s.noting n).resetHeld = s.resetHeld := rfl
@[simp] theorem State.noting_service (s : State) (n : Notes) : (s.noting n).service = s.service := rfl
@[simp] theorem State.noting_loadResult (s : State) (n : Notes) : (s.noting n).loadResult = s.loadResult := rfl
@[simp] theorem State.noting_address (s : State) (n : Notes) : (s.noting n).address = s.address := rfl
@[simp] theorem State.noting_startHoldTimer (s : State) (n : Notes) : (s.noting n).startHoldTimer = s.startHoldTimer := rfl
@[simp] theorem State.noting_admission (s : State) (n : Notes) : (s.noting n).admission = s.admission := rfl
@[simp] theorem State.noting_keyOn (s : State) (n : Notes) : (s.noting n).keyOn = s.keyOn := rfl
@[simp] theorem State.noting_captureTimer (s : State) (n : Notes) : (s.noting n).captureTimer = s.captureTimer := rfl
@[simp] theorem State.noting_cfg (s : State) (n : Notes) : (s.noting n).cfg = s.cfg := rfl
@[simp] theorem State.noting_sections (s : State) (n : Notes) : (s.noting n).sections = s.sections := rfl
@[simp] theorem State.noting_points (s : State) (n : Notes) : (s.noting n).points = s.points := rfl
@[simp] theorem State.noting_signals (s : State) (n : Notes) : (s.noting n).signals = s.signals := rfl
@[simp] theorem State.noting_boundaries (s : State) (n : Notes) : (s.noting n).boundaries = s.boundaries := rfl
@[simp] theorem State.noting_blocking (s : State) (n : Notes) : (s.noting n).blocking = s.blocking := rfl
@[simp] theorem State.noting_remote (s : State) (n : Notes) : (s.noting n).remote = s.remote := rfl
@[simp] theorem State.noting_instances (s : State) (n : Notes) : (s.noting n).instances = s.instances := rfl
@[simp] theorem State.noting_lastEnded (s : State) (n : Notes) : (s.noting n).lastEnded = s.lastEnded := rfl
@[simp] theorem State.noting_reservations (s : State) (n : Notes) : (s.noting n).reservations = s.reservations := rfl
@[simp] theorem State.noting_register (s : State) (n : Notes) : (s.noting n).register = s.register := rfl
@[simp] theorem State.noting_bitRate (s : State) (n : Notes) : (s.noting n).bitRate = s.bitRate := rfl
@[simp] theorem State.noting_idleCount (s : State) (n : Notes) : (s.noting n).idleCount = s.idleCount := rfl
@[simp] theorem State.noting_yieldGap (s : State) (n : Notes) : (s.noting n).yieldGap = s.yieldGap := rfl
@[simp] theorem State.noting_sending (s : State) (n : Notes) : (s.noting n).sending = s.sending := rfl
@[simp] theorem State.noting_slotDriven (s : State) (n : Notes) : (s.noting n).slotDriven = s.slotDriven := rfl
@[simp] theorem State.noting_recvQueue (s : State) (n : Notes) : (s.noting n).recvQueue = s.recvQueue := rfl
@[simp] theorem State.noting_tagCounter (s : State) (n : Notes) : (s.noting n).tagCounter = s.tagCounter := rfl
@[simp] theorem State.noting_requests (s : State) (n : Notes) : (s.noting n).requests = s.requests := rfl
@[simp] theorem State.noting_peers (s : State) (n : Notes) : (s.noting n).peers = s.peers := rfl
@[simp] theorem State.noting_presenceTimer (s : State) (n : Notes) : (s.noting n).presenceTimer = s.presenceTimer := rfl
@[simp] theorem State.noting_agenda (s : State) (n : Notes) : (s.noting n).agenda = s.agenda := rfl
@[simp] theorem State.noting_counts (s : State) (n : Notes) : (s.noting n).counts = n.counts := rfl
@[simp] theorem State.noting_firstFault (s : State) (n : Notes) : (s.noting n).firstFault = n.firstFault := rfl
@[simp] theorem State.noting_alertArmed (s : State) (n : Notes) : (s.noting n).alertArmed = n.alertArmed := rfl
@[simp] theorem State.noting_reports (s : State) (n : Notes) : (s.noting n).reports = n.reports := rfl
@[simp] theorem State.noting_sendQueue (s : State) (n : Notes) : (s.noting n).sendQueue = n.sendQueue := rfl
@[simp] theorem State.noting_fresh (s : State) (n : Notes) : (s.noting n).fresh = n.fresh := rfl

section
variable {s t : State} {v w : Work} {n : Notes}

@[simp] theorem Work.noting_st (w : Work) (n : Notes) : (w.noting n).st = w.st.noting n := rfl
@[simp] theorem Work.noting_out (w : Work) (n : Notes) : (w.noting n).out = w.out := rfl
@[simp] theorem Work.noting_returns (w : Work) (n : Notes) : (w.noting n).returns = w.returns := rfl
@[simp] theorem Work.noting_noting (w : Work) (m n : Notes) : (w.noting m).noting n = w.noting n := rfl

theorem Noted.noting (h : Noted s t) : t = s.noting t.notes := h.same

/-- Noting on a state follows where it follows on another with the same notes. -/
theorem Noted.of_notes (same : t.notes = s.notes) (h : Noted s (s.noting n)) : Noted t (t.noting n) := by
  simp only [State.notes, Notes.mk.injEq] at same
  obtain ⟨counts, fault, alert, reports, queue, fresh⟩ := same
  obtain ⟨⟨-, sent, placed, room, once, kept⟩, counted, rises⟩ := h
  refine ⟨⟨rfl, ?_, ?_, ?_, ?_, ?_⟩, ?_, ?_⟩
  · rw [queue]; exact sent
  · rw [reports]; exact placed
  · rw [queue]; exact room
  · rw [reports]; exact once
  · rw [fault]; exact kept
  · rw [counts]; exact counted
  · rw [counts]; exact rises

/-- The work `w` is the reference work `v` but for what has been noted. -/
structure Near (v w : Work) : Prop where
  st : Noted v.st w.st
  rest : w = { v with st := w.st }

theorem Near.refl (w : Work) : Near w w := ⟨.refl _, rfl⟩

theorem Near.noting (h : Near v w) : w = v.noting w.st.notes := by
  rw [h.rest, Work.noting, ← h.st.noting]

/-- What commutes with noting is done alike to the work and its reference. -/
theorem Near.map (h : Near v w) {f : Work → Work} (same : ∀ n, f (v.noting n) = (f v).noting n) :
    Near (f v) (f w) := by
  have notes : (f v).st.notes = v.st.notes := congrArg (·.st.notes) (same v.st.notes)
  rw [h.noting, same]
  exact ⟨.of_notes notes (h.st.noting ▸ h.st), rfl⟩

/-- More may be noted. -/
theorem Near.noted {u : State} (h : Near v w) (k : Noted w.st u) : Near v { w with st := u } :=
  ⟨h.st.trans k, by rw [h.rest]⟩

theorem Near.out (h : Near v w) : w.out = v.out := by rw [h.rest]
theorem Near.returns (h : Near v w) : w.returns = v.returns := by rw [h.rest]

/-! ## The tasks of an event -/

/-- The tasks lead from the reference work `v` to `v'`, within `k` tasks. -/
def Leads (start : State) (k : Nat) (ts : List Task) (v v' : Work) : Prop :=
  ∀ fuel w, k < fuel → Near v w → ∃ w', Work.settle start fuel ts w = (w', []) ∧ Near v' w'

variable {start : State} {k : Nat} {ts : List Task} {x : Task} {v' : Work}

theorem Leads.done : Leads start k [] v v := fun _ w _ h => ⟨w, settle_nil _ _ _, h⟩

/-- The tasks that a work has given rise to are no longer its own once they are taken. -/
theorem settle_out (start : State) (fuel : Nat) (ts : List Task) (w : Work) :
    Work.settle start (fuel + 1) (w.out ++ ts) w = Work.settle start (fuel + 1) (w.out ++ ts) { w with out := [] } := by
  cases e : w.out with
  | nil =>
    have same : { w with out := [] } = w := by rw [← e]
    rw [same]
  | cons x xs => rfl

theorem Near.clear (h : Near v w) : Near { v with out := [] } { w with out := [] } :=
  ⟨h.st, by rw [h.rest]⟩

/-- The first task is taken, and then what it gives rise to, before the others. -/
theorem Leads.cons {v₁ : Work} (first : ∀ w, Near { v with out := [] } w → Near v₁ (w.take x))
    (rest : Leads start k (v₁.out ++ ts) { v₁ with out := [] } v') : Leads start (k + 1) (x :: ts) v v' := by
  intro fuel w enough h
  obtain ⟨fuel, rfl⟩ : ∃ m, fuel = m + 1 + 1 := ⟨fuel - 2, by omega⟩
  have begun : Near { v with out := [] } { w.on (State.placeChanged start) with out := [] } :=
    ⟨h.st.trans (noted_placeChanged start w.st), by rw [h.rest]; rfl⟩
  have taken := first _ begun
  rw [settle_cons]
  dsimp only
  rw [settle_out, taken.out]
  exact rest _ _ (by omega) taken.clear

/-- A task whose effect on a reference is known whatever has been noted. -/
theorem Leads.exact {m : Notes} {b b₁ : Work} (quiet : b.out = []) (same : ∀ n, (b.noting n).take x = b₁.noting n)
    (rest : Leads start k (b₁.out ++ ts) ({ b₁ with out := [] }.noting m) v') :
    Leads start (k + 1) (x :: ts) (b.noting m) v' := by
  refine .cons (v₁ := b₁.noting m) (fun w h => ?_) rest
  have cleared : { b.noting m with out := [] } = b.noting m := by
    unfold Work.noting
    rw [← quiet]
  rw [cleared] at h
  have reached : w = b.noting w.st.notes := h.noting
  generalize w.st.notes = notes at reached
  subst reached
  rw [same]
  exact ⟨.of_notes (s := b.st.noting m) rfl h.st, rfl⟩

/-! ## The event -/

/-- An event whose tasks lead its work to `v'` ends there, but for notes and the draining. -/
theorem event_leads {before : State} {work : Work → Work} (ready : before.ready) (begun : start.agenda = before.agenda)
    (near : Near v (work (Work.begin start))) (few : k < taskBound) (leads : Leads start k v.out { v with out := [] } v')
    (returns : v'.returns = []) (kept : start.keep v'.st = v'.st) (left : v'.st.agenda = []) :
    ∃ u, before.event start work = .next u.drained ∧ Noted v'.st u := by
  obtain ⟨w', done, near'⟩ := leads taskBound _ few near.clear
  obtain ⟨u, ends, noted⟩ := event_noted (start := start) (work := work) ready.1
  refine ⟨u, ends, near'.st.trans ?_⟩
  rw [← near.out, taskBound, ← List.append_nil (Work.out _), ← settle_out start 4095] at done
  have settled : (start.settled work).st = w'.st := by
    unfold State.settled
    dsimp only
    rw [begun, ready.2, List.nil_append, taskBound, ← List.append_nil (Work.out _), done, Work.on_st, returnFlank_of_nil (near'.returns.trans returns)]
    conv_rhs => rw [← near'.st.keep kept]
    unfold State.keep
    rw [near'.st.agenda, left]
  exact settled ▸ noted

/-! ## The next state -/

/-- The notes of the next state after one in which `s` was reached: telegrams appended, no fault counted but
UNDELIVERED, and a first fault kept. -/
structure Notes.After (n : Notes) (s : State) : Prop where
  sent : ∃ more, n.sendQueue = s.sendQueue ++ more
  counts : ∀ k, k ≠ .undelivered → n.counts[faultIndex k] = s.counts[faultIndex k]
  rises : ∀ k, min 255 s.counts[faultIndex k] ≤ n.counts[faultIndex k]
  kept : s.firstFault.isSome → n.firstFault = s.firstFault

/-- Draining changes notes alone. -/
theorem drained_noting (s : State) : s.drained = s.noting s.drained.notes := by
  have same := (drained_drained s).same
  generalize s.drained.reports = reports at same
  generalize s.drained.sendQueue = queue at same
  generalize s.drained.fresh = fresh at same
  rw [same]
  rfl

/-- A command completes where `P` holds of the state that its event reaches, whatever that has noted. -/
theorem Completes.of_noted {c : Instr} {s b : State} {P : State → Prop}
    (done : ∃ u, exec c s = .next u.drained ∧ Noted b u) (h : ∀ n : Notes, n.After b → P (b.noting n)) :
    Completes c s P := by
  obtain ⟨u, done, noted⟩ := done
  obtain ⟨same, ⟨more, sent⟩, -, -⟩ := drained_drained u
  obtain ⟨more', sent'⟩ := noted.sent
  have after : u.drained.notes.After b := by
    refine ⟨⟨more' ++ more, ?_⟩, ?_, ?_, ?_⟩
    · show u.drained.sendQueue = _
      rw [sent, sent', List.append_assoc]
    all_goals simp only [State.notes]; rw [same]
    · exact noted.counts
    · exact noted.rises
    · exact noted.kept
  refine ⟨_, done, ?_⟩
  have reached : u.drained = b.noting u.drained.notes := by
    conv_lhs => rw [drained_noting u]
    exact congrArg (·.noting u.drained.notes) noted.noting
  rw [reached]
  exact h _ after

/-- The same where the queues are said before the draining. -/
theorem CompletesDraining.of_noted {c : Instr} {s b : State} {P : State → Prop}
    (done : ∃ u, exec c s = .next u.drained ∧ Noted b u) (h : ∀ n : Notes, Noted b (b.noting n) → P (b.noting n)) :
    CompletesDraining c s P := by
  obtain ⟨u, done, noted⟩ := done
  refine ⟨u, done, ?_⟩
  rw [noted.noting]
  exact h _ (by rw [← noted.noting]; exact noted)

end

end Sys2Proof.Machine
end

section
/-! PROOFS. O13 to O17, the drive machine of a point (chapter 3). An event at a point writes its record, records its
faults and tells requesters and holders; `pointEvent_private` is the event of a point that has no one to tell but the
desk. What is told to a route or a claimant is followed with `Leads`. -/

namespace Sys2Proof.Machine

section
variable {s : State} {p : Fin 8} {f : State → PointStep}

/-! ## What is noted of faults -/

/-- Recording faults notes them. -/
theorem recordFaults_noting (s : State) (ks : List FaultKind) (x : Subject) :
    s.recordFaults ks x = s.noting (s.recordFaults ks x).notes := (reported_recordFaults s ks x).same

@[simp] theorem recordFaults_nil (s : State) (x : Subject) : s.recordFaults [] x = s := rfl

/-- The count of the last fault recorded has risen by one. -/
theorem recordFault_count (s : State) {k : FaultKind} (x : Subject) (n : Option Nat) (other : k ≠ .undelivered) :
    (s.recordFault k x n).counts[faultIndex k] = min 255 (s.counts[faultIndex k] + 1) := by
  rw [(noted_recordFault s k x n).counts k other, countFault_counts, if_pos rfl]

theorem recordFault_count_other (s : State) {k j : FaultKind} (x : Subject) (n : Option Nat) (other : j ≠ .undelivered)
    (ne : k ≠ j) : (s.recordFault k x n).counts[faultIndex j] = s.counts[faultIndex j] := by
  rw [(noted_recordFault s k x n).counts j other, countFault_counts, if_neg ne]

/-! ## A point event -/

/-- What a point event tells: the results to its requesters, and a change of proof to its holders (R48, R49). -/
def pointTasks (s : State) (p : Fin 8) (step : PointStep) : List Task :=
  step.told.map (fun t => .result p t.1 t.2)
    ++ match proofChange s.points[p] step.point with
      | some told => proofTasks p step.point told
      | none => []

/-- The work of a point event once its record is written, without the tasks it gives rise to. -/
def Work.pointed (s : State) (p : Fin 8) (step : PointStep) : Work :=
  (Work.begin (s.setPoint p step.point)).noting
    ((s.setPoint p step.point).recordFaults step.faults (.elem (.points p))).notes

theorem pointed_st (s : State) (p : Fin 8) (step : PointStep) :
    (Work.pointed s p step).st = (s.setPoint p step.point).recordFaults step.faults (.elem (.points p)) :=
  (recordFaults_noting _ _ _).symm

theorem takePoint_begin (s : State) (p : Fin 8) (step : PointStep) :
    (Work.begin s).takePoint p step = (Work.pointed s p step).emit (pointTasks s p step) := by
  unfold Work.takePoint pointTasks Work.pointed
  dsimp only
  rw [Work.begin_st, recordFaults_noting]
  cases proofChange s.points[p] step.point <;> rfl

/-- A point event whose tasks lead to `v'` ends there. -/
theorem pointEvent_leads {k : Nat} {v' : Work} {step : PointStep} (ready : s.ready) (made : f s = step)
    (few : k < taskBound) (leads : Leads s k (pointTasks s p step) (Work.pointed s p step) v')
    (returns : v'.returns = []) (kept : s.keep v'.st = v'.st) (left : v'.st.agenda = []) :
    ∃ u, (s.event s fun w => w.takePoint p (f w.st)) = .next u.drained ∧ Noted v'.st u := by
  have near : Near ((Work.pointed s p step).emit (pointTasks s p step)) ((Work.begin s).takePoint p (f s)) := by
    rw [made, takePoint_begin]
    exact .refl _
  exact event_leads (work := fun w => w.takePoint p (f w.st)) ready rfl near few leads returns kept left

/-- Results told to the desk alone lead nowhere: the point is placed in the report queue (R48). -/
theorem leads_desk (start : State) (p : Fin 8) (ms : List MoveResult) (v : Work) (quiet : v.out = []) :
    Leads start ms.length (ms.map fun m => .result p .desk m) v v := by
  have cleared : { v with out := [] } = v := by rw [← quiet]
  induction ms with
  | nil => exact .done
  | cons m ms ih =>
    refine .cons (v₁ := v) (fun w h => (cleared ▸ h).noted (noted_place w.st _)) ?_
    rw [cleared, quiet]
    exact ih

/-- The event of a point that tells no one but the desk leaves its record written and its faults recorded. -/
theorem pointEvent_private {step : PointStep} (ready : s.ready) (made : f s = step) (ms : List MoveResult)
    (few : ms.length < taskBound) (desk : step.told = ms.map fun m => (.desk, m))
    (silent : proofChange s.points[p] step.point = none ∨ step.point.lock = none ∧ step.point.claims = []) :
    ∃ u, (s.event s fun w => w.takePoint p (f w.st)) = .next u.drained
      ∧ Noted ((s.setPoint p step.point).recordFaults step.faults (.elem (.points p))) u := by
  have tasks : pointTasks s p step = ms.map fun m => .result p .desk m := by
    unfold pointTasks
    rw [desk, List.map_map]
    rcases silent with e | ⟨lock, claims⟩
    · rw [e]
      simp [Function.comp_def]
    · cases proofChange s.points[p] step.point <;> simp [proofTasks, lock, claims, Function.comp_def]
  rw [← pointed_st]
  exact pointEvent_leads ready made few (tasks ▸ leads_desk s p ms _ rfl) rfl rfl ready.2

/-- Only its supervision's change is told where a point has no result to tell (R49). -/
theorem pointTasks_of_change {step : PointStep} {told : ProofTold} (none : step.told = [])
    (change : proofChange s.points[p] step.point = some told) : pointTasks s p step = proofTasks p step.point told := by
  rw [pointTasks, none, change]
  rfl

/-- A point event that changes no supervision tells its holders nothing (R49). -/
theorem proofChange_same {old new : PointRec} (h : new.supervision = old.supervision) : proofChange old new = none := by
  simp [proofChange, h]

theorem pointCfg_of {c : PointCfg} (named : s.cfg.points[p] = some c) : s.pointCfg p = c := by
  simp [State.pointCfg, named]

theorem equipped_of_point {c : PointCfg} (named : s.cfg.points[p] = some c) : s.equipped (.points p) = true := by
  simp [State.equipped, named]

/-! ## The current sense (R43) -/

/-- Settles O15: the sense changes no supervision and tells no one. -/
theorem currentSenseRunsTimerWhileDriving : Obligations.CurrentSenseRunsTimerWhileDriving := by
  intro p active s c sampled named
  have silent : proofChange s.points[p] (s.points[p].senseChange c active) = none := by
    refine proofChange_same ?_
    unfold PointRec.senseChange
    dsimp only
    split
    · split <;> rfl
    · split <;> rfl
    · rfl
  refine .of_noted (b := s.setPoint p (s.points[p].senseChange c active)) ?_ fun n _ => ?_
  · obtain ⟨u, done, noted⟩ := pointEvent_private (p := p)
      (f := fun s => .quiet (s.points[p].senseChange (s.pointCfg p) active)) sampled.1 (by rw [pointCfg_of named]) []
      (by decide) rfl (.inl silent)
    exact ⟨u, (if_pos ⟨sampled.2, equipped_of_point named⟩).trans done, noted⟩
  · refine ⟨rfl, rfl, ⟨rfl, rfl, rfl, rfl, rfl⟩, ?_⟩
    simp only [State.noting_points, Fin.getElem_fin, State.setPoint_get, if_true]
    unfold PointRec.senseChange
    dsimp only
    cases drive : s.points[p.val].drive
    all_goals by_cases e : active = s.points[p.val].senseActive <;> simp [e]

/-! ## Failed throws (R43 to R45) -/

/-- Where no signal and no section has changed, and no answer waits, the end of an event places subjects alone. -/
theorem conclude_places {before : State} {w : Work} (signals : w.st.signals = before.signals)
    (sections : w.st.sections = before.sections) (turned : w.turned = []) (answers : w.answers = []) :
    State.conclude before w = State.placeChanged before w.st := by
  have still {α : Type} {g : State → α → State} (same : ∀ x, g w.st x = w.st) (xs : List α) :
      xs.foldl g w.st = w.st := by
    induction xs with
    | nil => rfl
    | cons x xs ih => rw [List.foldl_cons, same, ih]
  unfold State.conclude
  dsimp only
  rw [still (g := State.notifySignal before w.turned) fun g => by
      simp [State.notifySignal, State.signalNotice, signals, turned],
    still (g := State.notifySection before) fun i => by simp [State.notifySection, sections], answers]
  rfl

theorem placeChanged_counts (before s : State) : (State.placeChanged before s).counts = s.counts :=
  foldl_same State.counts (fun t x => by split <;> simp) _ _

theorem drained_counts (s : State) : s.drained.counts = s.counts := by rw [(drained_drained s).same]

/-- A point event that tells no one and records nothing changes no count. -/
theorem pointEvent_counts (ready : s.ready) {r : PointRec} (quiet : f s = .quiet r)
    (silent : proofChange s.points[p] r = none) {t : State}
    (done : (s.event s fun w => w.takePoint p (f w.st)) = .next t) : t.counts = s.counts := by
  have begun : (Work.begin s).takePoint p (f s) = Work.begin (s.setPoint p r) := by
    rw [quiet, takePoint_begin]
    unfold pointTasks
    simp only [PointStep.quiet, silent]
    rfl
  have settled := settled_of_quiet (work := fun w : Work => w.takePoint p (f w.st)) ready.2
    (by rw [Work.begin_st, begun]; rfl) (by rw [Work.begin_st, begun]; rfl)
  rw [Work.begin_st, begun] at settled
  rw [event_of_live ready.1] at done
  cases done
  rw [drained_counts, settled, conclude_places (by rfl) (by rfl) (by rfl) (by rfl)]
  exact placeChanged_counts _ _

/-- A throw that fails with another position to return to waits in DEAD for the swing-back (R44). -/
theorem driveFails_of_throwing {c : PointCfg} {r : PointRec} {x y : Position} (drive : r.drive = .throwing x)
    (back : r.returnPosition = some y) (other : y ≠ x) :
    r.driveFails c = .quiet { r with
      drive := .dead x .swingBack, throwTimer := none, overCurrentTimer := none
      reversalLock := some (x, c.deadInterval) } := by
  simp [PointRec.driveFails, drive, back, other, PointRec.outputOff, PointRec.output]

/-- A swing-back that fails leaves the point FAILED (R45). -/
theorem driveFails_of_swingBack {c : PointCfg} {r : PointRec} {x y : Position} (drive : r.drive = .swingBack x)
    (back : r.returnPosition = some y) :
    r.driveFails c = ⟨{ r with
        drive := .failed, returnPosition := none, throwTimer := none, overCurrentTimer := none
        requesters := [], lastResult := .failed, reversalLock := some (y, c.deadInterval) },
      tellAll r.requesters .failed, [.pointNoDetection]⟩ := by
  simp [PointRec.driveFails, drive, PointRec.fail, PointRec.outputOff, PointRec.output, back]

/-- Settles O16: a failed throw tells no one, a failed swing-back the desk alone. -/
theorem failedThrowWaitsForSwingBack : Obligations.FailedThrowWaitsForSwingBack := by
  refine ⟨fun p s c x y sampled named drive back other => ?_,
    fun p s c x y sampled named drive back timer lock claims asked => ?_⟩
  · intro after
    have equipped := equipped_of_point named
    have cfg := pointCfg_of named
    have fails : s.points[p].driveFails c = .quiet after := driveFails_of_throwing drive back other
    have silent : proofChange s.points[p] after = none :=
      proofChange_same (by rw [PointRec.supervision, PointRec.supervision, drive])
    refine ⟨fun timer => ?_, fun timer => ?_⟩
    · have step : s.points[p].throwExpiry (s.pointCfg p) = .quiet after := by
        rw [cfg, PointRec.throwExpiry, if_pos timer, fails]
      obtain ⟨u, done, noted⟩ := pointEvent_private (p := p) (f := fun s => s.points[p].throwExpiry (s.pointCfg p))
        sampled.1 step [] (by decide) rfl (.inl silent)
      have ran : exec (.throwTimerExpiry p) s = .next u.drained := (if_pos ⟨sampled.2, equipped⟩).trans done
      have counts := pointEvent_counts (p := p) (f := fun s => s.points[p].throwExpiry (s.pointCfg p)) sampled.1 step
        silent done
      obtain ⟨t, same, point, rest⟩ := Completes.of_noted (c := .throwTimerExpiry p) (s := s)
        (P := fun t => t.points[p] = after ∧ t.sections = s.sections ∧ t.signals = s.signals ∧ t.sameRoutes s)
        ⟨u, ran, noted⟩ fun n _ => ⟨by simp [PointStep.quiet], rfl, rfl, rfl, rfl, rfl, rfl, rfl⟩
      cases ran.symm.trans same
      exact ⟨_, ran, point, by rw [point]; rfl, counts, rest⟩
    · have step : s.points[p].overCurrentExpiry (s.pointCfg p) = ⟨after, [], [.pointOvercurrent]⟩ := by
        rw [cfg, PointRec.overCurrentExpiry, if_pos timer, fails]
        rfl
      obtain ⟨u, done, noted⟩ := pointEvent_private (p := p)
        (f := fun s => s.points[p].overCurrentExpiry (s.pointCfg p))
        sampled.1 step [] (by decide) rfl (.inl silent)
      refine .of_noted ⟨u, (if_pos ⟨sampled.2, equipped⟩).trans done, noted⟩ fun n notes => ?_
      have counted := notes.counts .pointOvercurrent (by decide)
      rw [recordFaults_noting]
      exact ⟨by simp, by simp [after, PointRec.output], rfl, rfl, ⟨rfl, rfl, rfl, rfl, rfl⟩,
        counted.trans (recordFault_count _ _ _ (by decide))⟩
  · have step := driveFails_of_swingBack (c := c) drive back
    have expires : s.points[p].throwExpiry (s.pointCfg p) = s.points[p].driveFails c := by
      rw [pointCfg_of named, PointRec.throwExpiry, if_pos timer]
    rw [← expires] at step
    obtain ⟨u, done, noted⟩ := pointEvent_private (p := p) (f := fun s => s.points[p].throwExpiry (s.pointCfg p))
      sampled.1 step [.failed] (by decide) (by rw [asked]; rfl) (.inr ⟨lock, claims⟩)
    refine .of_noted ⟨u, (if_pos ⟨sampled.2, equipped_of_point named⟩).trans done, noted⟩ fun n notes => ?_
    have counted := notes.counts .pointNoDetection (by decide)
    rw [recordFaults_noting]
    exact ⟨by simp, by simp [PointRec.supervision], by simp [PointRec.output], rfl, rfl, ⟨rfl, rfl, rfl, rfl, rfl⟩,
      counted.trans (recordFault_count _ _ _ (by decide))⟩

/-! ## The reversal lock (R38, R41) -/

/-- The reversal lock expires in no step that tells anyone, unless the point is then detected where it goes. -/
theorem reversal_completes {s : State} {p : Fin 8} {r : PointRec} (sampled : s.sampled)
    (equipped : s.equipped (.points p) = true)
    (step : s.points[p].reversalExpiry (s.pointCfg p) (s.pointOccupied p) = .quiet r)
    (silent : r.supervision = s.points[p].supervision) :
    Completes (.reversalLockExpiry p) s fun t =>
      t.points[p] = r ∧ t.sections = s.sections ∧ t.signals = s.signals ∧ t.sameRoutes s := by
  obtain ⟨u, done, noted⟩ := pointEvent_private (p := p)
    (f := fun s => s.points[p].reversalExpiry (s.pointCfg p) (s.pointOccupied p))
    sampled.1 step [] (by decide) rfl (.inl (proofChange_same silent))
  exact .of_noted ⟨u, (if_pos ⟨sampled.2, equipped⟩).trans done, noted⟩ fun n _ =>
    ⟨by simp [PointStep.quiet], rfl, rfl, rfl, rfl, rfl, rfl, rfl⟩

/-- Settles O17: with the reversal lock clear a point in DEAD is held back by its section alone. -/
theorem reversalExpiryStartsWaitingThrow : Obligations.ReversalExpiryStartsWaitingThrow := by
  intro p s c sampled named runs
  have cfg := pointCfg_of named
  have occupied : s.pointOccupied p = s.sections[c.track].occupied := by simp only [State.pointOccupied, cfg]
  have completes {r : PointRec} := reversal_completes (r := r) sampled (equipped_of_point named)
  have expires : s.points[p].reversalExpiry (s.pointCfg p) (s.pointOccupied p)
      = { s.points[p] with reversalLock := none }.deadTest c s.sections[c.track].occupied := by
    rw [PointRec.reversalExpiry, if_pos runs, cfg, occupied]
  refine ⟨fun x drive away => ?_, fun x y drive back target away => ?_, fun elsewhere => ?_⟩
  · have step : s.points[p].reversalExpiry (s.pointCfg p) (s.pointOccupied p) = .quiet
        (if s.sections[c.track].occupied then { s.points[p] with reversalLock := none }
        else { s.points[p] with
          reversalLock := none, drive := .throwing x, throwTimer := some c.throwTime
          overCurrentTimer := if s.points[p].senseActive then some c.overCurrentTime else none }) := by
      rw [expires]
      unfold PointRec.detection at away
      unfold PointRec.deadTest
      simp only [drive, PointRec.detection, if_neg away, PointRec.lockedToward]
      cases s.sections[c.track].occupied <;> rfl
    obtain ⟨t, done, point, sections, signals, routes⟩ := completes step (by
      split <;> simp only [PointRec.supervision, drive])
    exact ⟨t, done, sections, signals, routes, point⟩
  · have step : s.points[p].reversalExpiry (s.pointCfg p) (s.pointOccupied p) = .quiet
        (if s.sections[c.track].occupied then { s.points[p] with reversalLock := none }
        else { s.points[p] with
          reversalLock := none, drive := .swingBack x, throwTimer := some c.throwTime
          overCurrentTimer := if s.points[p].senseActive then some c.overCurrentTime else none }) := by
      rw [expires]
      unfold PointRec.detection at target away
      unfold PointRec.deadTest
      simp only [drive, back, PointRec.detection, if_neg target, if_neg away, PointRec.lockedToward]
      cases s.sections[c.track].occupied <;> rfl
    obtain ⟨t, done, point, sections, signals, routes⟩ := completes step (by
      split <;> simp only [PointRec.supervision, drive])
    exact ⟨t, done, sections, signals, routes, point⟩
  · refine completes ?_ rfl
    rw [expires]
    unfold PointRec.deadTest
    split
    · next drive => exact absurd drive (elsewhere _ _)
    · rfl

/-! ## What the route of a point does (R57, R105, R108) -/

/-- The route instance that a route number finds runs under that number. -/
theorem instanceOf_get {s : State} {route : Nat} {g : Fin 8} {i : RouteInst} (h : s.instanceOf route = some (g, i)) :
    s.instances[g] = some i ∧ i.route = route := by
  obtain ⟨k, -, found⟩ := List.exists_of_findSome?_eq_some h
  split at found
  · next j running =>
    split at found
    · next named =>
      cases found
      exact ⟨running, named⟩
    · cases found
  · cases found

/-- What reaches a route that is not ENTERED is not reported (R117). -/
theorem reportRoute_of_not_entered {w : Work} {route : Nat} {g : Fin 8} {i : RouteInst}
    (found : w.st.instanceOf route = some (g, i)) (early : i.state ≠ .entered) : w.reportRoute route = w := by
  unfold Work.reportRoute Work.reportEntered
  rw [found]
  simp [(instanceOf_get found).1, early]

@[simp] theorem setSignal_setSignal (s : State) (g : Fin 8) (r r' : SignalRec) :
    (s.setSignal g r).setSignal g r' = s.setSignal g r' := by
  simp [State.setSignal]

/-- An aspect commanded whose lamp does not prove at once (R54). -/
theorem setAspect_awaits {w : Work} {g : Fin 8} {a : Aspect} (dark : w.st.signals[g].input a = false) :
    w.setAspect g a = w.on (·.setSignal g { w.st.signals[g] with
      aspect := a
      stopLamp := if a = .stop then .awaiting else .dark
      proceedLamp := if a = .proceed then .awaiting else .dark
      provingTimer := some (w.st.signalCfg g).provingTime }) := by
  unfold Work.setAspect
  dsimp only
  rw [if_neg]
  cases a <;> simpa [SignalRec.input] using dark

/-- A signal returned to STOP whose STOP lamp has still to prove (R54, R59). -/
def SignalRec.replaced (c : SignalCfg) (r : SignalRec) : SignalRec :=
  { r with
    aspect := .stop, stopLamp := .awaiting, proceedLamp := .dark, provingTimer := some c.provingTime
    clearingRoute := none }

/-- A signal at PROCEED is replaced; with its STOP lamp not proving it waits for the lamp (R54, R59). -/
theorem replaceSignal_awaits {w : Work} {g : Fin 8} (proceed : w.st.signals[g].aspect = .proceed)
    (dark : w.st.signals[g].stopInput = false) :
    w.replaceSignal g = (w.turn g).on (·.setSignal g (w.st.signals[g].replaced (w.st.signalCfg g))) := by
  unfold Work.replaceSignal
  dsimp only
  rw [if_pos proceed, setAspect_awaits (by simpa [SignalRec.input] using dark)]
  simp [Work.on, SignalRec.replaced, State.signalCfg]

/-- A signal cleared whose PROCEED lamp has still to prove (R54, R57). -/
def SignalRec.clearing (c : SignalCfg) (ref : RouteRef) (r : SignalRec) : SignalRec :=
  { r with
    aspect := .proceed, stopLamp := .dark, proceedLamp := .awaiting, provingTimer := some c.provingTime
    clearingRoute := some ref }

theorem clearSignal_awaits {w : Work} {g : Fin 8} {ref : RouteRef} (dark : w.st.signals[g].proceedInput = false) :
    w.clearSignal g ref = (w.turn g).on (·.setSignal g (w.st.signals[g].clearing (w.st.signalCfg g) ref)) := by
  unfold Work.clearSignal
  rw [setAspect_awaits (by simpa [SignalRec.input] using dark)]
  simp [Work.on, SignalRec.clearing, State.signalCfg]

/-! ## Detection lost at REST (R47, R49) -/

/-- The faults of a point at REST that loses its commanded position: a change into CONFLICT before the loss (log
entry 30). -/
def lossFaults (d : Detection) : List FaultKind :=
  (if d = .conflict then [.pointDetectionConflict] else []) ++ [.pointDetectionLost]

theorem supervision_at_rest {r : PointRec} {x : Position} (drive : r.drive = .rest) (commanded : r.commanded = some x) :
    r.supervision = if r.detected = some x then .proven else .unproven := by
  simp only [PointRec.supervision, drive, commanded, Option.isSome_some, Bool.true_and, beq_iff_eq]
  simp only [eq_comm]

/-- At REST a point that is no longer detected where it is commanded keeps drive and position (R47). -/
theorem detect_lost {c : PointCfg} {occupied contactN contactR : Bool} {r : PointRec} {x : Position}
    (drive : r.drive = .rest) (commanded : r.commanded = some x) (detected : r.detected = some x)
    (away : (detectionOf contactN contactR).position ≠ some x) :
    r.detect c occupied contactN contactR
      = ⟨{ r with contactN := contactN, contactR := contactR }, [], lossFaults (detectionOf contactN contactR)⟩ := by
  have changed : detectionOf contactN contactR ≠ r.detection := by
    rintro same
    rw [same] at away
    exact away detected
  unfold PointRec.detect PointRec.detectedAtRest
  simp only [drive, commanded, PointRec.detected, PointRec.detection] at detected changed ⊢
  rw [if_neg changed, detected, if_pos (by simpa using away)]
  rfl

/-- The loss of detection is counted once (R47). -/
theorem lossFaults_count (s : State) (x : Subject) (d : Detection) :
    (s.recordFaults (lossFaults d) x).counts[faultIndex .pointDetectionLost]
      = min 255 (s.counts[faultIndex .pointDetectionLost] + 1) := by
  unfold lossFaults
  split
  · show ((s.recordFault .pointDetectionConflict x).recordFault .pointDetectionLost x).counts[_] = _
    rw [recordFault_count _ _ _ (by decide), recordFault_count_other _ _ _ (by decide) (by decide)]
  · exact recordFault_count _ _ _ (by decide)

/-- At most one ALERT is sent for the faults of a loss, since the first leaves the alert disarmed (R184). -/
theorem lossFaults_sent (s : State) (x : Subject) (d : Detection) :
    ∃ more, (s.recordFaults (lossFaults d) x).sendQueue = s.sendQueue ++ more ∧ more.length ≤ 1 := by
  have one (s : State) (k : FaultKind) : ∃ more, (s.recordFault k x).sendQueue = s.sendQueue ++ more
      ∧ more.length ≤ (if s.alertArmed then 1 else 0) ∧ (s.recordFault k x).alertArmed = false := by
    have placed (t : State) (y : Subject) : (t.place y).sendQueue = t.sendQueue ∧ (t.place y).alertArmed = t.alertArmed := by
      unfold State.place
      split <;> exact ⟨rfl, rfl⟩
    unfold State.recordFault
    dsimp only
    split
    · next armed =>
      have armed : s.alertArmed = true := armed
      unfold State.sendAlert
      dsimp only
      split
      · simp [State.enqueue, placed, armed, State.countFault]
      · exact ⟨[], by simp [State.countFault, placed]⟩
    · next disarmed => exact ⟨[], by simpa [State.countFault] using disarmed⟩
  unfold lossFaults
  split
  · obtain ⟨more, sent, -, disarmed⟩ := one s .pointDetectionConflict
    obtain ⟨more', sent', few, -⟩ := one (s.recordFault .pointDetectionConflict x) .pointDetectionLost
    rw [disarmed] at few
    obtain rfl : more' = [] := by simpa using few
    refine ⟨more, ?_, by
      obtain ⟨_, e, few, -⟩ := one s .pointDetectionConflict
      rw [sent] at e
      obtain rfl := List.append_cancel_left e
      split at few <;> omega⟩
    show ((s.recordFault .pointDetectionConflict x).recordFault .pointDetectionLost x).sendQueue = _
    rw [sent', sent, List.append_nil]
  · obtain ⟨more, sent, few, -⟩ := one s .pointDetectionLost
    exact ⟨more, sent, by split at few <;> omega⟩

/-- An OPEN route told that a point of its has lost its detection is HELD, and its signal replaced (R49, R108). -/
theorem leads_lossToRoute {b : State} {n : Notes} (start : State) {p : Fin 8} {reason : LapseReason} {route : Nat}
    {g : Fin 8} {i : RouteInst} (found : b.instanceOf route = some (g, i)) (isOpen : i.state = .open)
    (proceed : b.signals[g].aspect = .proceed) (dark : b.signals[g].stopInput = false) :
    Leads start 1 [.proofToHolder p (b.ownRef route) (.lost reason)] ((Work.begin b).noting n)
      ((((Work.begin b).turn g).on fun s => (s.setSignal g (b.signals[g].replaced (b.signalCfg g))).setInstance g
        (some { i with state := .held })).noting n) := by
  obtain ⟨running, -⟩ := instanceOf_get found
  refine .exact (b₁ := ((Work.begin b).turn g).on fun s =>
    (s.setSignal g (b.signals[g].replaced (b.signalCfg g))).setInstance g (some { i with state := .held })) rfl
    (fun m => ?_) .done
  show ((Work.begin b).noting m).tellHolderProof _ _ = _
  unfold Work.tellHolderProof
  have own : (b.ownRef route).station = ((Work.begin b).noting m).st.own := rfl
  have seen : ((Work.begin b).noting m).st.instanceOf route = some (g, i) := found
  rw [if_pos own]
  simp only [State.ownRef, reportRoute_of_not_entered seen (by simp [isOpen]), seen]
  unfold Work.loseProof
  have there : ((Work.begin b).noting m).st.instances[g] = some i := running
  rw [there]
  dsimp only
  rw [if_pos isOpen, replaceSignal_awaits (by exact proceed) (by exact dark)]
  simp only [Work.on, Work.turn, State.changeInstance, State.setSignal_instances]
  rw [show ((Work.begin b).noting m).st.instances[g] = some i from running]
  rfl

/-- A loss of detection in the commanded position is told to the holders (R49). -/
theorem proofChange_of_loss {old new : PointRec} {x : Position} (drive : old.drive = .rest)
    (commanded : old.commanded = some x) (detected : old.detected = some x) (same : new.drive = old.drive)
    (still : new.commanded = old.commanded) (away : new.detected ≠ some x) :
    proofChange old new = some (.lost .detection) := by
  have was : old.supervision = .proven := by rw [supervision_at_rest drive commanded, if_pos detected]
  have now : new.supervision = .unproven := by
    rw [supervision_at_rest (same.trans drive) (still.trans commanded), if_neg away]
  simp [proofChange, was, now, same, drive]

theorem proofTasks_of_lock {r : PointRec} {l : RouteLock} {told : ProofTold} (lock : r.lock = some l)
    (claims : r.claims = []) : proofTasks p r told = [.proofToHolder p l.ref told] := by
  simp [proofTasks, lock, claims]

theorem proofTasks_of_claim {r : PointRec} {c : ClaimEntry} {told : ProofTold} (lock : r.lock = none)
    (claims : r.claims = [c]) : proofTasks p r told = [.proofToClaimant p c.claimant told] := by
  simp [proofTasks, lock, claims]

/-- The work of an event with one task that gives rise to none. -/
theorem settled_of_task {start : State} {work : Work → Work} {x : Task} {v : Work} (none : start.agenda = [])
    (out : (work (Work.begin start)).out = [x])
    (taken : ({ (work (Work.begin start)).on (State.placeChanged start) with out := [] } : Work).take x = v)
    (quiet : v.out = []) (returns : v.returns = []) :
    start.settled work = v.on fun s => start.keep { s with agenda := [] } := by
  unfold State.settled
  dsimp only
  rw [none, out, List.nil_append, taskBound, settle_cons]
  dsimp only
  rw [taken, quiet, List.append_nil, settle_nil, returnFlank_of_nil returns]

theorem placeChanged_same (before s : State) :
    State.placeChanged before s = { s with reports := (State.placeChanged before s).reports } := by
  refine List.foldlRecOn (motive := fun t : State => t = { s with reports := t.reports }) allSubjects _ rfl fun t e x _ => ?_
  split
  · exact e
  · unfold State.place
    split
    · rw [e]
    · exact e

@[simp] theorem placeChanged_points (before s : State) : (State.placeChanged before s).points = s.points := by
  rw [placeChanged_same]
@[simp] theorem placeChanged_sections (before s : State) : (State.placeChanged before s).sections = s.sections := by
  rw [placeChanged_same]
@[simp] theorem placeChanged_signals (before s : State) : (State.placeChanged before s).signals = s.signals := by
  rw [placeChanged_same]
@[simp] theorem placeChanged_instances (before s : State) : (State.placeChanged before s).instances = s.instances := by
  rw [placeChanged_same]
@[simp] theorem placeChanged_sendQueue (before s : State) : (State.placeChanged before s).sendQueue = s.sendQueue := by
  rw [placeChanged_same]

/-- A LAPSE of a claimed element whose mark is PROVEN is sent where the send queue has room (R149). -/
theorem lapseClaim_posts {w : Work} {ref : RouteRef} {e : Elem} {reason : LapseReason} {r : RegisterEntry}
    {c : ClaimedElem} (active : w.st.activeClaims ref = some r) (listed : r.elems.find? (·.elem == e) = some c)
    (proven : c.mark = .proven) (first : w.said = []) (room : w.st.room 0 = true) :
    w.lapseClaim ref e reason = { w with
      said := [(ref, some e)]
      st := (w.st.changeClaimed ref e fun c => { c with mark := .lapsed }).enqueue
        ⟨ref.station, .lapse c.tag ref (some (elemNumber e)) reason⟩ } := by
  unfold Work.lapseClaim
  have named : ((w.st.activeClaims ref).bind fun r => r.elems.find? (·.elem == e)) = some c := by
    rw [active, Option.bind_some, listed]
  rw [named]
  dsimp only
  rw [first, if_pos (by simp [proven]), Work.postProof, if_pos (by exact room)]
  rfl

/-- A point that loses its detection under the lock of an OPEN route has the route HELD (R49, R108). -/
theorem lossToRoute_holds {r : PointRec} {d : Detection} {l : RouteLock} {g : Fin 8} {i : RouteInst} (ready : s.ready)
    (made : f s = ⟨r, [], lossFaults d⟩) (told : proofChange s.points[p] r = some (.lost .detection))
    (lock : r.lock = some l) (claims : r.claims = []) (ref : l.ref = s.ownRef i.route)
    (found : s.instanceOf i.route = some (g, i)) (isOpen : i.state = .open) (proceed : s.signals[g].aspect = .proceed)
    (dark : s.signals[g].stopInput = false) :
    ∃ u, (s.event s fun w => w.takePoint p (f w.st)) = .next u.drained ∧ ∃ n, Noted ((((s.setPoint p r).setSignal g
      (s.signals[g].replaced (s.signalCfg g))).setInstance g (some { i with state := .held })).noting n) u := by
  have tasks := (pointTasks_of_change (step := ⟨r, [], lossFaults d⟩) rfl told).trans (proofTasks_of_lock lock claims)
  have leads := leads_lossToRoute s (b := s.setPoint p r) (p := p) (reason := .detection)
    (n := ((s.setPoint p r).recordFaults (lossFaults d) (.elem (.points p))).notes) found isOpen proceed dark
  have ref : l.ref = (s.setPoint p r).ownRef i.route := ref
  rw [← ref, ← tasks] at leads
  obtain ⟨u, done, noted⟩ := pointEvent_leads ready made (by decide) leads rfl rfl ready.2
  exact ⟨u, done, _, noted⟩

/-- A point that loses its detection under a claim of another station sends it LAPSE, behind what its faults send
(R149). -/
theorem lossToClaimant_sends {r : PointRec} {d : Detection} {c : ClaimEntry} {entry : RegisterEntry} {e : ClaimedElem}
    (ready : s.ready) (made : f s = ⟨r, [], lossFaults d⟩)
    (told : proofChange s.points[p] r = some (.lost .detection)) (lock : r.lock = none) (claims : r.claims = [c])
    (foreign : c.claimant.station ≠ s.own) (active : s.activeClaims c.claimant = some entry)
    (listed : entry.elems.find? (·.elem == .points p) = some e) (proven : e.mark = .proven)
    (room : s.sendQueue.length + 2 ≤ 32) :
    ∃ u : State, (s.event s fun w => w.takePoint p (f w.st)) = .next u.drained ∧ u.points[p] = r ∧ u.sections = s.sections
      ∧ u.signals = s.signals ∧ u.instances = s.instances
      ∧ ∃ between, u.sendQueue = s.sendQueue ++ between
          ++ [placed c.claimant.station (.lapse e.tag c.claimant (some (16 + p.val)) .detection)] := by
  have tasks := (pointTasks_of_change (step := ⟨r, [], lossFaults d⟩) rfl told).trans (proofTasks_of_claim lock claims)
  have begun : (Work.begin s).takePoint p (f s) = (Work.pointed s p ⟨r, [], lossFaults d⟩).emit
      [.proofToClaimant p c.claimant (.lost .detection)] := by rw [made, takePoint_begin, tasks]
  obtain ⟨more, queue, few⟩ := lossFaults_sent (s.setPoint p r) (.elem (.points p)) d
  obtain ⟨n, reached, sent⟩ : ∃ n : Notes, State.placeChanged s (Work.pointed s p ⟨r, [], lossFaults d⟩).st
      = (s.setPoint p r).noting n ∧ n.sendQueue = s.sendQueue ++ more := by
    rw [pointed_st]
    refine ⟨(State.placeChanged s ((s.setPoint p r).recordFaults (lossFaults d) (.elem (.points p)))).notes, ?_, ?_⟩
    · exact ((reported_recordFaults _ _ _).trans (reported_placeChanged s _)).same
    · exact (congrArg State.sendQueue (placeChanged_same s _)).trans queue
  have free : ((s.setPoint p r).noting n).room 0 = true := by
    simp [State.room, requiredFree, sent]
    omega
  have taken := lapseClaim_posts (w := (Work.begin (s.setPoint p r)).noting n) (reason := .detection) active listed
    proven rfl free
  have settled := settled_of_task (work := fun w : Work => w.takePoint p (f w.st)) ready.2
    (by rw [Work.begin_st, begun]; rfl) (Eq.trans (by
      rw [Work.begin_st, begun]
      show Work.tellClaimantProof ⟨State.placeChanged s _, [], [], [], [], []⟩ p c.claimant (.lost .detection)
        = ((Work.begin (s.setPoint p r)).noting n).lapseClaim c.claimant (.points p) .detection
      rw [Work.emit_st, reached]
      unfold Work.tellClaimantProof
      exact if_neg foreign) taken) rfl rfl
  have kept : s.keep { ((s.setPoint p r).noting n) with agenda := [] } = (s.setPoint p r).noting n := by
    unfold State.keep State.noting
    rw [← ready.2]
    rfl
  have st : (s.settled fun w => w.takePoint p (f w.st)).st = (((s.setPoint p r).noting n).changeClaimed c.claimant
      (.points p) fun c => { c with mark := .lapsed }).enqueue
        ⟨c.claimant.station, .lapse e.tag c.claimant (some (16 + p.val)) .detection⟩ := by
    rw [settled]
    exact congrArg (fun t : State => (t.changeClaimed c.claimant (.points p) fun c => { c with mark := .lapsed }).enqueue
      ⟨c.claimant.station, .lapse e.tag c.claimant (some (16 + p.val)) .detection⟩) kept
  have ends := event_of_live (before := s) (start := s) (work := fun w => w.takePoint p (f w.st)) ready.1
  refine ⟨_, ends, ?_⟩
  rw [conclude_places (by rw [st]; rfl) (by rw [st]; rfl) (by rw [settled]; rfl) (by rw [settled]; rfl), st,
    placeChanged_points, placeChanged_sections, placeChanged_signals, placeChanged_instances, placeChanged_sendQueue]
  refine ⟨by simp [State.enqueue, State.changeClaimed, State.changeRegister], rfl, rfl, rfl, more, ?_⟩
  show n.sendQueue ++ _ = _
  rw [sent]
  rfl

theorem detectionChange_runs {contactN contactR : Bool} (sampled : s.sampled) (equipped : s.equipped (.points p) = true) :
    exec (.detectionChange p contactN contactR) s = s.event s fun w =>
      w.takePoint p (w.st.points[p].detect (w.st.pointCfg p) (w.st.pointOccupied p) contactN contactR) :=
  if_pos ⟨sampled.2, equipped⟩

/-- Settles O13: no one to tell; the route that locks the point, which loses its proof; the station that claims it,
which is sent LAPSE. -/
theorem lostDetectionUnprovesPoint : Obligations.LostDetectionUnprovesPoint := by
  refine ⟨fun p contactN contactR s x sampled equipped drive commanded detected lock claims away => ?_,
    fun p contactN contactR s x sampled equipped drive commanded detected away => ?_⟩
  · have step := detect_lost (c := s.pointCfg p) (occupied := s.pointOccupied p) drive commanded detected away
    obtain ⟨u, done, noted⟩ := pointEvent_private (p := p)
      (f := fun s => s.points[p].detect (s.pointCfg p) (s.pointOccupied p) contactN contactR) sampled.1 step []
      (by decide) rfl (.inr ⟨lock, claims⟩)
    refine .of_noted ⟨u, (detectionChange_runs sampled equipped).trans done, noted⟩ fun n notes => ?_
    have counted := (notes.counts .pointDetectionLost (by decide)).trans (lossFaults_count _ _ _)
    rw [recordFaults_noting]
    refine ⟨by simp, ?_, rfl, rfl, ⟨rfl, rfl, rfl, rfl, rfl⟩, counted⟩
    simp only [State.noting_points, Fin.getElem_fin, State.setPoint_get, if_true]
    exact (supervision_at_rest (by exact drive) (by exact commanded)).trans (if_neg away)
  have step := detect_lost (c := s.pointCfg p) (occupied := s.pointOccupied p) drive commanded detected away
  have told : proofChange s.points[p] { s.points[p] with contactN := contactN, contactR := contactR }
      = some (.lost .detection) := proofChange_of_loss drive commanded detected rfl rfl away
  refine ⟨fun l g i lock claims ref found isOpen proceed dark => ?_,
    fun c r e lock claims foreign active listed proven room => ?_⟩
  · obtain ⟨u, done, n, noted⟩ := lossToRoute_holds (p := p)
      (f := fun s => s.points[p].detect (s.pointCfg p) (s.pointOccupied p) contactN contactR) sampled.1 step told lock
      claims ref found isOpen proceed dark
    refine .of_noted ⟨u, (detectionChange_runs sampled equipped).trans done, noted⟩ fun m _ => ?_
    refine ⟨by simp, rfl, by simp, ?_⟩
    simp [SignalRec.replaced]
  · obtain ⟨u, done, point, same⟩ := lossToClaimant_sends (p := p)
      (f := fun s => s.points[p].detect (s.pointCfg p) (s.pointOccupied p) contactN contactR) sampled.1 step told lock
      claims foreign active listed proven room
    exact ⟨u, (detectionChange_runs sampled equipped).trans done, point, same⟩

/-! ## A throw that completes (R42, R48, R49) -/

/-- Detection of the drive target completes a throw (R42). -/
theorem detect_completes {c : PointCfg} {occupied contactN contactR : Bool} {r : PointRec} {x : Position}
    (drive : r.drive = .throwing x) (before : r.detection ≠ .at x) (now : detectionOf contactN contactR = .at x) :
    r.detect c occupied contactN contactR = ⟨{ r with
        contactN := contactN, contactR := contactR, drive := .rest, returnPosition := none, throwTimer := none
        overCurrentTimer := none, requesters := [], lastResult := .achieved, reversalLock := some (x, c.deadInterval) },
      tellAll r.requesters .achieved, []⟩ := by
  unfold PointRec.detect
  dsimp only
  rw [PointRec.detection, PointRec.detection, now, if_neg (by simpa [PointRec.detection] using Ne.symm before)]
  simp [drive, PointRec.complete, PointRec.outputOff, PointRec.output]

/-- The route that has its point ACHIEVED and proven assesses its proof, which is then complete: it asks for PROCEED
(R49, R57, R105). -/
theorem leads_achieved {b : State} {n : Notes} (start : State) {p : Fin 8} {g : Fin 8} {i : RouteInst} {r : RouteRecord}
    (found : b.instanceOf i.route = some (g, i)) (running : b.running g = some (i, r)) (state : i.state = .positioning)
    (before : i.inStep = false) (complete : b.firstMissing g i r = none)
    (admitted : b.clearRefusal g (b.ownRef i.route) = none) (dark : b.signals[g].proceedInput = false) :
    Leads start 3 [.result p (.holder (b.ownRef i.route)) .achieved, .proofToHolder p (b.ownRef i.route) .regained]
      ((Work.begin b).noting n)
      ((((Work.begin b).turn g).on fun s => (s.setInstance g (some { i with inStep := true })).setSignal g
        (b.signals[g].clearing (b.signalCfg g) (b.ownRef i.route))).noting n) := by
  obtain ⟨there, -⟩ := instanceOf_get found
  have early : i.state ≠ .entered := by simp [state]
  have seen (m : Notes) : ((Work.begin b).noting m).st.instanceOf i.route = some (g, i) := found
  refine .exact (b₁ := Work.begin b) rfl (fun m => ?_)
    (.exact (b₁ := (Work.begin b).emit [.assess g]) rfl (fun m => ?_) ?_)
  · show ((Work.begin b).noting m).tellHolder p (b.ownRef i.route) .achieved = _
    unfold Work.tellHolder
    rw [if_pos (by rfl)]
    simp only [State.ownRef, reportRoute_of_not_entered (seen m) early, seen m]
    split <;> rfl
  · show ((Work.begin b).noting m).tellHolderProof (b.ownRef i.route) .regained = _
    unfold Work.tellHolderProof
    rw [if_pos (by rfl)]
    simp only [State.ownRef, reportRoute_of_not_entered (seen m) early, seen m]
    rfl
  · refine .exact (b := Work.begin b) (b₁ := ((Work.begin b).turn g).on fun s =>
      (s.setInstance g (some { i with inStep := true })).setSignal g
        (b.signals[g].clearing (b.signalCfg g) (b.ownRef i.route))) rfl (fun m => ?_) .done
    show ((Work.begin b).noting m).assess g = _
    unfold Work.assess
    rw [show ((Work.begin b).noting m).st.running g = some (i, r) from running]
    dsimp only
    rw [if_pos ⟨state, by simp [before], by exact complete⟩,
      show ((Work.begin b).noting m).st.clearRefusal g (((Work.begin b).noting m).st.ownRef i.route) = none from admitted]
    dsimp only
    rw [Work.stepIntoOpen, clearSignal_awaits (by exact dark)]
    simp only [Work.on, Work.turn, State.changeInstance]
    rw [show ((Work.begin b).noting m).st.instances[g] = some i from there]
    rfl

/-- The commanded position is detected as the throw ends: the point becomes PROVEN (R49). -/
theorem proofChange_of_arrival {old new : PointRec} {x : Position} (drive : old.drive = .throwing x)
    (rest : new.drive = .rest) (commanded : new.commanded = some x) (now : new.detection = .at x) :
    proofChange old new = some .regained := by
  have before : old.supervision ≠ .proven := by simp [PointRec.supervision, drive]
  have after : new.supervision = .proven := by
    rw [supervision_at_rest rest commanded, if_pos (by simp [PointRec.detected, now, Detection.position])]
  simp [proofChange, before.symm, after]

/-- Settles O14: the point's desk, and the route that called it, which then asks for PROCEED. -/
theorem detectionCompletesThrow : Obligations.DetectionCompletesThrow := by
  intro p contactN contactR s c x sampled named drive claims before now after
  have step : s.points[p].detect (s.pointCfg p) (s.pointOccupied p) contactN contactR
      = ⟨after, tellAll s.points[p].requesters .achieved, []⟩ := by
    rw [pointCfg_of named]
    exact detect_completes drive before now
  have runs := detectionChange_runs (contactN := contactN) (contactR := contactR) sampled (equipped_of_point named)
  refine ⟨fun lock requesters => ?_, fun l g i r lock requesters commanded ref found running state early complete
    admitted dark => ?_⟩
  · obtain ⟨u, done, noted⟩ := pointEvent_private (p := p)
      (f := fun s => s.points[p].detect (s.pointCfg p) (s.pointOccupied p) contactN contactR) sampled.1 step
      [.achieved] (by decide) (by rw [requesters]; rfl) (.inr ⟨lock, claims⟩)
    refine .of_noted ⟨u, runs.trans done, noted⟩ fun n _ => ?_
    rw [recordFaults_noting]
    refine ⟨by simp, by simp [PointRec.output], rfl, rfl, ⟨rfl, rfl, rfl, rfl, rfl⟩, rfl⟩
  · have told : proofChange s.points[p] after = some .regained :=
      proofChange_of_arrival (x := x) drive rfl commanded now
    have leads := leads_achieved s (b := s.setPoint p after) (p := p)
      (n := ((s.setPoint p after).recordFaults [] (.elem (.points p))).notes) found running state early complete
      (by rw [← show l.ref = (s.setPoint p after).ownRef i.route from ref]; exact admitted) dark
    have tasks : pointTasks s p ⟨after, tellAll s.points[p].requesters .achieved, []⟩
        = [.result p (.holder ((s.setPoint p after).ownRef i.route)) .achieved,
          .proofToHolder p ((s.setPoint p after).ownRef i.route) .regained] := by
      rw [← show l.ref = (s.setPoint p after).ownRef i.route from ref, pointTasks, told, requesters]
      dsimp only
      rw [proofTasks_of_lock (r := after) lock claims]
      rfl
    rw [← tasks] at leads
    obtain ⟨u, done, noted⟩ := pointEvent_leads (p := p)
      (f := fun s => s.points[p].detect (s.pointCfg p) (s.pointOccupied p) contactN contactR) sampled.1
      step (by decide) leads rfl rfl sampled.1.2
    refine .of_noted ⟨u, runs.trans done, noted⟩ fun n _ => ?_
    dsimp only [Work.noting_st, Work.on, Work.turn, Work.begin_st, State.noting_noting]
    refine ⟨by simp, by simp, by simp, by simp, ?_⟩
    simp only [SignalRec.clearing, ref, State.noting_signals, State.setSignal_get, Fin.getElem_fin, if_true, true_and]
    rfl

end

end Sys2Proof.Machine
end

section
/-! PROOFS. The rows of telegrams, and events without tasks. A telegram row that has its telegram pass the checks is an
event of its owner, on the state without the telegram and with the peer's last request kept (`State.handed`). An event
without tasks ends in its work, but for notes (`event_within`); where it changes no signal and no section, only subjects
are placed (`event_places`). The obligations on desk commands that give rise to no tasks stand here. -/

namespace Sys2Proof.Machine

section
variable {s t b : State}

/-! ## What an event keeps -/

@[simp] theorem keep_noting (u s : State) (n : Notes) : u.keep (s.noting n) = (u.keep s).noting n := rfl
@[simp] theorem keep_setSection (u s : State) (i : Fin 16) (r : SectionRec) :
    u.keep (s.setSection i r) = (u.keep s).setSection i r := rfl
@[simp] theorem keep_setPoint (u s : State) (p : Fin 8) (r : PointRec) :
    u.keep (s.setPoint p r) = (u.keep s).setPoint p r := rfl
@[simp] theorem keep_setSignal (u s : State) (g : Fin 8) (r : SignalRec) :
    u.keep (s.setSignal g r) = (u.keep s).setSignal g r := rfl
@[simp] theorem keep_setBoundary (u s : State) (b : Fin 4) (r : BoundaryRec) :
    u.keep (s.setBoundary b r) = (u.keep s).setBoundary b r := rfl
@[simp] theorem keep_setInstance (u s : State) (g : Fin 8) (i : Option RouteInst) :
    u.keep (s.setInstance g i) = (u.keep s).setInstance g i := rfl

/-! ## Events without tasks -/

theorem Near.of_eq {v w : Work} (h : w = v) : Near v w := h ▸ .refl w

/-- An event without tasks ends in what its work has made of the state, but for notes. -/
theorem event_within {before start b : State} {work : Work → Work} (ready : before.ready)
    (begun : start.agenda = before.agenda) (near : Near (Work.begin b) (work (Work.begin start)))
    (kept : start.keep b = b) (left : b.agenda = []) :
    ∃ u, before.event start work = .next u.drained ∧ Noted b u :=
  event_leads (k := 0) ready begun near (by decide) .done rfl kept left

/-- An event without tasks that changes no signal and no section places subjects alone. -/
theorem event_places {before start b : State} {work : Work → Work} (ready : before.ready)
    (begun : start.agenda = before.agenda) (work_eq : work (Work.begin start) = Work.begin b)
    (kept : start.keep b = b) (left : b.agenda = []) (signals : b.signals = before.signals)
    (sections : b.sections = before.sections) :
    before.event start work = .next (State.placeChanged before b).drained := by
  have settled := settled_of_quiet (begun.trans ready.2) (congrArg Work.out work_eq) (congrArg Work.returns work_eq)
  have st : (start.settled work).st = b := by
    rw [settled, work_eq]
    show start.keep { b with agenda := [] } = b
    rw [← left]
    exact kept
  rw [event_of_live ready.1, conclude_places (by rw [st, signals]) (by rw [st, sections])
    (by rw [settled, work_eq]; rfl) (by rw [settled, work_eq]; rfl), st]

/-- An event without tasks after which nothing is shown to have changed. -/
theorem event_unshown {before start b : State} {work : Work → Work} (ready : before.ready)
    (begun : start.agenda = before.agenda) (work_eq : work (Work.begin start) = Work.begin b)
    (kept : start.keep b = b) (left : b.agenda = before.agenda) (shows : ShowsSame before b) :
    before.event start work = .next b.drained := by
  have done := event_of_showsSame ready begun (congrArg Work.out work_eq) (congrArg Work.returns work_eq)
    (congrArg Work.turned work_eq) (congrArg Work.answers work_eq)
  rw [work_eq] at done
  exact done kept (left.trans begun.symm) shows

/-- The end of such an event, where the statement does not look at the report queue. -/
theorem CompletesDraining.of_placed {c : Instr} {P : State → Prop}
    (done : exec c s = .next (State.placeChanged s b).drained) (h : ∀ rs, P { b with reports := rs }) :
    CompletesDraining c s P :=
  ⟨_, done, by rw [placeChanged_same]; exact h _⟩

/-! ## Rows of telegrams -/

/-- The state once the last request of a telegram's source is kept. -/
def State.handed (s : State) (x : RawTelegram) : State := { s with peers := (s.keepRequest x).peers }

theorem keepRequest_eq (s : State) (x : RawTelegram) : s.keepRequest x = s.handed x := by
  unfold State.handed State.keepRequest
  split <;> rfl

theorem changePeer_peer (s : State) (a n : Nat) {f : PeerEntry → PeerEntry} (same : ∀ p, (f p).address = p.address) :
    (s.changePeer a f).peer n = (s.peer n).map fun p => if p.address = a then f p else p := by
  unfold State.peer State.changePeer
  rw [List.find?_map]
  congr 2
  funext p
  dsimp only [Function.comp]
  split
  · rw [same]
  · rfl

/-- What is kept of a telegram does not change who is PRESENT. -/
theorem handed_isPresent (s : State) (x : RawTelegram) (a : Nat) : (s.handed x).isPresent a = s.isPresent a := by
  rw [← keepRequest_eq, State.keepRequest]
  split
  · unfold State.isPresent
    rw [changePeer_peer s x.source a
      (f := fun p => { p with lastRequest := some (tagOf x.bytes, x.kind) }) fun _ => rfl]
    cases s.peer a with
    | none => rfl
    | some p =>
      dsimp only [Option.map]
      split <;> rfl
  · rfl

/-- The state on which the owner of a telegram row begins. -/
def State.taking (s : State) (x : RawTelegram) (rest : List RawTelegram) : State :=
  ({ s with recvQueue := rest } : State).handed x

@[simp] theorem State.taking_pending (s : State) (x : RawTelegram) (rest : List RawTelegram) :
    (s.taking x rest).pending = s.pending := rfl
@[simp] theorem State.taking_resetHeld (s : State) (x : RawTelegram) (rest : List RawTelegram) :
    (s.taking x rest).resetHeld = s.resetHeld := rfl
@[simp] theorem State.taking_service (s : State) (x : RawTelegram) (rest : List RawTelegram) :
    (s.taking x rest).service = s.service := rfl
@[simp] theorem State.taking_loadResult (s : State) (x : RawTelegram) (rest : List RawTelegram) :
    (s.taking x rest).loadResult = s.loadResult := rfl
@[simp] theorem State.taking_address (s : State) (x : RawTelegram) (rest : List RawTelegram) :
    (s.taking x rest).address = s.address := rfl
@[simp] theorem State.taking_startHoldTimer (s : State) (x : RawTelegram) (rest : List RawTelegram) :
    (s.taking x rest).startHoldTimer = s.startHoldTimer := rfl
@[simp] theorem State.taking_admission (s : State) (x : RawTelegram) (rest : List RawTelegram) :
    (s.taking x rest).admission = s.admission := rfl
@[simp] theorem State.taking_keyOn (s : State) (x : RawTelegram) (rest : List RawTelegram) :
    (s.taking x rest).keyOn = s.keyOn := rfl
@[simp] theorem State.taking_captureTimer (s : State) (x : RawTelegram) (rest : List RawTelegram) :
    (s.taking x rest).captureTimer = s.captureTimer := rfl
@[simp] theorem State.taking_cfg (s : State) (x : RawTelegram) (rest : List RawTelegram) :
    (s.taking x rest).cfg = s.cfg := rfl
@[simp] theorem State.taking_sections (s : State) (x : RawTelegram) (rest : List RawTelegram) :
    (s.taking x rest).sections = s.sections := rfl
@[simp] theorem State.taking_points (s : State) (x : RawTelegram) (rest : List RawTelegram) :
    (s.taking x rest).points = s.points := rfl
@[simp] theorem State.taking_signals (s : State) (x : RawTelegram) (rest : List RawTelegram) :
    (s.taking x rest).signals = s.signals := rfl
@[simp] theorem State.taking_boundaries (s : State) (x : RawTelegram) (rest : List RawTelegram) :
    (s.taking x rest).boundaries = s.boundaries := rfl
@[simp] theorem State.taking_blocking (s : State) (x : RawTelegram) (rest : List RawTelegram) :
    (s.taking x rest).blocking = s.blocking := rfl
@[simp] theorem State.taking_remote (s : State) (x : RawTelegram) (rest : List RawTelegram) :
    (s.taking x rest).remote = s.remote := rfl
@[simp] theorem State.taking_instances (s : State) (x : RawTelegram) (rest : List RawTelegram) :
    (s.taking x rest).instances = s.instances := rfl
@[simp] theorem State.taking_lastEnded (s : State) (x : RawTelegram) (rest : List RawTelegram) :
    (s.taking x rest).lastEnded = s.lastEnded := rfl
@[simp] theorem State.taking_reservations (s : State) (x : RawTelegram) (rest : List RawTelegram) :
    (s.taking x rest).reservations = s.reservations := rfl
@[simp] theorem State.taking_register (s : State) (x : RawTelegram) (rest : List RawTelegram) :
    (s.taking x rest).register = s.register := rfl
@[simp] theorem State.taking_bitRate (s : State) (x : RawTelegram) (rest : List RawTelegram) :
    (s.taking x rest).bitRate = s.bitRate := rfl
@[simp] theorem State.taking_idleCount (s : State) (x : RawTelegram) (rest : List RawTelegram) :
    (s.taking x rest).idleCount = s.idleCount := rfl
@[simp] theorem State.taking_yieldGap (s : State) (x : RawTelegram) (rest : List RawTelegram) :
    (s.taking x rest).yieldGap = s.yieldGap := rfl
@[simp] theorem State.taking_sending (s : State) (x : RawTelegram) (rest : List RawTelegram) :
    (s.taking x rest).sending = s.sending := rfl
@[simp] theorem State.taking_slotDriven (s : State) (x : RawTelegram) (rest : List RawTelegram) :
    (s.taking x rest).slotDriven = s.slotDriven := rfl
@[simp] theorem State.taking_sendQueue (s : State) (x : RawTelegram) (rest : List RawTelegram) :
    (s.taking x rest).sendQueue = s.sendQueue := rfl
@[simp] theorem State.taking_tagCounter (s : State) (x : RawTelegram) (rest : List RawTelegram) :
    (s.taking x rest).tagCounter = s.tagCounter := rfl
@[simp] theorem State.taking_requests (s : State) (x : RawTelegram) (rest : List RawTelegram) :
    (s.taking x rest).requests = s.requests := rfl
@[simp] theorem State.taking_presenceTimer (s : State) (x : RawTelegram) (rest : List RawTelegram) :
    (s.taking x rest).presenceTimer = s.presenceTimer := rfl
@[simp] theorem State.taking_reports (s : State) (x : RawTelegram) (rest : List RawTelegram) :
    (s.taking x rest).reports = s.reports := rfl
@[simp] theorem State.taking_firstFault (s : State) (x : RawTelegram) (rest : List RawTelegram) :
    (s.taking x rest).firstFault = s.firstFault := rfl
@[simp] theorem State.taking_counts (s : State) (x : RawTelegram) (rest : List RawTelegram) :
    (s.taking x rest).counts = s.counts := rfl
@[simp] theorem State.taking_alertArmed (s : State) (x : RawTelegram) (rest : List RawTelegram) :
    (s.taking x rest).alertArmed = s.alertArmed := rfl
@[simp] theorem State.taking_fresh (s : State) (x : RawTelegram) (rest : List RawTelegram) :
    (s.taking x rest).fresh = s.fresh := rfl
@[simp] theorem State.taking_agenda (s : State) (x : RawTelegram) (rest : List RawTelegram) :
    (s.taking x rest).agenda = s.agenda := rfl
@[simp] theorem State.taking_recvQueue (s : State) (x : RawTelegram) (rest : List RawTelegram) :
    (s.taking x rest).recvQueue = rest := rfl

@[simp] theorem keep_taking (s : State) (x : RawTelegram) (rest : List RawTelegram) :
    ({ s with recvQueue := rest } : State).keep (s.taking x rest) = s.taking x rest := rfl

theorem taking_peers_shown (s : State) (x : RawTelegram) (rest : List RawTelegram) :
    (s.taking x rest).peers.map (fun p => (p.address, p.state)) = s.peers.map fun p => (p.address, p.state) := by
  show (({ s with recvQueue := rest } : State).keepRequest x).peers.map _ = _
  unfold State.keepRequest
  split
  · show (s.peers.map _).map _ = _
    rw [List.map_map]
    refine List.map_congr_left fun p _ => ?_
    dsimp only [Function.comp]
    split <;> rfl
  · rfl

/-- What a telegram row begins with shows no change, whatever is noted, but a fault or the alert. -/
theorem taking_showsSame (s : State) (x : RawTelegram) (rest : List RawTelegram) {n : Notes}
    (fault : n.firstFault = s.firstFault) (alert : n.alertArmed = s.alertArmed) :
    ShowsSame s ((s.taking x rest).noting n) :=
  ⟨fun _ => rfl, fun _ => rfl, rfl, rfl, rfl, rfl, rfl, rfl, rfl, rfl, rfl, taking_peers_shown s x rest, fault, alert⟩

theorem taking_isPresent (s : State) (x : RawTelegram) (rest : List RawTelegram) (a : Nat) :
    (s.taking x rest).isPresent a = s.isPresent a :=
  (handed_isPresent _ x a).trans rfl

variable {x : RawTelegram} {rest : List RawTelegram} {body : Body} {mine : RawTelegram → Bool}
  {write : Body → State → State} {owner : Nat → Body → Work → Work}

/-- A row whose telegram passes the checks is the event of its owner. -/
theorem takeFront_hands (queue : s.recvQueue = x :: rest) (own : mine x = true) (passed : s.vet x = .passed body) :
    s.takeFront mine write owner = s.event (write body { s with recvQueue := rest }) fun w =>
      owner x.source body (w.on (·.handed x)) := by
  unfold State.takeFront
  rw [queue]
  dsimp only
  rw [if_pos own, passed]
  simp only [Work.vetted, keepRequest_eq]

/-- A row whose telegram passes the checks, with an owner that gives rise to no tasks. -/
theorem takeFront_within (ready : s.ready) (queue : s.recvQueue = x :: rest) (own : mine x = true)
    (passed : s.vet x = .passed body) (begun : (write body { s with recvQueue := rest }).agenda = s.agenda)
    (near : Near (Work.begin b)
      (owner x.source body (Work.begin ((write body { s with recvQueue := rest }).handed x))))
    (kept : (write body { s with recvQueue := rest }).keep b = b) (left : b.agenda = []) :
    ∃ u, s.takeFront mine write owner = .next u.drained ∧ Noted b u := by
  rw [takeFront_hands queue own passed]
  exact event_within (work := fun w => owner x.source body (w.on (·.handed x))) ready begun near kept left

/-- The same where no signal and no section is changed. -/
theorem takeTelegram_places (ready : s.ready) (queue : s.recvQueue = x :: rest) (own : mine x = true)
    (passed : s.vet x = .passed body)
    (work_eq : owner x.source body (Work.begin (s.taking x rest)) = Work.begin b)
    (kept : ({ s with recvQueue := rest } : State).keep b = b) (left : b.agenda = [])
    (signals : b.signals = s.signals) (sections : b.sections = s.sections) :
    s.takeTelegram mine owner = .next (State.placeChanged s b).drained := by
  unfold State.takeTelegram
  rw [takeFront_hands queue own passed]
  exact event_places (work := fun w => owner x.source body (w.on (·.handed x))) ready rfl work_eq kept left signals sections

/-- A row of the desk's commands whose owner gives rise to no tasks: the state `b` that it makes, for whatever the
telegram is. -/
theorem Completes.of_command {c : Instr} {command : Command} {desk : Nat} {tag : Byte} {P : State → Prop}
    (row : exec c s = s.takeTelegram (·.isCommand (commandCode command)) owner) (ready : s.ready)
    (hands : s.handsCommand desk tag command rest) (b : RawTelegram → State)
    (near : ∀ x, Near (Work.begin (b x)) (owner desk (.command tag command) (Work.begin (s.taking x rest))))
    (kept : ∀ x, ({ s with recvQueue := rest } : State).keep (b x) = b x) (left : ∀ x, (b x).agenda = s.agenda)
    (h : ∀ x (n : Notes), n.After (b x) → P ((b x).noting n)) : Completes c s P := by
  obtain ⟨x, queue, rfl, own, passed⟩ := hands
  refine .of_noted (b := b x) ?_ (h x)
  rw [row]
  exact takeFront_within (write := fun _ t => t) ready queue own passed rfl (near x) (kept x) ((left x).trans ready.2)

/-- The same where the statement gives the send queue exactly: no signal and no section is changed. -/
theorem CompletesDraining.of_command {c : Instr} {command : Command} {desk : Nat} {tag : Byte} {P : State → Prop}
    (row : exec c s = s.takeTelegram (·.isCommand (commandCode command)) owner) (ready : s.ready)
    (hands : s.handsCommand desk tag command rest) (b : RawTelegram → State)
    (work_eq : ∀ x, owner desk (.command tag command) (Work.begin (s.taking x rest)) = Work.begin (b x))
    (kept : ∀ x, ({ s with recvQueue := rest } : State).keep (b x) = b x) (left : ∀ x, (b x).agenda = s.agenda)
    (signals : ∀ x, (b x).signals = s.signals) (sections : ∀ x, (b x).sections = s.sections)
    (h : ∀ x rs, P { b x with reports := rs }) : CompletesDraining c s P := by
  obtain ⟨x, queue, rfl, own, passed⟩ := hands
  refine .of_placed (b := b x) ?_ (h x)
  rw [row]
  exact takeTelegram_places ready queue own passed (work_eq x) (kept x) ((left x).trans ready.2) (signals x) (sections x)

/-- The same where nothing is shown to have changed, and the statement looks at the report queue too. -/
theorem CompletesDraining.of_unshown {c : Instr} {command : Command} {desk : Nat} {tag : Byte} {P : State → Prop}
    (row : exec c s = s.takeTelegram (·.isCommand (commandCode command)) owner) (ready : s.ready)
    (hands : s.handsCommand desk tag command rest) (b : RawTelegram → State)
    (work_eq : ∀ x, owner desk (.command tag command) (Work.begin (s.taking x rest)) = Work.begin (b x))
    (kept : ∀ x, ({ s with recvQueue := rest } : State).keep (b x) = b x) (left : ∀ x, (b x).agenda = s.agenda)
    (shows : ∀ x, ShowsSame s (b x)) (h : ∀ x, P (b x)) : CompletesDraining c s P := by
  obtain ⟨x, queue, rfl, own, passed⟩ := hands
  refine ⟨_, ?_, h x⟩
  rw [row, State.takeTelegram, takeFront_hands queue own passed]
  exact event_unshown (work := fun w => owner x.source (.command tag command) (w.on (·.handed x))) ready rfl
    (work_eq x) (kept x) (left x) (shows x)

/-! ## Placing a telegram that finds room -/

theorem enqueue_eq (s : State) (dest : Nat) (body : Body) :
    s.enqueue ⟨dest, body⟩ = { s with sendQueue := s.sendQueue ++ [placed dest body] } := rfl

/-- A telegram of class 1 goes to a PRESENT peer only; where the queue has room it is appended (R73). -/
theorem post_of_room (s : State) (dest : Nat) (body : Body)
    (there : (bodyKind body).cls = 1 → s.isPresent dest = true) (room : s.room (bodyKind body).cls = true) :
    s.post dest body = s.enqueue ⟨dest, body⟩ := by
  unfold State.post
  dsimp only
  rw [if_neg, if_pos room]
  simp only [Bool.and_eq_true, decide_eq_true_eq, Bool.not_eq_true', not_and, Bool.not_eq_false]
  exact there

theorem room_of_le {s : State} {cls : Nat} (h : s.sendQueue.length + requiredFree cls ≤ 32) : s.room cls = true :=
  decide_eq_true h

/-- The notes of a state once one more telegram is placed and a free value drawn. -/
def State.answerNotes (s : State) (desk : Nat) (body : Body) : Notes :=
  { s.notes with sendQueue := s.sendQueue ++ [placed desk body], fresh := s.fresh + 1 }

@[simp] theorem answerNotes_sendQueue (s : State) (desk : Nat) (body : Body) :
    (s.answerNotes desk body).sendQueue = s.sendQueue ++ [placed desk body] := rfl
@[simp] theorem answerNotes_counts (s : State) (desk : Nat) (body : Body) :
    (s.answerNotes desk body).counts = s.counts := rfl
@[simp] theorem answerNotes_firstFault (s : State) (desk : Nat) (body : Body) :
    (s.answerNotes desk body).firstFault = s.firstFault := rfl
@[simp] theorem answerNotes_alertArmed (s : State) (desk : Nat) (body : Body) :
    (s.answerNotes desk body).alertArmed = s.alertArmed := rfl
@[simp] theorem answerNotes_reports (s : State) (desk : Nat) (body : Body) :
    (s.answerNotes desk body).reports = s.reports := rfl

/-- An answer to a desk that finds room (R73). -/
theorem answerDesk_of_room (s : State) (dest : Nat) (tag : Byte) (code : Nat) (reason : Option Reason)
    (index : Option Nat) (room : s.sendQueue.length + 4 ≤ 32) :
    s.answerDesk dest tag code reason index
      = s.noting (s.answerNotes dest (.commandAnswer tag code reason (index.getD s.freeByte) [])) := by
  unfold State.answerDesk
  rw [post_of_room s dest (.commandAnswer tag code reason (index.getD s.freeByte) [])
    (fun h => absurd (show Kind.commandAnswer.cls = 1 from h) (by decide))
    (room_of_le (cls := Kind.commandAnswer.cls) room)]
  rfl

/-- The answer of a command as the first of what an event sends. -/
theorem answered_of_after {n : Notes} {desk : Nat} {tag : Byte} {code : Nat} {reason : Option Reason} {index : Nat}
    {contents : List Byte} (h : n.After b)
    (sent : b.sendQueue = s.sendQueue ++ [placed desk (.commandAnswer tag code reason index contents)]) :
    (b.noting n).answered s desk tag code reason := by
  obtain ⟨more, e⟩ := h.sent
  exact ⟨index, contents, more, by rw [State.noting_sendQueue, e, sent, List.append_assoc]; rfl⟩

/-! ## A refused SET (R91) -/

theorem setRefusal_taking (s : State) (rest : List RawTelegram) (x : RawTelegram) (r : RouteRecord) :
    (s.taking x rest).setRefusal r = s.setRefusal r := by
  unfold State.setRefusal
  simp only [taking_isPresent]
  rfl

/-- A judgement asks nothing but each requirement's own (R14). -/
theorem judge_of_one (same : ∀ entry seen e q, t.judgeOne entry seen e q = s.judgeOne entry seen e q)
    (entry : Option (Fin 8)) (seen : List Elem) (qs : List LockReq) : t.judge entry seen qs = s.judge entry seen qs := by
  induction qs generalizing seen with
  | nil => rfl
  | cons q qs ih =>
    unfold State.judge
    simp only [same, ih]

/-- What a refused SET makes of the work (R91). -/
theorem set_refused {s : State} {desk : Nat} {tag : Byte} {n : Nat} {rest : List RawTelegram} {reason : Reason}
    {index : Option Nat} (ready : s.ready) (hands : s.handsCommand desk tag (.set n) rest)
    (room : s.sendQueue.length + 4 ≤ 32)
    (refused : ∀ x : RawTelegram, (Work.begin (s.taking x rest)).takeSet desk tag n
      = (Work.begin (s.taking x rest)).on (·.answerDesk desk tag 1 (some reason) index)) :
    CompletesDraining .set s fun t =>
      t.recvQueue = rest ∧ t.sections = s.sections ∧ t.sameElements s ∧ t.sameRoutes s
        ∧ t.boundaries = s.boundaries ∧ t.requests = s.requests ∧ t.tagCounter = s.tagCounter
        ∧ ∃ k, (∀ x, index = some x → k = x)
          ∧ t.sendQueue = s.sendQueue ++ [placed desk (.commandAnswer tag 1 (some reason) k [])] := by
  obtain ⟨x, queue, rfl, own, passed⟩ := hands
  have work_eq := refused x
  rw [Work.on, answerDesk_of_room _ _ _ _ _ _ (by exact room)] at work_eq
  refine .of_placed (takeTelegram_places ready queue own passed work_eq rfl ready.2 rfl rfl) fun rs => ?_
  refine ⟨rfl, rfl, ⟨rfl, rfl, rfl⟩, ⟨rfl, rfl, rfl, rfl, rfl⟩, rfl, rfl, rfl, _, fun k e => ?_, rfl⟩
  rw [e]
  rfl

section
variable {w : Work} {desk n : Nat} {tag : Byte} {r : RouteRecord}

theorem takeSet_of_out (out : w.st.service ≠ .inService) :
    w.takeSet desk tag n = w.on (·.answerDesk desk tag 1 (some .notInService) none) := if_pos out

theorem takeSet_of_unknown (service : w.st.service = .inService) (unknown : w.st.routeRecord n = none) :
    w.takeSet desk tag n = w.on (·.answerDesk desk tag 1 (some .unknownRoute) none) := by
  unfold Work.takeSet
  dsimp only
  rw [if_neg (not_not_intro service), unknown]

theorem takeSet_of_busy (service : w.st.service = .inService) (known : w.st.routeRecord n = some r) {i : RouteInst}
    (there : w.st.instances[r.entry] = some i) (busy : i.route ≠ n ∨ i.state ≠ .held) :
    w.takeSet desk tag n = w.on (·.answerDesk desk tag 1 (some .entryBusy) none) := by
  unfold Work.takeSet
  dsimp only
  rw [if_neg (not_not_intro service), known]
  dsimp only
  rw [there]
  dsimp only
  rw [if_neg (by tauto)]

theorem takeSet_of_refusal (service : w.st.service = .inService) (known : w.st.routeRecord n = some r)
    (free : w.st.instances[r.entry] = none) {f : Failure} (refusal : w.st.setRefusal r = some f) :
    w.takeSet desk tag n = w.on (·.answerDesk desk tag 1 (some f.reason) (some f.index)) := by
  unfold Work.takeSet
  dsimp only
  rw [if_neg (not_not_intro service), known]
  dsimp only
  rw [free]
  dsimp only
  rw [refusal]

theorem takeSet_of_free (service : w.st.service = .inService) (known : w.st.routeRecord n = some r)
    (free : w.st.instances[r.entry] = none) (passes : w.st.setRefusal r = none) :
    w.takeSet desk tag n = match w.st.judge (some r.entry) [] (localPart r) with
      | some f => w.on (·.answerDesk desk tag 1 (some f.reason) (some f.index))
      | none => w.startRoute r desk tag := by
  unfold Work.takeSet
  dsimp only
  rw [if_neg (not_not_intro service), known]
  dsimp only
  rw [free]
  dsimp only
  rw [passes] <;> rfl

end

/-- Settles O43: each check of R91 in its order, the first that fails answered. -/
theorem refusedSetChangesNothing : Obligations.RefusedSetChangesNothing := by
  intro s desk tag n rest ready hands room
  refine ⟨fun out => ?_, fun service unknown => ?_, fun r service known => ⟨fun i there busy => ?_,
    fun free f refusal => ?_, fun free none f refusal => ?_⟩⟩
  · exact set_refused ready hands room fun x => takeSet_of_out out
  · exact set_refused ready hands room fun x => takeSet_of_unknown service unknown
  · exact set_refused ready hands room fun x => takeSet_of_busy service known there busy
  · exact set_refused ready hands room fun x =>
      takeSet_of_refusal service known free ((setRefusal_taking s rest x r).trans refusal)
  · refine set_refused ready hands room fun x =>
      (takeSet_of_free service known free ((setRefusal_taking s rest x r).trans none)).trans ?_
    rw [judge_of_one (s := s) (fun _ _ _ _ => by rfl), refusal]

end

end Sys2Proof.Machine
end

section
/-! PROOFS. The desk's commands on elements and on the Report Unit (R12, R13, R51, R167, R174, R181, R185, R186): each
answers, and gives rise to no tasks. -/

namespace Sys2Proof.Machine

section
variable {s t b : State} {w : Work} {desk : Nat} {tag : Byte} {rest : List RawTelegram}

/-! ## What refuses a command on an element -/

theorem notNow_of_use (use : s.service = .outOfService ∨ s.service = .inService) : s.notNow = none := by
  unfold State.notNow
  rcases use with e | e <;> rw [e]

theorem elementRefusal_of_use {n : Nat} {e : Elem} (use : s.service = .outOfService ∨ s.service = .inService)
    (named : s.equippedElem n = some e) : s.elementRefusal n = none := by
  unfold State.elementRefusal
  rw [notNow_of_use use, named]
  rfl

theorem elementRefusal_of_unequipped {n : Nat} (use : s.service = .outOfService ∨ s.service = .inService)
    (named : s.equippedElem n = none) : s.elementRefusal n = some .unknownElement := by
  unfold State.elementRefusal
  rw [notNow_of_use use, named]
  rfl

theorem elemOfNumber_points (p : Fin 8) : elemOfNumber (16 + p.val) = some (.points p) := by
  revert p
  decide

theorem elemOfNumber_track (i : Fin 16) : elemOfNumber i.val = some (.track i) := by
  revert i
  decide

theorem elemOfNumber_boundary (b : Fin 4) : elemOfNumber (32 + b.val) = some (.boundary b) := by
  revert b
  decide

theorem equippedElem_of {n : Nat} {e : Elem} (named : elemOfNumber n = some e) (equipped : s.equipped e = true) :
    s.equippedElem n = some e := by
  unfold State.equippedElem
  rw [named, Option.filter_some, if_pos equipped]

/-! ## A command that is answered -/

/-- A command that is accepted is answered, and then does its work. -/
theorem decide_accepted {code : Nat} {accepted : Work → Work} (room : s.sendQueue.length + 4 ≤ 32) :
    (Work.begin s).decide desk tag code none accepted = accepted (Work.begin (s.noting (s.answerNotes desk (.commandAnswer tag code none s.freeByte [])))) := by
  unfold Work.decide Work.on
  dsimp only
  rw [Work.begin_st, answerDesk_of_room s desk tag code none none room]
  rfl

/-! ## POINT_MOVE (R51) -/

/-- A point at REST whose drive is not locked out and whose section is CLEAR is driven at once (R40). -/
theorem moveRequest_drives {c : PointCfg} {r : PointRec} {x : Position} {who : Requester} {occupied : Bool}
    (clear : occupied = false) (drive : r.drive = .rest) (away : r.detection ≠ .at x) (free : r.lockedToward (otherPosition x) = false) :
    r.moveRequest c occupied x who = ⟨{ r with
      commanded := some x, returnPosition := r.detected, returnPending := false, drive := .throwing x
      throwTimer := some c.throwTime
      overCurrentTimer := if r.senseActive then some c.overCurrentTime else none, requesters := [who] },
      tellAll r.requesters .none, []⟩ := by
  subst clear
  unfold PointRec.moveRequest PointRec.beginMove PointRec.outputOff
  have off : r.output = none := by simp [PointRec.output, drive]
  rw [drive]
  dsimp only
  rw [if_neg away, off]
  dsimp only
  rw [if_neg (by simpa [PointRec.detection] using away), if_neg (by simpa [PointRec.lockedToward] using free)]
  simp [PointRec.startTimers]

theorem moveOf_points {p : Fin 8} {target : Nat} {x : Position} (position : targetPosition target = some x) :
    moveOf (16 + p.val) target = some (p, x) := by
  unfold moveOf
  rw [elemOfNumber_points, position]

/-- A point that may be moved has no holder, and its section is CLEAR (R51). -/
theorem moveRefusal_none {p : Fin 8} (passes : s.moveRefusal p = none) :
    s.points[p].lock = none ∧ s.points[p].claims = [] ∧ s.pointOccupied p = false := by
  unfold State.moveRefusal at passes
  dsimp only at passes
  split at passes
  · simp at passes
  next unlocked =>
  split at passes
  · simp at passes
  next unclaimed =>
  split at passes
  · simp at passes
  split at passes
  · simp at passes
  next clear =>
  refine ⟨Option.not_isSome_iff_eq_none.mp unlocked, List.isEmpty_iff.mp (by simpa using unclaimed), ?_⟩
  unfold State.countsOccupied at clear
  dsimp only at clear
  simp only [Bool.or_eq_true, not_or] at clear
  obtain ⟨⟨⟨vacant, -⟩, -⟩, -⟩ := clear
  exact Bool.eq_false_iff.mpr vacant

/-- A point with neither result nor holder to tell (R48, R49). -/
theorem takePoint_of_free {p : Fin 8} {r : PointRec} (lock : r.lock = none) (claims : r.claims = []) :
    (Work.begin s).takePoint p ⟨r, [], []⟩ = Work.begin (s.setPoint p r) := by
  rw [takePoint_begin]
  have silent : pointTasks s p ⟨r, [], []⟩ = [] := by
    unfold pointTasks
    dsimp only
    split
    · simp [proofTasks, lock, claims]
    · rfl
  rw [silent]
  rfl

theorem movePoint_of_free {p : Fin 8} {x : Position} {who : Requester} {r : PointRec}
    (step : s.points[p].moveRequest (s.pointCfg p) (s.pointOccupied p) x who = ⟨r, [], []⟩) (lock : r.lock = none)
    (claims : r.claims = []) : (Work.begin s).movePoint p x who = Work.begin (s.setPoint p r) := by
  rw [Work.movePoint, Work.begin_st, step, takePoint_of_free lock claims]

/-- Settles O49: the desk is the requester, and the point has no holder to tell. -/
theorem pointMoveDrivesFreePoint : Obligations.PointMoveDrivesFreePoint := by
  intro s desk tag p target x c rest ready hands use named position passes drive away requesters free room
  obtain ⟨unlocked, unclaimed, clear⟩ := moveRefusal_none passes
  have accepted : s.pointRefusal (16 + p.val) target = none := by
    unfold State.pointRefusal
    rw [elementRefusal_of_use use (equippedElem_of (elemOfNumber_points p) (equipped_of_point named)),
      moveOf_points position]
    exact passes
  have step := moveRequest_drives (c := s.pointCfg p) (who := .desk) clear drive away free
  rw [requesters] at step
  refine Completes.of_command rfl ready hands (fun y => ((s.taking y rest).noting
      ((s.taking y rest).answerNotes desk (.commandAnswer tag 6 none s.freeByte []))).setPoint p { s.points[p] with
      commanded := some x, returnPosition := s.points[p].detected, returnPending := false, drive := .throwing x
      throwTimer := some (s.pointCfg p).throwTime
      overCurrentTimer := if s.points[p].senseActive then some (s.pointCfg p).overCurrentTime else none
      requesters := [.desk] })
    (fun y => ?_) (fun y => by simp) (fun y => by simp) fun y n after => ?_
  · show Near _ ((Work.begin (s.taking y rest)).decide desk tag 6
      ((s.taking y rest).pointRefusal (16 + p.val) target) fun w => match moveOf (16 + p.val) target with
        | some (p, x) => w.movePoint p x .desk
        | none => w)
    rw [show (s.taking y rest).pointRefusal (16 + p.val) target = none from accepted, decide_accepted (by exact room),
      moveOf_points position]
    dsimp only
    exact .of_eq (movePoint_of_free step unlocked unclaimed)
  · refine ⟨by simp, by simp, by simp, ⟨by simp, by simp, by simp, by simp, by simp⟩, answered_of_after (index := s.freeByte) (contents := []) after (by simp), ?_⟩
    simp [pointCfg_of named]

/-! ## DESCRIBE and ERASE (R167) -/

theorem sectionOfNumber_track (i : Fin 16) : sectionOfNumber i.val = some i := by
  unfold sectionOfNumber
  rw [elemOfNumber_track]

/-- Writing a train record leaves the element records as they were. -/
theorem setTrain_sameElements (s : State) (i : Fin 16) (x : Option TrainRecord) : (s.setTrain i x).sameElements s := by
  refine ⟨Vector.ext fun k bound => ?_, rfl, rfl⟩
  unfold State.setTrain State.setSection
  by_cases e : i.val = k
  · subst e
    simp
  · simp [e]

/-- Only the element records count. -/
theorem sameElements_of {s t u : State} (h : u.sameElements s) (sections : t.sections = u.sections)
    (points : t.points = u.points) (signals : t.signals = u.signals) : t.sameElements s := by
  obtain ⟨same, samePoints, sameSignals⟩ := h
  exact ⟨sections ▸ same, points.trans samePoints, signals.trans sameSignals⟩

/-- A command that is accepted and writes a train record. -/
theorem train_written {c : Instr} {command : Command} {owner : Nat → Body → Work → Work} {code : Nat} {i : Fin 16}
    {x : State → Option TrainRecord} (row : exec c s = s.takeTelegram (·.isCommand (commandCode command)) owner)
    (ready : s.ready) (room : s.sendQueue.length + 4 ≤ 32) (hands : s.handsCommand desk tag command rest)
    (owns : ∀ y, owner desk (.command tag command) (Work.begin (s.taking y rest))
      = (Work.begin (s.taking y rest)).decide desk tag code none fun w => w.on fun s => s.setTrain i (x s))
    (reads : ∀ t : State, t.sections = s.sections → x t = x s) :
    Completes c s fun t =>
      t.recvQueue = rest ∧ t.answered s desk tag code none ∧ t.sameElements s ∧ t.sameRoutes s
        ∧ t.sections = s.sections.set i { s.sections[i] with train := x s }
        ∧ t.boundaries = s.boundaries ∧ t.requests = s.requests := by
  refine Completes.of_command row ready hands (fun y => ((s.taking y rest).noting
      ((s.taking y rest).answerNotes desk (.commandAnswer tag code none s.freeByte []))).setTrain i (x s))
    (fun y => ?_) (fun y => by simp [State.setTrain]) (fun y => by simp [State.setTrain]) fun y n after => ?_
  · rw [owns, decide_accepted (by exact room)]
    refine .of_eq (congrArg (fun z => Work.begin (State.setTrain _ i z)) (reads _ ?_))
    rfl
  · refine ⟨by simp [State.setTrain], answered_of_after (index := s.freeByte) (contents := []) after
      (by simp [State.setTrain]), ?_, ⟨?_, ?_, ?_, ?_, ?_⟩, ?_, ?_, ?_⟩
    · refine sameElements_of (setTrain_sameElements s i (x s)) ?_ ?_ ?_
      all_goals simp [State.setTrain, State.setSection]
    all_goals simp [State.setTrain, State.setSection]

/-! ## HANDOVER_CLEAR (R174) -/

theorem boundaryOfNumber_boundary (b : Fin 4) : boundaryOfNumber (32 + b.val) = some b := by
  unfold boundaryOfNumber
  rw [elemOfNumber_boundary]

/-- The pending OFFER of an outbound record goes, and no other entry (R174). -/
theorem dropOffer_requests (s : State) (b : Fin 4) (tag : Byte) (unique : (s.requests.map (·.tag)).Nodup) :
    (s.dropOffer b tag).requests = s.requests.filter fun q => !(q.tag == tag && q.subject == .offer b) := by
  unfold State.dropOffer
  split
  · next none =>
    refine (List.filter_eq_self.mpr fun q known => ?_).symm
    have := List.find?_eq_none.mp none q known
    simpa [or_iff_not_imp_left] using this
  · next q found =>
    have known := List.mem_of_find?_eq_some found
    have named := List.find?_some found
    simp only [Bool.and_eq_true, beq_iff_eq] at named
    obtain ⟨rfl, offers⟩ := named
    refine List.filter_congr fun x hx => ?_
    by_cases e : x.tag = q.tag
    · have : x = q := List.inj_on_of_nodup_map unique hx known e
      simp [this, offers]
    · simp [e, bne]

/-- The state with other pending requests and another send queue. -/
def State.asking (s : State) (qs : List Request) (es : List SendEntry) : State :=
  { s with requests := qs, sendQueue := es }

section
variable (qs : List Request) (es : List SendEntry)
@[simp] theorem keep_asking (u s : State) : u.keep (s.asking qs es) = (u.keep s).asking qs es := rfl
@[simp] theorem asking_requests (s : State) : (s.asking qs es).requests = qs := rfl
@[simp] theorem asking_sendQueue (s : State) : (s.asking qs es).sendQueue = es := rfl
@[simp] theorem asking_agenda (s : State) : (s.asking qs es).agenda = s.agenda := rfl
@[simp] theorem asking_recvQueue (s : State) : (s.asking qs es).recvQueue = s.recvQueue := rfl
@[simp] theorem asking_sections (s : State) : (s.asking qs es).sections = s.sections := rfl
@[simp] theorem asking_points (s : State) : (s.asking qs es).points = s.points := rfl
@[simp] theorem asking_signals (s : State) : (s.asking qs es).signals = s.signals := rfl
@[simp] theorem asking_boundaries (s : State) : (s.asking qs es).boundaries = s.boundaries := rfl
@[simp] theorem asking_remote (s : State) : (s.asking qs es).remote = s.remote := rfl
@[simp] theorem asking_instances (s : State) : (s.asking qs es).instances = s.instances := rfl
@[simp] theorem asking_lastEnded (s : State) : (s.asking qs es).lastEnded = s.lastEnded := rfl
@[simp] theorem asking_reservations (s : State) : (s.asking qs es).reservations = s.reservations := rfl
@[simp] theorem asking_register (s : State) : (s.asking qs es).register = s.register := rfl
@[simp] theorem asking_cfg (s : State) : (s.asking qs es).cfg = s.cfg := rfl
end

theorem dropOffer_same (s : State) (b : Fin 4) (tag : Byte) :
    s.dropOffer b tag = s.asking (s.dropOffer b tag).requests (s.dropOffer b tag).sendQueue := by
  unfold State.dropOffer
  split <;> rfl

/-- A telegram that is no request keeps its place (R174). -/
theorem dropOffer_mem {s : State} {e : SendEntry} (known : e ∈ s.sendQueue) (untagged : bodyTag e.telegram.body = none)
    (b : Fin 4) (tag : Byte) : e ∈ (s.dropOffer b tag).sendQueue := by
  unfold State.dropOffer
  split
  · exact known
  · refine List.mem_map.mpr ⟨e, known, if_neg ?_⟩
    simp [SendEntry.asks, SendEntry.pendingTag, untagged]

/-- The pending OFFERs of a list of outbound records go (R174). -/
theorem dropOffers (b : Fin 4) (os : List OutboundRec) (s : State) :
    let t := os.foldl (fun s o => s.dropOffer b o.tag) s
    t = s.asking t.requests t.sendQueue
      ∧ (∀ e ∈ s.sendQueue, bodyTag e.telegram.body = none → e ∈ t.sendQueue)
      ∧ ((s.requests.map (·.tag)).Nodup → t.requests =
          s.requests.filter fun q => !(q.subject == .offer b && os.any fun o => o.tag == q.tag)) := by
  induction os generalizing s with
  | nil => exact ⟨rfl, fun _ h _ => h, fun _ => by simp⟩
  | cons o os ih =>
    obtain ⟨same, kept, requests⟩ := ih (s.dropOffer b o.tag)
    refine ⟨?_, fun e known untagged => kept e (dropOffer_mem known untagged b o.tag) untagged, fun unique => ?_⟩
    · have once (qs : List Request) (es : List SendEntry) : (s.dropOffer b o.tag).asking qs es = s.asking qs es := by
        rw [dropOffer_same s b o.tag]
        rfl
      exact same.trans (once _ _)
    · have dropped := dropOffer_requests s b o.tag unique
      rw [List.foldl_cons, requests (dropped ▸ unique.sublist ((List.filter_sublist).map _)), dropped,
        List.filter_filter]
      refine List.filter_congr fun q _ => ?_
      rw [List.any_cons]
      cases q.subject == .offer b <;> cases h : os.any _ <;> simp [BEq.comm]

theorem clearHandover_same (s : State) (b : Fin 4) :
    s.clearHandover b = (s.asking (s.clearHandover b).requests (s.clearHandover b).sendQueue).setBoundary b
      { s.boundaries[b] with outbound := [], inbound := [], offersLost := 0, lastConfirm := none } := by
  obtain ⟨same, -, -⟩ := dropOffers b (s.boundaries[b].outbound.filter (·.state == .offered)) s
  exact congrArg (fun t : State => t.changeBoundary b fun r =>
    { r with outbound := [], inbound := [], offersLost := 0, lastConfirm := none }) same

/-- The pending OFFERs of the boundary go with its queues (R174). -/
theorem clearHandover_requests {s : State} {b : Fin 4} (unique : (s.requests.map (·.tag)).Nodup) :
    (s.clearHandover b).requests = s.requests.filter fun q => !(q.subject == .offer b &&
      (s.boundaries[b].outbound.filter (·.state == .offered)).any fun o => o.tag == q.tag) :=
  (dropOffers b (s.boundaries[b].outbound.filter (·.state == .offered)) s).2.2 unique

/-- A telegram without a tag of its own stays (R174). -/
theorem clearHandover_mem {s : State} {b : Fin 4} {e : SendEntry} (known : e ∈ s.sendQueue)
    (untagged : bodyTag e.telegram.body = none) : e ∈ (s.clearHandover b).sendQueue :=
  (dropOffers b (s.boundaries[b].outbound.filter (·.state == .offered)) s).2.1 e known untagged

/-- Settles O50: a train record is written, or a boundary's queues are emptied with their OFFERs. -/
theorem describerCommandsWriteRecords : Obligations.DescriberCommandsWriteRecords := by
  intro s desk tag rest ready room
  refine ⟨fun i train hands passes => ?_, fun i hands passes => ?_, fun b hands passes => ?_⟩
  · refine train_written (c := .describe) (command := .describe i.val train) (x := fun s => some ⟨train, (s.sections[i].train.map (·.speed)).getD 0⟩) rfl ready room hands
      (fun y => ?_) fun t same => by rw [same]
    show (Work.begin (s.taking y rest)).decide desk tag 7 (s.describeRefusal i.val train) _ = _
    rw [passes, sectionOfNumber_track]
  · refine train_written (c := .erase) (command := .erase i.val) (x := fun _ => none) rfl ready room hands (fun y => ?_) fun t same => rfl
    show (Work.begin (s.taking y rest)).decide desk tag 8 (s.sectionRefusal i.val) _ = _
    rw [passes, sectionOfNumber_track]
  · refine Completes.of_command rfl ready hands (fun y => ((s.taking y rest).noting
        ((s.taking y rest).answerNotes desk (.commandAnswer tag 9 none s.freeByte []))).clearHandover b)
      (fun y => ?_) (fun y => ?_) (fun y => ?_) fun y n after => ?_
    · show Near _ ((Work.begin (s.taking y rest)).decide desk tag 9 (s.handoverRefusal (32 + b.val)) _)
      rw [passes, decide_accepted (by exact room), boundaryOfNumber_boundary]
      exact .refl _
    · rw [clearHandover_same]
      simp
    · rw [clearHandover_same]
      simp
    · have answer : placed desk (.commandAnswer tag 9 none s.freeByte []) ∈ n.sendQueue := by
        obtain ⟨more, sent⟩ := after.sent
        rw [sent]
        exact List.mem_append_left _ (clearHandover_mem (by simp) rfl)
      refine ⟨?_, ?_, ⟨?_, ?_, ?_⟩, ⟨?_, ?_, ?_, ?_, ?_⟩, ?_, ⟨_, _, answer⟩, fun unique => ?_⟩
      rotate_right
      · rw [State.noting_requests, clearHandover_requests (by simpa using unique.2)]
        simp [List.any_filter]
      all_goals
        rw [clearHandover_same]
        simp [State.setBoundary]


/-! ## The Report Unit's commands (R181, R185, R186) -/

/-- A subject that can be reported waits once (R177). -/
theorem place_of_reportable {x : Subject} (reportable : s.reportable x = true) :
    s.place x = s.noting { s.notes with reports := if s.reports.contains x then s.reports else s.reports ++ [x] } := by
  unfold State.place
  rw [reportable]
  cases known : s.reports.contains x <;> rfl

/-- What REARM notes where the send queue has room (R185). -/
def State.rearmNotes (s : State) : Notes :=
  if s.firstFault.isNone then { s.notes with alertArmed := true }
  else
    { s.notes with
      alertArmed := false
      reports := if s.reports.contains .controller then s.reports else s.reports ++ [.controller]
      sendQueue := s.sendQueue ++ [placed 0 (.alert (s.firstFaultBytes ++ twoBytes s.captureTimer.toNat))]
      fresh := s.fresh + 3 }

theorem rearm_of_room (room : s.sendQueue.length + 4 ≤ 32) : s.rearm = s.noting s.rearmNotes := by
  unfold State.rearm State.rearmNotes
  split
  · rfl
  · unfold State.sendAlert
    dsimp only
    rw [place_of_reportable rfl, if_pos (room_of_le (cls := 2) (by exact room))]
    rfl

/-- Settles O51. -/
theorem reportUnitCommandsAnswer : Obligations.ReportUnitCommandsAnswer := by
  intro s desk tag rest ready room
  refine ⟨fun n x hands named reportable => ?_, fun hands => ?_, fun hands => ?_⟩
  · refine CompletesDraining.of_unshown rfl ready hands (fun y => (s.taking y rest).noting
        { (s.answerNotes desk (.commandAnswer tag 10 none s.freeByte [])) with
          reports := if s.reports.contains x then s.reports else s.reports ++ [x] })
      (fun y => ?_) (fun y => by simp) (fun y => rfl) (fun y => taking_showsSame s y rest rfl rfl) fun y => ?_
    · have accepted : (s.taking y rest).statusRefusal n = none := by
        unfold State.statusRefusal
        rw [named]
        exact if_pos (.inr (by simpa using (by exact reportable : (s.taking y rest).reportable x = true)))
      show (Work.begin (s.taking y rest)).decide desk tag 10 ((s.taking y rest).statusRefusal n) _ = _
      rw [accepted, decide_accepted (by show s.sendQueue.length + 4 ≤ 32; omega), named]
      exact congrArg Work.begin (place_of_reportable (by exact reportable))
    · exact ⟨rfl, ⟨s.freeByte, [], [], rfl⟩, ⟨rfl, rfl, rfl⟩, ⟨rfl, rfl, rfl, rfl, rfl⟩, rfl⟩
  · refine CompletesDraining.of_command rfl ready hands
      (fun y => (s.taking y rest).noting { s.notes with
        firstFault := none, counts := Vector.replicate 15 0, fresh := s.fresh + 4
        sendQueue := s.sendQueue ++ [placed desk (s.fetchAnswer tag)] })
      (fun y => ?_) (fun y => by simp) (fun y => rfl) (fun y => rfl) (fun y => rfl) fun y rs => ?_
    · show (Work.begin (s.taking y rest)).on (·.fetchFaults desk tag) = _
      have posted : (s.taking y rest).post desk ((s.taking y rest).fetchAnswer tag)
          = (s.taking y rest).enqueue ⟨desk, s.fetchAnswer tag⟩ :=
        post_of_room _ desk (s.fetchAnswer tag) (fun h => absurd (show Kind.commandAnswer.cls = 1 from h) (by decide))
          (room_of_le (cls := Kind.commandAnswer.cls) (by show s.sendQueue.length + 4 ≤ 32; omega))
      rw [Work.on, Work.begin_st, State.fetchFaults, posted]
      dsimp only
      rw [if_pos (room_of_le (cls := 2) (by show s.sendQueue.length + 4 ≤ 32; omega))]
      rfl
    · exact ⟨rfl, rfl, rfl, rfl, ⟨rfl, rfl, rfl⟩, ⟨rfl, rfl, rfl, rfl, rfl⟩, _, rfl⟩
  · have rearmed (y : RawTelegram) : (s.taking y rest).rearm = (s.taking y rest).noting s.rearmNotes :=
      rearm_of_room (s := s.taking y rest) (by show s.sendQueue.length + 4 ≤ 32; omega)
    have few : s.rearmNotes.sendQueue.length + 4 ≤ 32 := by
      unfold State.rearmNotes
      split
      · show s.sendQueue.length + 4 ≤ 32
        omega
      · simp
        omega
    refine CompletesDraining.of_command rfl ready hands
      (fun y => (s.taking y rest).noting ((s.noting s.rearmNotes).answerNotes desk
        (.commandAnswer tag 12 none (s.noting s.rearmNotes).freeByte [])))
      (fun y => ?_) (fun y => by simp) (fun y => rfl) (fun y => rfl) (fun y => rfl) fun y rs => ?_
    · show ((Work.begin (s.taking y rest)).on State.rearm).on (·.answerDesk desk tag 12 none) = _
      rw [Work.on, Work.on, Work.begin_st, rearmed]
      dsimp only
      rw [answerDesk_of_room _ _ _ _ _ _ (by exact few)]
      rfl
    · refine ⟨rfl, ⟨rfl, rfl, rfl⟩, ⟨rfl, rfl, rfl, rfl, rfl⟩, ?_⟩
      show s.rearmNotes.firstFault = s.firstFault ∧ s.rearmNotes.alertArmed = s.firstFault.isNone
        ∧ ∃ index, s.rearmNotes.sendQueue ++ [placed desk (.commandAnswer tag 12 none _ [])] = _
      unfold State.rearmNotes
      cases first : s.firstFault with
      | none => exact ⟨first, rfl, _, congrArg (· ++ [placed desk _]) (List.append_nil s.sendQueue).symm⟩
      | some f => exact ⟨first, rfl, _, rfl⟩

/-! ## Service state (R193, R195 to R197) -/

section
variable {u v : State} (h : u.keep v = v)
include h
theorem kept_resetHeld : v.resetHeld = u.resetHeld := (congrArg State.resetHeld h).symm
theorem kept_service : v.service = u.service := (congrArg State.service h).symm
theorem kept_loadResult : v.loadResult = u.loadResult := (congrArg State.loadResult h).symm
theorem kept_address : v.address = u.address := (congrArg State.address h).symm
theorem kept_startHoldTimer : v.startHoldTimer = u.startHoldTimer := (congrArg State.startHoldTimer h).symm
theorem kept_admission : v.admission = u.admission := (congrArg State.admission h).symm
theorem kept_keyOn : v.keyOn = u.keyOn := (congrArg State.keyOn h).symm
theorem kept_captureTimer : v.captureTimer = u.captureTimer := (congrArg State.captureTimer h).symm
theorem kept_cfg : v.cfg = u.cfg := (congrArg State.cfg h).symm
theorem kept_blocking : v.blocking = u.blocking := (congrArg State.blocking h).symm
theorem kept_bitRate : v.bitRate = u.bitRate := (congrArg State.bitRate h).symm
theorem kept_recvQueue : v.recvQueue = u.recvQueue := (congrArg State.recvQueue h).symm
theorem kept_presenceTimer : v.presenceTimer = u.presenceTimer := (congrArg State.presenceTimer h).symm
end

/-- Whatever an event gives rise to, it keeps what only its command writes; and where it leaves IN_SERVICE with every
signal at STOP, they stay there. -/
theorem event_keeps {before start : State} {work : Work → Work} (live : before.resetHeld = false)
    (lawful : Lawful start (work (Work.begin start)).st) :
    ∃ v, before.event start work = .next v ∧ start.keep v = v
      ∧ (start.service ≠ .inService → (∀ g : Fin 8, (work (Work.begin start)).st.signals[g].aspect = .stop) →
          ∀ g : Fin 8, v.signals[g].aspect = .stop) := by
  obtain ⟨t, left, u, done, ended, reported⟩ := event_lawful live lawful.kept (Lawful.refl _)
  have signals : u.drained.signals = t.signals := by
    rw [(drained_drained u).same, reported.same]
  refine ⟨_, done, ?_, fun out stopped g => ?_⟩
  · have kept := lawful.kept
    rw [drained_noting, keep_noting, reported.keep (s := { t with agenda := left })]
    have := (lawful.trans ended).kept
    conv_rhs => rw [← this]
    rfl
  · rw [signals]
    have outside : t.service ≠ .inService := by rw [ended.service, lawful.service]; exact out
    exact ended.dark (fun _ => stopped) outside g

theorem lawful_handed (x : RawTelegram) (h : Lawful s t) : Lawful s (t.handed x) :=
  keepRequest_eq t x ▸ lawful_keepRequest x h

/-- A row of the Configuration Loader: what its command writes stays. -/
theorem loader_row {mine : RawTelegram → Bool} {write : Body → State → State} {owner : Nat → Body → Work → Work}
    {c : Instr} {command : Command} (row : exec c s = s.takeFront mine write owner) (live : s.resetHeld = false) (own : ∀ x : RawTelegram, x.isCommand (commandCode command) = mine x)
    (hands : s.handsCommand desk tag command rest)
    (lawful : ∀ start w, Lawful start w.st → Lawful start (owner desk (.command tag command) w).st) :
    ∃ v, exec c s = .next v
      ∧ (write (.command tag command) { s with recvQueue := rest }).keep v = v
      ∧ ((write (.command tag command) { s with recvQueue := rest }).service ≠ .inService →
          (∀ w : Work, ∀ g : Fin 8, (owner desk (.command tag command) w).st.signals[g].aspect = .stop) →
          ∀ g : Fin 8, v.signals[g].aspect = .stop) := by
  obtain ⟨x, queue, rfl, named, passed⟩ := hands
  obtain ⟨v, done, kept, stops⟩ := event_keeps
    (start := write (.command tag command) { s with recvQueue := rest })
    (work := fun w => owner x.source (.command tag command) (w.on (·.handed x))) live
    (lawful _ _ (lawful_handed x (.refl _)))
  exact ⟨v, (row.trans (takeFront_hands queue ((own x).symm.trans named) passed)).trans done, kept,
    fun out stopped => stops out (stopped _)⟩

/-- What WITHDRAW does and answers is lawful (R196, R197). -/
theorem lawful_withdrawn {start : State} (s : State) (desk : Nat) (tag : Byte) (h : Lawful start w.st) :
    Lawful start (match s.notNow with
      | some reason => w.on (·.answerDesk desk tag 14 (some reason))
      | none => (if s.service = ServiceState.inService then w.withdraw else w).answerLast desk tag 14).st := by
  split
  · exact lawful_answerDesk _ _ _ _ _ h
  · rw [Work.answerLast_st]
    split
    · exact lawful_withdraw h
    · exact h

/-- In IN_SERVICE it leaves every signal at STOP (R197). -/
theorem withdrawn_stops {s : State} (inService : s.service = .inService) (w : Work) (desk : Nat) (tag : Byte)
    (g : Fin 8) : (match s.notNow with
      | some reason => w.on (·.answerDesk desk tag 14 (some reason))
      | none => (if s.service = ServiceState.inService then w.withdraw else w).answerLast desk tag 14).st.signals[g].aspect
        = .stop := by
  rw [notNow_of_use (.inr inService)]
  dsimp only
  rw [if_pos inService, Work.answerLast_st]
  exact withdraw_stops w g

/-- Settles O52. -/
theorem admitAndWithdrawMoveService : Obligations.AdmitAndWithdrawMoveService := by
  intro s desk tag rest live
  refine ⟨fun out hands => ?_, fun out hands => ?_, fun inService hands => ?_⟩
  · obtain ⟨v, done, kept, -⟩ := loader_row (c := .admitCommand) rfl live (fun _ => rfl) hands fun _ _ h =>
      lawful_answerDesk _ _ _ _ _ h
    have written : State.takeAdmission { s with recvQueue := rest }
        = if s.keyOn then State.entered { s with recvQueue := rest } else { s with recvQueue := rest, admission := true } :=
      if_neg (not_not_intro (by exact out))
    rw [written] at kept
    refine ⟨v, done, ?_⟩
    by_cases key : s.keyOn = true
    · rw [if_pos key] at kept
      rw [if_pos key]
      exact ⟨kept_recvQueue kept, (kept_keyOn kept :), (kept_blocking kept :), kept_service kept,
        (kept_admission kept :).trans (by rw [key]; rfl)⟩
    · rw [if_neg key] at kept
      rw [if_neg key]
      exact ⟨kept_recvQueue kept, (kept_keyOn kept :), (kept_blocking kept :), (kept_service kept :).trans out,
        (kept_admission kept :).trans (by rw [Bool.eq_false_of_not_eq_true key]; rfl)⟩
  all_goals
    obtain ⟨v, done, kept, stops⟩ := loader_row (c := .withdraw) rfl live (fun _ => rfl) hands fun _ _ h =>
      lawful_withdrawn s desk tag h
    refine ⟨v, done, ?_⟩
  · have written : State.leaveService { s with recvQueue := rest } = { s with recvQueue := rest, admission := false } := by
      unfold State.leaveService
      rw [show ({ s with recvQueue := rest } : State).service = .outOfService from out]
    rw [written] at kept
    exact ⟨(kept_recvQueue kept :), (kept_service kept).trans out, (kept_admission kept :), (kept_blocking kept :)⟩
  · have written : State.leaveService { s with recvQueue := rest }
        = { s with recvQueue := rest, service := .outOfService } := by
      unfold State.leaveService
      rw [show ({ s with recvQueue := rest } : State).service = .inService from inService]
    rw [written] at kept stops
    have stopped := stops (show ServiceState.outOfService ≠ .inService by decide) fun w g =>
      withdrawn_stops inService w desk tag g
    refine ⟨(kept_recvQueue kept :), (kept_service kept :), ?_, (kept_blocking kept :), stopped⟩
    simp [State.inServiceOutput, kept_service kept]

/-- Settles O8. -/
theorem holdAndKeyMoveService : Obligations.HoldAndKeyMoveService := by
  refine ⟨fun s live joining runs => ?_, fun s live out off => ?_, fun s live inService on => ?_⟩
  · obtain ⟨v, done, kept, -⟩ := event_keeps (start := { s with service := .outOfService, startHoldTimer := none })
      (work := id) live (.refl _)
    exact ⟨v, (if_pos ⟨runs, joining⟩).trans done, (kept_service kept :), (kept_startHoldTimer kept :), (kept_keyOn kept :),
      (kept_admission kept :), (kept_cfg kept :), (kept_blocking kept :)⟩
  · have turns : execKeyStateChange 31 s =
        if s.admission then s.event (State.entered { s with keyOn := true }) id
        else s.event { s with keyOn := true } id := by
      have sampled : s.sampling = true := by simp [State.sampling, live, out]
      unfold execKeyStateChange
      rw [show agreedLevel 31 = some true by decide]
      simp [sampled, off, out]
    cases marked : s.admission with
    | false =>
      obtain ⟨v, done, kept, -⟩ := event_keeps (start := { s with keyOn := true }) (work := id) live (.refl _)
      refine ⟨v, (turns.trans (if_neg (by simp [marked]))).trans done, (kept_keyOn kept :),
        (kept_admission kept).trans marked, (kept_service kept).trans out, (kept_cfg kept :), (kept_blocking kept :)⟩
    | true =>
      obtain ⟨v, done, kept, -⟩ := event_keeps (start := State.entered { s with keyOn := true }) (work := id) live
        (.refl _)
      exact ⟨v, (turns.trans (if_pos marked)).trans done, (kept_keyOn kept :), (kept_admission kept :), (kept_service kept :),
        (kept_cfg kept :), (kept_blocking kept :)⟩
  · have turns : execKeyStateChange 0 s = s.event { s with keyOn := false, service := .outOfService } Work.withdraw := by
      have sampled : s.sampling = true := by simp [State.sampling, live, inService]
      unfold execKeyStateChange
      rw [show agreedLevel 0 = some false by decide]
      simp [sampled, on, inService]
    obtain ⟨v, done, kept, stops⟩ := event_keeps (start := { s with keyOn := false, service := .outOfService })
      (work := Work.withdraw) live (lawful_withdraw (.refl _))
    refine ⟨v, turns.trans done, (kept_service kept :), (kept_keyOn kept :), ?_, (kept_blocking kept :), (kept_cfg kept :),
      (kept_captureTimer kept :), stops (show ServiceState.outOfService ≠ .inService by decide) (withdraw_stops _)⟩
    simp [State.inServiceOutput, kept_service kept]

end

end Sys2Proof.Machine
end

section
/-! PROOFS. BLOCK and UNBLOCK (R12, R13), the draining of the report queue (R178), and the telegrams that fail the checks
of the receive queue (R75, R76). -/

namespace Sys2Proof.Machine

section
variable {s t : State} {desk n : Nat} {tag : Byte} {rest : List RawTelegram} {e : Elem} {kind : BlockKind}

/-! ## The blocking table (R12, R13) -/

/-- The state with another blocking table. -/
def State.blocked (s : State) (table : List (Elem × BlockKind)) : State := { s with blocking := table }

@[simp] theorem blocked_sections (s : State) (table : List (Elem × BlockKind)) : (s.blocked table).sections = s.sections := rfl
@[simp] theorem blocked_points (s : State) (table : List (Elem × BlockKind)) : (s.blocked table).points = s.points := rfl
@[simp] theorem blocked_signals (s : State) (table : List (Elem × BlockKind)) : (s.blocked table).signals = s.signals := rfl
@[simp] theorem blocked_remote (s : State) (table : List (Elem × BlockKind)) : (s.blocked table).remote = s.remote := rfl
@[simp] theorem blocked_instances (s : State) (table : List (Elem × BlockKind)) : (s.blocked table).instances = s.instances := rfl
@[simp] theorem blocked_lastEnded (s : State) (table : List (Elem × BlockKind)) : (s.blocked table).lastEnded = s.lastEnded := rfl
@[simp] theorem blocked_reservations (s : State) (table : List (Elem × BlockKind)) : (s.blocked table).reservations = s.reservations := rfl
@[simp] theorem blocked_register (s : State) (table : List (Elem × BlockKind)) : (s.blocked table).register = s.register := rfl
@[simp] theorem blocked_cfg (s : State) (table : List (Elem × BlockKind)) : (s.blocked table).cfg = s.cfg := rfl
@[simp] theorem blocked_recvQueue (s : State) (table : List (Elem × BlockKind)) : (s.blocked table).recvQueue = s.recvQueue := rfl
@[simp] theorem blocked_agenda (s : State) (table : List (Elem × BlockKind)) : (s.blocked table).agenda = s.agenda := rfl
@[simp] theorem blocked_sendQueue (s : State) (table : List (Elem × BlockKind)) : (s.blocked table).sendQueue = s.sendQueue := rfl
@[simp] theorem blocked_blocking (s : State) (table : List (Elem × BlockKind)) : (s.blocked table).blocking = table := rfl

theorem blocked_handed (s : State) (table : List (Elem × BlockKind)) (x : RawTelegram) :
    (s.blocked table).handed x = (s.handed x).blocked table := by
  unfold State.handed State.keepRequest State.changePeer
  split <;> rfl

/-- A row that writes the blocking table and answers does no more. -/
theorem Completes.of_block {c : Instr} {command : Command} {code : Nat} {reason : Option Reason}
    {owner : Nat → Body → Work → Work} {P : State → Prop} {table : List (Elem × BlockKind)}
    (row : exec c s = s.takeFront (·.isCommand (commandCode command)) blockWrite owner) (ready : s.ready)
    (hands : s.handsCommand desk tag command rest) (room : s.sendQueue.length + 4 ≤ 32)
    (answers : ∀ w, owner desk (.command tag command) w = w.on (·.answerDesk desk tag code reason))
    (written : State.takeBlock { s with recvQueue := rest } command = State.blocked { s with recvQueue := rest } table)
    (h : ∀ t : State, t.recvQueue = rest → t.sameElements s → t.sameRoutes s → t.cfg = s.cfg → t.blocking = table →
      t.answered s desk tag code reason → P t) : Completes c s P := by
  obtain ⟨x, queue, rfl, own, passed⟩ := hands
  have writes : blockWrite (.command tag command) { s with recvQueue := rest }
      = State.blocked { s with recvQueue := rest } table := written
  refine .of_noted (b := ((s.taking x rest).blocked table).noting
    (s.answerNotes x.source (.commandAnswer tag code reason s.freeByte []))) ?_ fun m after => ?_
  · rw [row, takeFront_hands queue own passed, writes]
    refine event_within (work := fun w => owner x.source (.command tag command) (w.on (·.handed x))) ready rfl
      (.of_eq ?_) rfl ready.2
    rw [answers, Work.on, Work.on, Work.begin_st, blocked_handed, answerDesk_of_room _ _ _ _ _ _ (by exact room)]
    rfl
  · refine h _ (by simp) ⟨?_, ?_, ?_⟩ ⟨?_, ?_, ?_, ?_, ?_⟩ (by simp) (by simp)
      (answered_of_after (index := s.freeByte) (contents := []) after (by simp))
    all_goals simp

/-- A BLOCK that is refused writes nothing. -/
theorem takeBlock_of_refused {reason : Reason} (refused : t.blockRefusal n = some reason) :
    t.takeBlock (.block n kind) = t.blocked t.blocking := by
  unfold State.takeBlock
  simp only [refused]
  rfl

theorem takeBlock_of_accepted (accepted : t.blockRefusal n = none) (named : t.equippedElem n = some e) :
    t.takeBlock (.block n kind) = t.writeBlock e kind := by
  unfold State.takeBlock
  simp only [accepted, named]

theorem takeUnblock_of_refused {reason : Reason} (refused : t.elementRefusal n = some reason) :
    t.takeBlock (.unblock n) = t.blocked t.blocking := by
  unfold State.takeBlock
  simp only [refused]
  rfl

theorem takeUnblock_of_accepted (accepted : t.elementRefusal n = none) (named : t.equippedElem n = some e) :
    t.takeBlock (.unblock n) = t.blocked (t.blocking.filter (·.1 != e)) := by
  unfold State.takeBlock
  simp only [accepted, named]
  rfl

/-- The element that is blocked again, or joins the table, has the new block (R12). -/
theorem blockOf_written : (t.writeBlock e kind).blockOf e = some kind := by
  unfold State.blockOf State.writeBlock State.isBlocked
  dsimp only
  split
  · next listed =>
    generalize t.blocking = table at listed
    induction table with
    | nil => simp at listed
    | cons x xs ih =>
      rw [List.map_cons, List.find?_cons]
      by_cases same : x.1 = e
      · simp [same]
      · have away : (x.1 == e) = false := by simpa using same
        rw [List.any_cons, away, Bool.false_or] at listed
        rw [if_neg same, away]
        exact ih listed
  · next free =>
    have absent : ∀ x ∈ t.blocking, ¬(x.1 == e) = true := by
      intro x hx same
      exact free (List.any_eq_true.mpr ⟨x, hx, same⟩)
    rw [List.find?_append, List.find?_eq_none.mpr absent]
    simp

/-- A judgement of a blocked element, but for the EXIT of a route at a signal, is refused BLOCKED (R13, R14, R15). -/
theorem judge_blocked {entry : Option (Fin 8)} {q : LockReq} (block : t.blockOf e = some kind)
    (equipped : t.equipped e = true) (named : elemOfNumber q.elem = some e) (fit : fits e q.role q.state = true)
    (barred : kind = .noRoute ∨ (∃ x, e = .signal x) ∨ ∃ x, e = .boundary x)
    (used : ∀ x, e = .signal x → q.role ≠ .exit) : t.judge entry [] [q] = some ⟨.blocked, q.index⟩ := by
  have one : t.judgeOne entry [] e q = some .blocked := by
    unfold State.judgeOne
    rw [equipped, fit, block]
    simp only [Bool.not_true, Bool.false_eq_true, if_false, List.contains_nil, Bool.or_false, Option.some.injEq,
      Option.isSome_some, Bool.true_and]
    cases e with
    | signal x =>
      have := used x rfl
      cases role : q.role <;> simp_all
    | boundary x => simp
    | track i => simp_all
    | points p => simp_all
  unfold State.judge
  rw [named]
  simp only [one]

/-- A judgement of an element that is not blocked is not refused BLOCKED (R13, R15). -/
theorem judgeOne_unblocked {entry : Option (Fin 8)} {seen : List Elem} {q : LockReq} (free : t.blockOf e = none) :
    t.judgeOne entry seen e q ≠ some .blocked := by
  have kinds : t.kindCheck e q ≠ some .blocked := by
    cases e with
    | points p =>
      simp only [State.kindCheck, free]
      split_ifs <;> simp_all
    | track i => simp only [State.kindCheck]; split_ifs <;> simp
    | signal g => simp only [State.kindCheck]; split_ifs <;> simp
    | boundary b => simp [State.kindCheck]
  unfold State.judgeOne
  rw [free]
  repeat' split
  all_goals simp_all

theorem blockRefusal_of_named (use : s.service = .outOfService ∨ s.service = .inService)
    (named : s.equippedElem n = some e) :
    s.blockRefusal n = if !s.isBlocked e && decide (8 ≤ s.blocking.length) then some .tableFull else none := by
  unfold State.blockRefusal
  rw [elementRefusal_of_use use named, named]

theorem blockRefusal_of_unequipped (use : s.service = .outOfService ∨ s.service = .inService)
    (named : s.equippedElem n = none) : s.blockRefusal n = some .unknownElement := by
  unfold State.blockRefusal
  rw [elementRefusal_of_unequipped use named]

/-- What a BLOCK does, by what it names (R12). -/
theorem block_completes {P : State → Prop} (ready : s.ready) (use : s.service = .outOfService ∨ s.service = .inService)
    (hands : s.handsCommand desk tag (.block n kind) rest) (room : s.sendQueue.length + 4 ≤ 32)
    (h : ∀ t : State, t.recvQueue = rest → t.sameElements s → t.sameRoutes s → t.cfg = s.cfg →
      (s.equippedElem n = none → t.blocking = s.blocking ∧ t.answered s desk tag 4 (some .unknownElement)) →
      (∀ e, s.equippedElem n = some e →
        if s.isBlocked e then
          t.blocking = s.blocking.map (fun x => if x.1 = e then (e, kind) else x) ∧ t.blockOf e = some kind
            ∧ t.answered s desk tag 4 none
        else if 8 ≤ s.blocking.length then
          t.blocking = s.blocking ∧ t.answered s desk tag 4 (some .tableFull)
        else t.blocking = s.blocking ++ [(e, kind)] ∧ t.blockOf e = some kind ∧ t.answered s desk tag 4 none) → P t) :
    Completes .block s P := by
  cases named : s.equippedElem n with
  | none =>
    have refused := blockRefusal_of_unequipped use named
    refine Completes.of_block rfl ready hands room (fun w => rfl) (takeBlock_of_refused refused) fun t queue elems routes
      cfg table answered => h t queue elems routes cfg (fun _ => ⟨table, refused ▸ answered⟩) fun e other => ?_
    rw [named] at other
    cases other
  | some e =>
    have refusal := blockRefusal_of_named use named
    by_cases full : (!s.isBlocked e && decide (8 ≤ s.blocking.length)) = true
    · rw [if_pos full] at refusal
      refine Completes.of_block rfl ready hands room (fun w => rfl) (takeBlock_of_refused refusal) fun t queue elems routes
        cfg table answered => h t queue elems routes cfg (fun other => ?_) fun e' other => ?_
      · rw [named] at other
        cases other
      · rw [named] at other
        cases other
        obtain ⟨free, many⟩ : s.isBlocked e = false ∧ 8 ≤ s.blocking.length := by simpa using full
        rw [if_neg (by simp [free]), if_pos many]
        exact ⟨table, refusal ▸ answered⟩
    · rw [if_neg full] at refusal
      refine Completes.of_block (table := (s.writeBlock e kind).blocking) rfl ready hands room (fun w => rfl)
        (takeBlock_of_accepted refusal named) fun t queue elems routes
        cfg table answered => h t queue elems routes cfg (fun other => ?_) fun e' other => ?_
      · rw [named] at other
        cases other
      · rw [named] at other
        cases other
        have block : t.blockOf e = some kind := by
          unfold State.blockOf
          rw [table]
          exact blockOf_written
        rw [refusal] at answered
        unfold State.writeBlock at table
        dsimp only at table
        split
        · next listed =>
          rw [if_pos listed] at table
          exact ⟨table, block, answered⟩
        · next free =>
          rw [if_neg free] at table
          rw [if_neg fun many => full (by simp [free, many])]
          exact ⟨table, block, answered⟩

/-- Settles O48. -/
theorem blockingCommandsWriteTheTable : Obligations.BlockingCommandsWriteTheTable := by
  intro s desk tag n rest ready use room
  refine ⟨fun kind hands => block_completes ready use hands room fun t queue elems routes _ unknown written =>
    ⟨queue, elems, routes, unknown, written⟩, fun kind hands => block_completes ready use hands room
    fun t _ _ _ cfg _ _ e entry q block named number fit barred used => ?_, fun hands => ?_⟩
  · refine judge_blocked block ?_ number fit barred used
    have equipped : s.equipped e = true := (Option.filter_eq_some_iff.mp named).2
    cases e <;> simpa [State.equipped, cfg] using equipped
  · cases named : s.equippedElem n with
    | none =>
      have refused := elementRefusal_of_unequipped use named
      refine Completes.of_block rfl ready hands room (fun w => rfl) (takeUnblock_of_refused refused)
        fun t queue elems routes _ table answered => ⟨queue, elems, routes, fun _ => ⟨table, refused ▸ answered⟩, ?_⟩
      intro e other
      cases other
    | some e =>
      have accepted := elementRefusal_of_use use named
      refine Completes.of_block rfl ready hands room (fun w => rfl) (takeUnblock_of_accepted accepted named)
        fun t queue elems routes _ table answered => ⟨queue, elems, routes, fun other => ?_, fun e' other => ?_⟩
      · cases other
      · cases other
        have free : t.blockOf e = none := by
          unfold State.blockOf
          rw [table]
          simp
        exact ⟨table, free, accepted ▸ answered, fun _ _ _ => judgeOne_unblocked free⟩


/-! ## Draining (R178) -/

/-- What draining leaves of the queues (R178). -/
theorem drain_queues (k : Nat) (s : State) : ∃ (j : Nat) (more : List SendEntry),
    (State.drain k s).reports = s.reports.drop j ∧ (State.drain k s).sendQueue = s.sendQueue ++ more := by
  obtain ⟨-, ⟨more, sent⟩, ⟨gone, split⟩, -⟩ := drained_drain k s
  refine ⟨gone.length, more, ?_, sent⟩
  rw [← split]
  simp

/-- Settles O53. -/
theorem drainingReportsTheOldest : Obligations.DrainingReportsTheOldest := by
  intro s x xs ready used waiting few room
  have done : exec .reportDrain s = .next s.drained :=
    event_unshown (before := s) (start := s) (work := id) (b := s) ready rfl rfl rfl rfl
      ⟨fun _ => rfl, fun _ => rfl, rfl, rfl, rfl, rfl, rfl, rfl, rfl, rfl, rfl, rfl, rfl, rfl⟩
  have first : s.drained = State.drain 44 s.drainOne := by
    show (if s.lineUsed && !s.reports.isEmpty && s.room 3 then State.drain 44 s.drainOne else s) = _
    rw [if_pos]
    simp [used, waiting, room_of_le (cls := 3) (s := s) room]
  have one : s.drainOne.reports = xs ∧ s.drainOne.sendQueue
      = s.sendQueue ++ [placed 0 (.report (subjectCode x) s.captureTimer (s.contents x))] := by
    unfold State.drainOne
    rw [waiting]
    exact ⟨rfl, rfl⟩
  obtain ⟨j, more, left, sent⟩ := drain_queues 44 s.drainOne
  rw [← first] at left sent
  have same := (drained_drained s).same
  have line : s.drained.lineUsed = true := by
    unfold State.lineUsed
    rw [same]
    exact used
  refine ⟨_, done, ?_, ?_, ?_, drained_counts s, ⟨j, left.trans (by rw [one.1])⟩, drained_ends s line, more, ?_⟩
  · rw [same]; exact ⟨rfl, rfl, rfl⟩
  · rw [same]; exact ⟨rfl, rfl, rfl, rfl, rfl⟩
  · rw [same]
  · rw [sent, one.2, List.append_assoc]
    rfl


/-! ## The checks of the receive queue (R75, R76, R81) -/

section
variable {x : RawTelegram} {k : Kind} {body : Body} {p : PeerEntry}

theorem turnAway_of_kind (known : Kind.ofCode x.kind = some k) (reason : Reason) :
    s.turnAway x reason = if k.tagged then .refused (s.refusalOf k x.bytes reason) else .ignored := by
  unfold State.turnAway
  rw [known]

/-- The checks where the peer table is loaded (R75). -/
theorem vet_eq (loaded : s.service ≠ .configFault) : s.vet x = s.vetFrom x := if_neg loaded

theorem vetFrom_of_absent (absent : s.peer x.source = none) : s.vetFrom x = s.turnAway x .notPermitted := by
  unfold State.vetFrom
  rw [absent]

theorem vetFrom_of_wrong (there : s.peer x.source = some p) (wrong : wrongSender p.role (Kind.ofCode x.kind) = true) :
    s.vetFrom x = s.turnAway x .notPermitted := by
  unfold State.vetFrom
  rw [there]
  exact if_pos wrong

/-- A telegram that check 3 does not pass has no further check. -/
theorem vetFrom_of_form {v : Vetting} (there : s.peer x.source = some p)
    (right : ¬wrongSender p.role (Kind.ofCode x.kind) = true) (form : s.formCheck x = v)
    (stops : ∀ body, v ≠ .passed body) : s.vetFrom x = v := by
  unfold State.vetFrom
  rw [there]
  dsimp only
  rw [if_neg right, form]
  cases v with
  | passed body => exact absurd rfl (stops body)
  | _ => rfl

/-- The checks 4 and 5. -/
theorem vetFrom_of_passed (there : s.peer x.source = some p) (known : Kind.ofCode x.kind = some k)
    (right : ¬wrongSender p.role (some k) = true) (form : s.formCheck x = .passed body) :
    s.vetFrom x = if k.request = true ∧ p.state ≠ .present then s.turnAway x .peerAbsent
      else if k.tagged = true ∧ p.lastRequest = some (tagOf x.bytes, x.kind) then .ignored
      else .passed body := by
  unfold State.vetFrom
  rw [there, known]
  dsimp only
  rw [if_neg right, form]
  simp only [Option.any_some, Bool.and_eq_true, bne_iff_ne, beq_iff_eq, ne_eq]

/-- Check 2 (R75). -/
theorem wrongSender_iff (role : PeerRole) (k : Kind) : wrongSender role (some k) = true
    ↔ k = .command ∧ role ≠ .desk ∨ k.request = true ∧ k ≠ .command ∧ role ≠ .neighbour := by
  cases k <;> cases role <;> decide

theorem formCheck_unexamined (known : Kind.ofCode x.kind = some k) (cls : k.cls = x.cls) (h : k.unexamined = true) :
    s.formCheck x = .ignored := by
  unfold State.formCheck
  rw [known]
  exact if_pos ⟨cls, h⟩

theorem formCheck_decoded (known : Kind.ofCode x.kind = some k) (cls : k.cls = x.cls) (h : k.unexamined = false)
    (decoded : decodeBody k x.bytes = some body) : s.formCheck x = .passed body := by
  unfold State.formCheck
  rw [known]
  dsimp only
  rw [if_neg (by simp [h]), if_pos cls, decoded]

theorem formCheck_malformed (known : Kind.ofCode x.kind = some k) (examined : ¬(k.cls = x.cls ∧ k.unexamined = true))
    (broken : k.cls = x.cls → decodeBody k x.bytes = none) :
    s.formCheck x = if k.tagged then .refused (s.refusalOf k x.bytes .badTelegram) else .lineError := by
  unfold State.formCheck
  rw [known]
  dsimp only
  have none : (if k.cls = x.cls then decodeBody k x.bytes else Option.none) = Option.none := by
    split
    · next cls => exact broken cls
    · rfl
  rw [if_neg examined, none]

/-- Settles O28. -/
theorem checksPassOrTurnAway : Obligations.ChecksPassOrTurnAway := by
  intro s x k body loaded known turned
  have away := turnAway_of_kind (s := s) known
  rw [vet_eq loaded]
  refine ⟨fun absent => (vetFrom_of_absent absent).trans (away _), fun p there => ?_⟩
  refine ⟨fun command role => (vetFrom_of_wrong there ?_).trans (away _),
    fun request other role => (vetFrom_of_wrong there ?_).trans (away _), fun desk neighbour => ?_⟩
  · rw [known]
    exact (wrongSender_iff _ _).mpr (.inl ⟨command, role⟩)
  · rw [known]
    exact (wrongSender_iff _ _).mpr (.inr ⟨request, other, role⟩)
  · have right : ¬wrongSender p.role (some k) = true := fun wrong =>
      ((wrongSender_iff _ _).mp wrong).elim (fun h => h.2 (desk h.1)) fun h => h.2.2 (neighbour h.1 h.2.1)
    refine ⟨fun examined broken => vetFrom_of_form there (known ▸ right) (formCheck_malformed known examined broken) ?_,
      fun cls unexamined => vetFrom_of_form there (known ▸ right) (formCheck_unexamined known cls unexamined) ?_,
      fun cls decoded examined =>
        (vetFrom_of_passed there known right (formCheck_decoded known cls examined decoded)).trans (by rw [away])⟩
    · intro body
      split <;> exact Vetting.noConfusion
    · intro body
      exact Vetting.noConfusion

/-! ## Telegrams of unknown kind, and telegrams that a controller ignores (R75, R76) -/

/-- A row takes its telegram from the queue, whatever the checks make of it. -/
theorem takeTelegram_event {mine : RawTelegram → Bool} {owner : Nat → Body → Work → Work} {v : Vetting}
    (queue : s.recvQueue = x :: rest) (own : mine x = true) (vetted : s.vet x = v) :
    s.takeTelegram mine owner = s.event { s with recvQueue := rest } fun w => w.vetted x owner v := by
  unfold State.takeTelegram State.takeFront
  rw [queue]
  dsimp only
  rw [if_pos own, vetted]
  cases v <;> rfl

theorem formCheck_unknown (unknown : Kind.ofCode x.kind = none) : s.formCheck x =
    if x.cls = 1 then .refused (s.refusalOfUnknown x.bytes) else .lineError := by
  unfold State.formCheck
  rw [unknown]

theorem vet_unknown (loaded : s.service ≠ .configFault) (there : s.peer x.source = some p)
    (unknown : Kind.ofCode x.kind = none) : s.vet x =
    if x.cls = 1 then .refused (s.refusalOfUnknown x.bytes) else .lineError := by
  rw [vet_eq loaded]
  refine vetFrom_of_form there (by rw [unknown]; simp [wrongSender]) (formCheck_unknown unknown) fun body => ?_
  split <;> exact Vetting.noConfusion

/-- Settles O29. -/
theorem unknownAndIgnoredTelegrams : Obligations.UnknownAndIgnoredTelegrams := by
  intro s x rest p ready loaded queue there
  have ignored {k : Kind} (known : Kind.ofCode x.kind = some k) (cls : k.cls = x.cls) (h : k.unexamined = true)
      (role : ∀ r, wrongSender r (some k) = false) (own : x.isIgnored = true) :
      CompletesDraining .commandAnswerReceived s (· = { s with recvQueue := rest }) := by
    have vetted : s.vet x = .ignored := by
      rw [vet_eq loaded]
      exact vetFrom_of_form there (by rw [known, role]; decide) (formCheck_unexamined known cls h)
        fun body => Vetting.noConfusion
    refine ⟨_, (takeTelegram_event (mine := RawTelegram.isIgnored) queue own vetted).trans ?_, rfl⟩
    exact event_unshown (before := s) (start := { s with recvQueue := rest }) (work := fun w => w.vetted x _ .ignored)
      (b := { s with recvQueue := rest }) ready rfl rfl rfl rfl
      ⟨fun _ => rfl, fun _ => rfl, rfl, rfl, rfl, rfl, rfl, rfl, rfl, rfl, rfl, rfl, rfl, rfl⟩
  refine ⟨fun unknown cls => ?_, fun unknown cls room => ?_, fun kind cls => ?_, fun kind cls => ?_⟩
  · have vetted := (vet_unknown loaded there unknown).trans (if_neg cls)
    have own : x.isUnknown = true := by simp [RawTelegram.isUnknown, unknown]
    refine .of_noted (b := State.countFault { s with recvQueue := rest } .lineError .controller none) ?_ fun n after => ?_
    · obtain ⟨u, done, noted⟩ := event_within (before := s) (start := { s with recvQueue := rest })
        (work := fun w => w.vetted x (fun _ _ w => w) .lineError)
        (b := State.countFault { s with recvQueue := rest } .lineError .controller none)
        ready rfl ⟨noted_recordFault _ _ _ _, rfl⟩ rfl ready.2
      exact ⟨u, (takeTelegram_event (mine := RawTelegram.isUnknown) queue own vetted).trans done, noted⟩
    · exact ⟨rfl, ⟨rfl, rfl, rfl⟩, ⟨rfl, rfl, rfl, rfl, rfl⟩, (after.counts .lineError (by decide)).trans
        ((countFault_counts _ _ _ _ _).trans (if_pos rfl))⟩
  · have vetted := (vet_unknown loaded there unknown).trans (if_pos cls)
    have own : x.isUnknown = true := by simp [RawTelegram.isUnknown, unknown]
    refine .of_placed (b := State.noting { s with recvQueue := rest }
      { s.notes with sendQueue := s.sendQueue ++ [placed x.source (s.refusalOfUnknown x.bytes)], fresh := s.fresh + 4 })
      ((takeTelegram_event (mine := RawTelegram.isUnknown) queue own vetted).trans
        (event_places (work := fun w => w.vetted x _ (.refused (s.refusalOfUnknown x.bytes))) ready rfl ?_ rfl ready.2 rfl
          rfl)) fun rs => ?_
    · have free : State.room { s with recvQueue := rest } 0 = true := room_of_le (cls := 0) room
      have answered : (Work.begin { s with recvQueue := rest }).reply x.source (s.refusalOfUnknown x.bytes) =
          (Work.begin { s with recvQueue := rest }).on (·.enqueue ⟨x.source, s.refusalOfUnknown x.bytes⟩) :=
        (if_pos (show Kind.reserveAnswer.cls = 0 by decide)).trans (if_pos free)
      show ((Work.begin { s with recvQueue := rest }).reply x.source (s.refusalOfUnknown x.bytes)).on (·.draw 4) = _
      rw [answered]
      rfl
    · exact ⟨rfl, ⟨rfl, rfl, rfl⟩, ⟨rfl, rfl, rfl, rfl, rfl⟩, rfl, _, rfl⟩
  · rcases kind with e | e
    · have known : Kind.ofCode x.kind = some .commandAnswer := by rw [e]; decide
      exact ignored known (by rw [cls]; decide) rfl (fun r => by cases r <;> decide)
        (by simp [RawTelegram.isIgnored, RawTelegram.isKind, known])
    · have known : Kind.ofCode x.kind = some .alert := by rw [e]; decide
      exact ignored known (by rw [cls]; decide) rfl (fun r => by cases r <;> decide)
        (by simp [RawTelegram.isIgnored, RawTelegram.isKind, known])
  · have known : Kind.ofCode x.kind = some .report := by rw [kind]; decide
    exact ignored known (by rw [cls]; decide) rfl (fun r => by cases r <;> decide)
      (by simp [RawTelegram.isIgnored, RawTelegram.isKind, known])

end

end

end Sys2Proof.Machine
end

section
/-! PROOFS. The occupancy filter while OCCUPIED and UNDECIDED, and the expiry of its clear timer (O10). -/

namespace Sys2Proof.Machine

section
variable {r : SectionRec}

/-- A sample given to an OCCUPIED filter (R22). -/
theorem sample_of_occupied (c : SectionCfg) (occupied : Bool) (h : r.filter = .occupied) :
    r.sample c occupied =
      if occupied then ({ r with clearTimer := none }, .none)
      else if r.clearTimer.isSome then (r, .none)
      else if c.clearDelay = 0 then r.filterClears
      else ({ r with clearTimer := some (10 * c.clearDelay) }, .none) := by
  unfold SectionRec.sample
  rw [h]
  cases occupied <;> rfl

/-- A sample given to an UNDECIDED filter (R23). -/
theorem sample_of_undecided (c : SectionCfg) (occupied : Bool) (h : r.filter = .undecided) :
    r.sample c occupied =
      if occupied then
        if c.samples ≤ r.occupiedRun + 1 then
          ({ r with filter := .occupied, occupiedRun := 0, clearTimer := none }, .none)
        else ({ r with occupiedRun := r.occupiedRun + 1, clearTimer := none }, .none)
      else if r.clearTimer.isSome then ({ r with occupiedRun := 0 }, .none)
      else if c.clearDelay = 0 then r.filterClears
      else ({ r with occupiedRun := 0, clearTimer := some (10 * c.clearDelay) }, .none) := by
  unfold SectionRec.sample
  rw [h]
  cases occupied <;> rfl

/-- Occupancy and supervision follow the filter (R4). -/
theorem occupied_of_filter {f : FilterState} (h : r.filter = f) : r.occupied = (f != .clear) := by
  rw [SectionRec.occupied, h]

theorem supervision_of_filter {f : FilterState} (h : r.filter = f) :
    r.supervision = if f = .undecided then .unproven else .proven := by
  rw [SectionRec.supervision, h]

end

/-- CLEAR_TIMER_EXPIRY completes with the filter CLEAR where the timer runs (R22, R23). -/
theorem clearTimerExpiry_writes {i : Fin 16} {s : State} (sampling : s.sampling = true)
    (equipped : s.equipped (.track i) = true) (runs : s.sections[i].clearTimer.isSome = true) :
    Completes (.clearTimerExpiry i) s fun t => t.sections[i].sensed = s.sections[i].filterClears.1.sensed := by
  have made : s.sections[i].clearExpiry = s.sections[i].filterClears := if_pos runs
  obtain ⟨t, done, e⟩ := event_sensed (before := s) (start := s)
    (work := fun w => w.takeFilter i w.st.sections[i].clearExpiry) (live_of_sampling sampling)
  refine ⟨t, ?_, ?_⟩
  · show execClearTimerExpiry i s = _
    unfold execClearTimerExpiry
    rw [if_pos ⟨sampling, equipped⟩, done]
  · dsimp only
    rw [← State.sensed_get, e, State.sensed_get, takeFilter_sensed, Work.begin_st, made]
    rfl

/-- Settles O10. -/
theorem occupiedAndUndecidedFilterDecide : Obligations.OccupiedAndUndecidedFilterDecide := by
  refine ⟨fun i occupied s c sampling named filter => ?_, fun i occupied s c sampling named filter => ?_,
    fun i s sampling equipped runs => ?_⟩
  · obtain ⟨t, done, written⟩ := sectionSample_writes i occupied s c sampling named
    refine ⟨t, done, ?_⟩
    rw [sample_of_occupied c occupied filter] at written
    dsimp only at written ⊢
    split
    · next on =>
      rw [if_pos on] at written
      obtain ⟨new, run, timer, capture⟩ := sensed_inj written
      exact ⟨capture, new.trans filter, timer⟩
    · next off =>
      rw [if_neg off] at written
      split
      · next running =>
        rw [if_pos running] at written
        obtain ⟨new, run, timer, capture⟩ := sensed_inj written
        exact ⟨capture, new.trans filter, timer⟩
      · next stopped =>
        rw [if_neg stopped] at written
        split
        · next soon =>
          rw [if_pos soon] at written
          obtain ⟨new, run, timer, capture⟩ := sensed_inj written
          exact ⟨capture, new, run, timer, occupied_of_filter new⟩
        · next later =>
          rw [if_neg later] at written
          obtain ⟨new, run, timer, capture⟩ := sensed_inj written
          exact ⟨capture, new.trans filter, timer⟩
  · obtain ⟨t, done, written⟩ := sectionSample_writes i occupied s c sampling named
    refine ⟨t, done, ?_⟩
    rw [sample_of_undecided c occupied filter] at written
    dsimp only at written ⊢
    split
    · next on =>
      rw [if_pos on] at written
      split
      · next reached =>
        rw [if_pos reached] at written
        obtain ⟨new, run, timer, capture⟩ := sensed_inj written
        exact ⟨capture, timer, occupied_of_filter new, new, run, supervision_of_filter new⟩
      · next short =>
        rw [if_neg short] at written
        obtain ⟨new, run, timer, capture⟩ := sensed_inj written
        have new := new.trans filter
        exact ⟨capture, timer, occupied_of_filter new, new, run, supervision_of_filter new⟩
    · next off =>
      rw [if_neg off] at written
      split
      · next running =>
        rw [if_pos running] at written
        obtain ⟨new, run, timer, capture⟩ := sensed_inj written
        exact ⟨capture, run, new.trans filter, timer⟩
      · next stopped =>
        rw [if_neg stopped] at written
        split
        · next soon =>
          rw [if_pos soon] at written
          obtain ⟨new, run, timer, capture⟩ := sensed_inj written
          exact ⟨capture, run, new, timer, supervision_of_filter new⟩
        · next later =>
          rw [if_neg later] at written
          obtain ⟨new, run, timer, capture⟩ := sensed_inj written
          exact ⟨capture, run, new.trans filter, timer⟩
  · obtain ⟨t, done, written⟩ := clearTimerExpiry_writes sampling equipped runs
    refine ⟨t, done, ?_⟩
    obtain ⟨new, run, timer, capture⟩ := sensed_inj written
    exact ⟨new, run, timer, occupied_of_filter new, supervision_of_filter new, capture⟩

end Sys2Proof.Machine
end

section
/-! PROOFS. The image and the line: IMAGE_CHECK, contending, a frame received and the presence period (O6, O7, O20,
O23, O25). Their events have no tasks, so each is followed by the one lemma that fits what it shows and notes. -/

namespace Sys2Proof.Machine

/-! ## Announcing (R82) -/

theorem noted_announce (s : State) : Noted s s.announce := noted_post _ _ _

/-- Settles O6. -/
theorem rejectedImageEntersConfigFault : Obligations.RejectedImageEntersConfigFault := by
  intro memory inputs s why ready loading rejected
  have row : exec (.imageCheck memory inputs) s = s.event
      { s with service := .configFault, loadResult := why, bitRate := headerRate memory, presenceTimer := some 50 }
      fun w => w.on State.announce := by
    show execImageCheck memory inputs s = _
    unfold execImageCheck
    rw [if_pos loading, rejected]
  refine .of_noted (b := { s with
    service := .configFault, loadResult := why, bitRate := headerRate memory, presenceTimer := some 50 }) ?_ fun n _ =>
    ⟨rfl, rfl, by simp [State.faultOutput, ready.1], by simp [State.inServiceOutput], rfl, rfl, rfl, ⟨rfl, rfl, rfl⟩, ⟨rfl, rfl, rfl, rfl, rfl⟩, rfl⟩
  rw [row]
  exact event_within ready rfl ⟨noted_announce _, rfl⟩ rfl ready.2

/-! ## An accepted image -/

/-- A signal as the command of STOP leaves it: its STOP lamp AWAITING, or LIT where its input is active (R54, R55). -/
def SignalRec.stopped (r : SignalRec) (provingTime : Nat) : SignalRec :=
  if r.stopInput then
    { r with aspect := .stop, stopLamp := .lit, proceedLamp := .dark, provingTimer := none, exitProof := true }
  else { r with aspect := .stop, stopLamp := .awaiting, proceedLamp := .dark, provingTimer := some provingTime }

/-- Without routes and reservations a signal has no exit users. -/
theorem exitTasks_of_vacant {s : State} (vacant : s.vacant) (none : s.reservations = []) (g : Fin 8) (present : Bool) :
    s.exitTasks g present = [] := by
  have empty (u : Fin 8) : s.instances[u.val] = Option.none := vacant u
  unfold State.exitTasks
  simp only [none, Fin.getElem_fin, empty, List.filter_nil, List.map_nil, List.append_nil]
  simp

@[simp] theorem exitTasks_setSignal (s : State) (g h : Fin 8) (r : SignalRec) (present : Bool) :
    (s.setSignal g r).exitTasks h present = s.exitTasks h present := rfl

theorem emit_nil (w : Work) : w.emit [] = w := by
  unfold Work.emit
  rw [List.append_nil]

/-- A STOP lamp that proves where the signal has no exit users (R55, R61). -/
theorem lampLit_stop {w : Work} {g : Fin 8} (stop : w.st.signals[g].aspect = .stop)
    (waits : w.st.signals[g].stopLamp ≠ .interrupted) (unused : w.st.exitTasks g true = []) :
    w.lampLit g = w.on (·.setSignal g
      { w.st.signals[g] with stopLamp := .lit, provingTimer := none, exitProof := true }) := by
  have lamp : w.st.signals[g].litLamp ≠ .interrupted := by
    rwa [SignalRec.litLamp, stop]
  have nobody (r : SignalRec) : (w.on (·.setSignal g r)).emit ((w.on (·.setSignal g r)).st.exitTasks g true) =
      w.on (·.setSignal g r) := by
    rw [Work.on_st, exitTasks_setSignal, unused, emit_nil]
  unfold Work.lampLit SignalRec.withLitLamp
  dsimp only
  rw [if_neg lamp, stop]
  dsimp only
  rw [nobody, ite_self]

/-- An aspect commanded whose lamp proves at once (R54, R55). -/
theorem setAspect_proves {w : Work} {g : Fin 8} {a : Aspect} (lit : w.st.signals[g].input a = true) :
    w.setAspect g a = (w.on (·.setSignal g { w.st.signals[g] with
      aspect := a
      stopLamp := if a = .stop then .awaiting else .dark
      proceedLamp := if a = .proceed then .awaiting else .dark
      provingTimer := some (w.st.signalCfg g).provingTime })).lampLit g := by
  unfold Work.setAspect
  dsimp only
  rw [if_pos]
  cases a <;> simpa [SignalRec.input] using lit

/-- The command of STOP, where the signal has no exit users. -/
theorem setAspect_stops {w : Work} {g : Fin 8} (unused : w.st.exitTasks g true = []) :
    w.setAspect g .stop = w.on (·.setSignal g (w.st.signals[g].stopped (w.st.signalCfg g).provingTime)) := by
  by_cases input : w.st.signals[g].stopInput = true
  · rw [setAspect_proves (a := .stop) input, SignalRec.stopped, if_pos input, lampLit_stop]
    · simp [Work.on]
    · simp
    · simp
    · exact unused
  · rw [setAspect_awaits (g := g) (a := .stop) (Bool.eq_false_of_not_eq_true input), SignalRec.stopped, if_neg input]
    rfl

/-- Lighting the STOP lamps writes the signals alone, where nothing uses them as exit. -/
theorem lightSignals_writes {w : Work} (unused : ∀ g, w.st.exitTasks g true = []) :
    ∃ signals, w.lightSignals = w.on ({ · with signals := signals }) ∧ ∀ g : Fin 8, signals[g] =
      if w.st.cfg.signals[g].isSome then w.st.signals[g].stopped (w.st.signalCfg g).provingTime
      else w.st.signals[g] := by
  have fold (gs : List (Fin 8)) (once : gs.Nodup) (w : Work) (unused : ∀ g, w.st.exitTasks g true = []) :
      ∃ signals, gs.foldl (fun w g => if w.st.cfg.signals[g].isSome then w.setAspect g .stop else w) w
          = w.on ({ · with signals := signals }) ∧ ∀ g : Fin 8, signals[g] =
        if g ∈ gs ∧ w.st.cfg.signals[g].isSome then w.st.signals[g].stopped (w.st.signalCfg g).provingTime
        else w.st.signals[g] := by
    induction gs generalizing w with
    | nil => exact ⟨w.st.signals, rfl, fun g => by simp⟩
    | cons h gs ih =>
      obtain ⟨new, once⟩ := List.nodup_cons.mp once
      rw [List.foldl_cons]
      by_cases equipped : w.st.cfg.signals[h].isSome
      · rw [if_pos equipped, setAspect_stops (unused h)]
        obtain ⟨signals, done, each⟩ := ih once (w.on (·.setSignal h _)) unused
        refine ⟨signals, done, fun g => (each g).trans ?_⟩
        rcases eq_or_ne h g with rfl | other
        · rw [if_neg (fun both => new both.1), if_pos ⟨List.mem_cons_self, equipped⟩]
          simp
        · have apart : ¬ h.val = g.val := fun e => other (Fin.ext e)
          simp [Ne.symm other, apart, State.signalCfg]
      · rw [if_neg equipped]
        obtain ⟨signals, done, each⟩ := ih once w unused
        refine ⟨signals, done, fun g => (each g).trans ?_⟩
        rcases eq_or_ne h g with rfl | other
        · rw [if_neg (fun both => new both.1), if_neg (fun both => equipped both.2)]
        · simp [Ne.symm other]
  obtain ⟨signals, done, each⟩ := fold allEight (by decide) w unused
  have all (g : Fin 8) : g ∈ allEight := by revert g; decide
  exact ⟨signals, done, fun g => (each g).trans (by simp [all g])⟩

/-- The signals and points that an accepted image gives are its own alone (R36, R53). -/
theorem joined_signal (s : State) (c : AreaConfig) (rate : BitRate) (inputs : FieldInputs) (g : Fin 8) :
    (s.joined c rate inputs).signals[g] =
      if c.signals[g].isSome then SignalRec.accepted inputs g else SignalRec.initial := by
  simp [State.joined]

theorem joined_point (s : State) (c : AreaConfig) (rate : BitRate) (inputs : FieldInputs) (p : Fin 8) :
    (s.joined c rate inputs).points[p] =
      if c.points[p].isSome then PointRec.accepted inputs p else PointRec.initial := by
  simp [State.joined]

/-- A signal that an image has accepted, once its STOP lamp is commanded. -/
theorem stopped_accepted (inputs : FieldInputs) (g : Fin 8) (provingTime : Nat) :
    ((SignalRec.accepted inputs g).stopped provingTime).aspect = .stop
      ∧ ((SignalRec.accepted inputs g).stopped provingTime).proceedLamp = .dark
      ∧ ((SignalRec.accepted inputs g).stopped provingTime).stopLamp =
        if inputs.stopProving.getLsbD g.val then .lit else .awaiting := by
  unfold SignalRec.stopped
  by_cases input : (SignalRec.accepted inputs g).stopInput = true
  · rw [if_pos input]
    exact ⟨rfl, rfl, (if_pos input).symm⟩
  · rw [if_neg input]
    exact ⟨rfl, rfl, (if_neg input).symm⟩

/-- Settles O7. -/
theorem acceptedImageEntersJoining : Obligations.AcceptedImageEntersJoining := by
  intro memory inputs s im ready loading accepted vacant nothing
  have row : exec (.imageCheck memory inputs) s = s.event (s.joined im.clamped.1.toConfig im.rate inputs) fun w =>
      ((w.on (·.recordFaults (List.replicate im.clamped.2 .configClamped) .controller)).lightSignals).on
        State.announce := by
    show execImageCheck memory inputs s = _
    unfold execImageCheck
    rw [if_pos loading, accepted]
  generalize start_eq : s.joined im.clamped.1.toConfig im.rate inputs = start at row
  let m := (start.recordFaults (List.replicate im.clamped.2 .configClamped) .controller).notes
  have unused (g : Fin 8) : (Work.begin (start.noting m)).st.exitTasks g true = [] := by
    subst start_eq
    exact exitTasks_of_vacant (s := (s.joined im.clamped.1.toConfig im.rate inputs).noting m) vacant nothing g true
  obtain ⟨signals, lit, each⟩ := lightSignals_writes unused
  have counted : (Work.begin start).on (·.recordFaults (List.replicate im.clamped.2 .configClamped) .controller) =
      Work.begin (start.noting m) := congrArg Work.begin (recordFaults_noting _ _ _)
  refine .of_noted (b := { start.noting m with signals := signals }) ?_ fun n _ => ?_
  · rw [row]
    refine event_within (start := start) ready (by subst start_eq; rfl) ?_ rfl (by subst start_eq; exact ready.2)
    rw [counted, lit]
    exact ⟨noted_announce _, rfl⟩
  · subst start_eq
    refine ⟨rfl, rfl, rfl, rfl, rfl, rfl, rfl, rfl, fun p => ?_, fun g => ?_, rfl, ?_⟩
    · show (s.joined im.clamped.1.toConfig im.rate inputs).points[p].commanded =
        if im.clamped.1.toConfig.points[p].isSome then _ else none
      rw [joined_point]
      split <;> rfl
    · show signals[g].aspect = .stop ∧ signals[g].proceedLamp = .dark ∧ signals[g].stopLamp =
        if im.clamped.1.toConfig.signals[g].isSome then _ else .dark
      have made := each g
      change signals[g] = if im.clamped.1.toConfig.signals[g].isSome then
          (s.joined im.clamped.1.toConfig im.rate inputs).signals[g].stopped _
        else (s.joined im.clamped.1.toConfig im.rate inputs).signals[g] at made
      rw [made, joined_signal]
      split
      · exact stopped_accepted inputs g _
      · exact ⟨rfl, rfl, rfl⟩
    · intro e known
      obtain ⟨named, -, rfl⟩ := List.mem_map.mp known
      exact ⟨rfl, rfl, rfl⟩

/-! ## Contending, and an event that shows nothing -/

/-- An event that does nothing after it has begun ends with the draining, where nothing shown has changed. -/
theorem event_begun {before start : State} (ready : before.ready) (begun : start.agenda = before.agenda)
    (shows : ShowsSame before start) : before.event start id = .next start.drained :=
  event_unshown ready begun rfl (State.keep_self _) begun shows

/-- What only the line writes is not shown. -/
theorem showsSame_line (s : State) (idle : Nat) (gap driven : Bool) (sending : Option (List Bool))
    (recv : List RawTelegram) (send : List SendEntry) : ShowsSame s { s with
      idleCount := idle, yieldGap := gap, slotDriven := driven, sending := sending, recvQueue := recv, sendQueue := send } :=
  ⟨fun _ => rfl, fun _ => rfl, rfl, rfl, rfl, rfl, rfl, rfl, rfl, rfl, rfl, rfl, rfl, rfl⟩

/-- A station that reads the header it sends has not lost (R69). -/
theorem arbitrationLost_self (sent : BitVec 18) : arbitrationLost sent sent = false := by
  simp [arbitrationLost]

/-- Settles O20. -/
theorem contentionWinsOrLosesTheHeader : Obligations.ContentionWinsOrLosesTheHeader := by
  intro idle levels s k e ready used silent next entry enough
  have row : exec (.contention idle levels) s = s.event (s.contend idle levels) id :=
    if_pos (⟨used, silent⟩ : s.lineUsed = true ∧ s.sending = none)
  have contend : s.contend idle levels =
      if arbitrationLost (headerBits s.own e.telegram) levels then { s with idleCount := 0, yieldGap := false }
      else { s with
        idleCount := 0, sending := some (frameLevels s.own e.telegram)
        sendQueue := s.sendQueue.modify k fun e => { e with attempts := e.attempts + 1 } } := by
    unfold State.contend
    rw [next]
    dsimp only
    rw [entry]
    exact if_neg (Nat.not_lt.mpr enough)
  refine ⟨fun own => ⟨_, ?_, rfl⟩, fun lost => ⟨_, ?_, rfl⟩⟩
  · rw [row, contend, own, arbitrationLost_self]
    exact event_begun ready rfl (showsSame_line ..)
  · rw [row, contend, lost]
    exact event_begun ready rfl (showsSame_line ..)

/-! ## Receiving -/

/-- FRAME_RECEIVE of a whole frame takes it as it reads (R67, R71). -/
theorem frameReceive_takes {idle : Nat} {levels : List Bool} {s : State} (used : s.lineUsed = true)
    (silent : s.sending = none) (enough : 11 ≤ idle) :
    exec (.frameReceive idle levels) s = s.takeFrame (readFrame levels) :=
  (if_pos (⟨used, silent⟩ : s.lineUsed = true ∧ s.sending = none)).trans (if_neg (Nat.not_lt.mpr enough))

/-- Settles O23. -/
theorem intactFrameIsTakenAndAcknowledged : Obligations.IntactFrameIsTakenAndAcknowledged := by
  intro idle levels s own ready used silent enough address
  refine ⟨fun x reads room => ⟨_, ?_, rfl⟩, fun x reads full => ⟨_, ?_, rfl⟩, fun reads => ?_⟩
  · rw [frameReceive_takes used silent enough, reads]
    unfold State.takeFrame
    dsimp only
    rw [if_pos address, if_pos room]
    exact event_begun ready rfl (showsSame_line ..)
  · rw [frameReceive_takes used silent enough, reads]
    unfold State.takeFrame
    dsimp only
    rw [if_pos address, if_neg (Nat.not_lt.mpr full)]
    exact event_begun ready rfl (showsSame_line ..)
  · refine .of_noted (b := s.frameTaken.countFault .lineError .controller none) ?_ fun n after =>
      ⟨rfl, rfl, ⟨rfl, rfl, rfl⟩, ⟨rfl, rfl, rfl, rfl, rfl⟩,
        (after.counts .lineError (by decide)).trans ((countFault_counts _ _ _ _ _).trans (if_pos rfl))⟩
    rw [frameReceive_takes used silent enough, reads]
    unfold State.takeFrame
    dsimp only
    simp only [if_pos address]
    exact event_within (work := fun w => w.on (·.recordFault .lineError .controller)) ready rfl
      ⟨noted_recordFault _ _ _ _, rfl⟩ rfl ready.2

/-! ## The presence period -/

/-- PRESENCE_PERIOD starts the period again and announces (R82). -/
theorem presencePeriod_event {s : State} (runs : s.presenceTimer.isSome = true) :
    exec .presencePeriod s =
      s.event { s with presenceTimer := some s.presencePeriod } fun w => w.on State.announce :=
  if_pos runs

theorem room_of_lt {s : State} {cls : Nat} (h : 32 < s.sendQueue.length + requiredFree cls) : s.room cls = false :=
  decide_eq_false (Nat.not_le.mpr h)

/-- A telegram that finds no room is dropped with UNDELIVERED (R73). -/
theorem post_of_full (s : State) (dest : Nat) (body : Body)
    (there : (bodyKind body).cls = 1 → s.isPresent dest = true) (full : s.room (bodyKind body).cls = false) :
    s.post dest body = s.recordFault .undelivered .controller (some dest) := by
  unfold State.post
  dsimp only
  rw [if_neg, if_neg (by rw [full]; exact Bool.false_ne_true)]
  simp only [Bool.and_eq_true, decide_eq_true_eq, Bool.not_eq_true', not_and, Bool.not_eq_false]
  exact there

/-- Settles O25. -/
theorem presencePeriodAnnounces : Obligations.PresencePeriodAnnounces := by
  intro s ready runs
  have announced : State.announce { s with presenceTimer := some s.presencePeriod } =
      State.post { s with presenceTimer := some s.presencePeriod } 0 s.presenceBody := rfl
  have free : (bodyKind s.presenceBody).cls = 1 → State.isPresent { s with presenceTimer := some s.presencePeriod } 0 = true :=
    fun h => absurd (show Kind.presence.cls = 1 from h) (by decide)
  refine ⟨fun room => ⟨{ s with presenceTimer := some s.presencePeriod, sendQueue := s.sendQueue ++ [placed 0 s.presenceBody] },
    (presencePeriod_event runs).trans ?_, rfl, rfl, ⟨rfl, rfl, rfl⟩, ⟨rfl, rfl, rfl, rfl, rfl⟩, rfl, rfl⟩, fun full => ?_⟩
  · refine event_unshown (work := fun w => w.on State.announce) ready rfl ?_ rfl rfl
      ⟨fun _ => rfl, fun _ => rfl, rfl, rfl, rfl, rfl, rfl, rfl, rfl, rfl, rfl, rfl, rfl, rfl⟩
    show (Work.begin _).on State.announce = _
    rw [Work.on, Work.begin_st, announced, post_of_room _ _ _ free (room_of_le (cls := Kind.presence.cls) room)]
    rfl
  · refine .of_noted (b := State.countFault { s with presenceTimer := some s.presencePeriod } .undelivered .controller (some 0))
      ?_ fun n after => ⟨rfl, ⟨rfl, rfl, rfl⟩, ⟨rfl, rfl, rfl, rfl, rfl⟩, ?_⟩
    · rw [presencePeriod_event runs]
      refine event_within (work := fun w => w.on State.announce) ready rfl ⟨?_, rfl⟩ rfl ready.2
      show Noted _ (State.announce { s with presenceTimer := some s.presencePeriod })
      rw [announced, post_of_full _ _ _ free (room_of_lt (cls := Kind.presence.cls) full)]
      exact noted_recordFault _ _ _ _
    · have rises := after.rises .undelivered
      rw [countFault_counts, if_pos rfl] at rises
      exact (min_eq_right (min_le_left _ _)).symm.le.trans rises

end Sys2Proof.Machine
end

section
/-! PROOFS. An event followed task by task from the state it has reached, where what a task does depends on what has
been noted (O21, O22, O24, O26). `Arrives` says of a work and the tasks that wait that they are taken to a work of which
something holds; a break with a peer is followed by it (R87). -/

namespace Sys2Proof.Machine

theorem Near.of_noted {s t : State} (h : Noted s t) : Near (Work.begin s) (Work.begin t) := ⟨h, rfl⟩

/-! ## Tasks from a state that is reached -/

/-- The state with another report queue. -/
def State.reporting (s : State) (rs : List Subject) : State := { s with reports := rs }

@[simp] theorem reporting_resetHeld (s : State) (rs : List Subject) : (s.reporting rs).resetHeld = s.resetHeld := rfl
@[simp] theorem reporting_service (s : State) (rs : List Subject) : (s.reporting rs).service = s.service := rfl
@[simp] theorem reporting_address (s : State) (rs : List Subject) : (s.reporting rs).address = s.address := rfl
@[simp] theorem reporting_cfg (s : State) (rs : List Subject) : (s.reporting rs).cfg = s.cfg := rfl
@[simp] theorem reporting_sections (s : State) (rs : List Subject) : (s.reporting rs).sections = s.sections := rfl
@[simp] theorem reporting_points (s : State) (rs : List Subject) : (s.reporting rs).points = s.points := rfl
@[simp] theorem reporting_signals (s : State) (rs : List Subject) : (s.reporting rs).signals = s.signals := rfl
@[simp] theorem reporting_boundaries (s : State) (rs : List Subject) : (s.reporting rs).boundaries = s.boundaries := rfl
@[simp] theorem reporting_blocking (s : State) (rs : List Subject) : (s.reporting rs).blocking = s.blocking := rfl
@[simp] theorem reporting_remote (s : State) (rs : List Subject) : (s.reporting rs).remote = s.remote := rfl
@[simp] theorem reporting_instances (s : State) (rs : List Subject) : (s.reporting rs).instances = s.instances := rfl
@[simp] theorem reporting_lastEnded (s : State) (rs : List Subject) : (s.reporting rs).lastEnded = s.lastEnded := rfl
@[simp] theorem reporting_reservations (s : State) (rs : List Subject) : (s.reporting rs).reservations = s.reservations := rfl
@[simp] theorem reporting_register (s : State) (rs : List Subject) : (s.reporting rs).register = s.register := rfl
@[simp] theorem reporting_sendQueue (s : State) (rs : List Subject) : (s.reporting rs).sendQueue = s.sendQueue := rfl
@[simp] theorem reporting_requests (s : State) (rs : List Subject) : (s.reporting rs).requests = s.requests := rfl
@[simp] theorem reporting_peers (s : State) (rs : List Subject) : (s.reporting rs).peers = s.peers := rfl
@[simp] theorem reporting_counts (s : State) (rs : List Subject) : (s.reporting rs).counts = s.counts := rfl
@[simp] theorem reporting_firstFault (s : State) (rs : List Subject) : (s.reporting rs).firstFault = s.firstFault := rfl
@[simp] theorem reporting_agenda (s : State) (rs : List Subject) : (s.reporting rs).agenda = s.agenda := rfl
@[simp] theorem reporting_recvQueue (s : State) (rs : List Subject) : (s.reporting rs).recvQueue = s.recvQueue := rfl
@[simp] theorem reporting_captureTimer (s : State) (rs : List Subject) : (s.reporting rs).captureTimer = s.captureTimer := rfl
@[simp] theorem reporting_presenceTimer (s : State) (rs : List Subject) : (s.reporting rs).presenceTimer = s.presenceTimer := rfl
@[simp] theorem reporting_sending (s : State) (rs : List Subject) : (s.reporting rs).sending = s.sending := rfl
@[simp] theorem reporting_tagCounter (s : State) (rs : List Subject) : (s.reporting rs).tagCounter = s.tagCounter := rfl
@[simp] theorem keep_reporting (u s : State) (rs : List Subject) : u.keep (s.reporting rs) = (u.keep s).reporting rs := rfl

/-- The work with another report queue. -/
def Work.reporting (w : Work) (rs : List Subject) : Work := { w with st := w.st.reporting rs }

/-- The tasks are taken, within `k`, to a work of which `P` holds. -/
def Arrives (start : State) (k : Nat) (ts : List Task) (w : Work) (P : Work → Prop) : Prop :=
  ∀ fuel, k < fuel → ∃ w', Work.settle start fuel ts w = (w', []) ∧ P w'

/-- The same whatever has been placed in the report queue, which is all that is done between two tasks. -/
def Follows (start : State) (k : Nat) (ts : List Task) (w : Work) (P : Work → Prop) : Prop :=
  ∀ rs, Arrives start k ts (w.reporting rs) P

/-- The work ends an event that began in `before`, in a state of which `Q` holds; it has nothing left to send. -/
structure Rests (before start : State) (Q : State → Prop) (w : Work) : Prop where
  returns : w.returns = []
  turned : w.turned = []
  answers : w.answers = []
  kept : start.keep w.st = w.st
  left : w.st.agenda = []
  signals : w.st.signals = before.signals
  sections : w.st.sections = before.sections
  holds : Q w.st

section
variable {start : State} {k : Nat} {ts : List Task} {x : Task} {w : Work} {P : Work → Prop} {Q : State → Prop}

/-- One task is taken, from the state in which subjects have been placed. -/
theorem Arrives.step (h : ∀ rs, let w₁ := ({ w with out := [] }.reporting rs).take x
    Arrives start k (w₁.out ++ ts) { w₁ with out := [] } P) : Arrives start (k + 1) (x :: ts) w P := by
  intro fuel enough
  obtain ⟨fuel, rfl⟩ : ∃ m, fuel = m + 1 + 1 := ⟨fuel - 2, by omega⟩
  rw [settle_cons]
  dsimp only
  rw [settle_out]
  have begun : w.on (State.placeChanged start) = w.reporting (State.placeChanged start w.st).reports :=
    congrArg (fun t : State => { w with st := t }) (placeChanged_same start w.st)
  rw [begun]
  exact h _ _ (by omega)

theorem Arrives.done (h : P w) : Arrives start k [] w P := fun _ _ => ⟨w, settle_nil _ _ _, h⟩

theorem Follows.done (h : ∀ rs, P (w.reporting rs)) : Follows start k [] w P := fun rs => .done (h rs)

theorem Follows.mono {k' : Nat} (h : Follows start k ts w P) (more : k ≤ k') : Follows start k' ts w P :=
  fun rs fuel enough => h rs fuel (by omega)

/-- A task that does the same whatever has been placed. -/
theorem Follows.step {w₁ : Work} (taken : ∀ rs, ({ w with out := [] }.reporting rs).take x = w₁.reporting rs)
    (rest : Follows start k (w₁.out ++ ts) { w₁ with out := [] } P) : Follows start (k + 1) (x :: ts) w P := by
  refine fun rs => .step fun rs' => ?_
  have again : ({ w.reporting rs with out := [] } : Work).reporting rs' = ({ w with out := [] } : Work).reporting rs' := rfl
  rw [again, taken]
  exact rest rs'

/-- Tasks that change nothing are passed over. -/
theorem Follows.idle (quiet : w.out = []) (xs : List Task)
    (idle : ∀ x ∈ xs, ∀ rs, (w.reporting rs).take x = w.reporting rs) (rest : Follows start k ts w P) :
    Follows start (k + xs.length) (xs ++ ts) w P := by
  have same : ({ w with out := [] } : Work) = w := by rw [← quiet]
  induction xs with
  | nil => exact rest
  | cons x xs ih =>
    refine .step (w₁ := w) (fun rs => ?_) ?_
    · rw [same]
      exact idle x List.mem_cons_self rs
    · rw [quiet, List.nil_append, same]
      exact ih fun y known => idle y (List.mem_cons_of_mem x known)

/-- What is kept of a state that keeps what a third has kept. -/
theorem keep_of_keep {s t : State} (outer : start.keep s = s) (inner : s.keep t = t) : start.keep t = t :=
  calc start.keep t = (start.keep s).keep t := rfl
    _ = t := by rw [outer, inner]

/-- An event whose tasks arrive where `Q` holds ends there, with the subjects placed and the report queue drained. -/
theorem event_arrives {before : State} {work : Work → Work} (ready : before.ready) (begun : start.agenda = before.agenda)
    (few : k < taskBound) (arrives : Arrives start k (work (Work.begin start)).out
      { work (Work.begin start) with out := [] } (Rests before start Q)) :
    ∃ b, before.event start work = .next (State.placeChanged before b).drained ∧ Q b := by
  obtain ⟨w', done, rests⟩ := arrives taskBound few
  rw [taskBound, ← List.append_nil (Work.out _), ← settle_out start 4095] at done
  have settled : start.settled work = w' := by
    unfold State.settled
    dsimp only
    rw [begun, ready.2, List.nil_append, taskBound, ← List.append_nil (Work.out _), done, returnFlank_of_nil rests.returns]
    show ({ w' with st := start.keep { w'.st with agenda := [] } } : Work) = w'
    rw [← rests.left, rests.kept]
  refine ⟨w'.st, ?_, rests.holds⟩
  rw [event_of_live ready.1, settled, conclude_places rests.signals rests.sections rests.turned rests.answers]

end

/-! ## Broadcasts -/

/-- What has been appended to a send queue is broadcast. -/
def Broadcasts (queue queue' : List SendEntry) : Prop := ∃ more, queue' = queue ++ more ∧ ∀ e ∈ more, e.telegram.dest = 0

theorem Broadcasts.refl (queue : List SendEntry) : Broadcasts queue queue := ⟨[], by simp, by simp⟩

theorem Broadcasts.trans {a b c : List SendEntry} (h : Broadcasts a b) (k : Broadcasts b c) : Broadcasts a c := by
  obtain ⟨more, rfl, all⟩ := h
  obtain ⟨more', rfl, all'⟩ := k
  exact ⟨more ++ more', List.append_assoc .., fun e known => (List.mem_append.mp known).elim (all e) (all' e)⟩

theorem enqueue_broadcasts (s : State) (body : Body) : Broadcasts s.sendQueue (s.enqueue ⟨0, body⟩).sendQueue :=
  ⟨[placed 0 body], rfl, fun e known => by rw [List.mem_singleton.mp known]; rfl⟩

@[simp] theorem place_sendQueue (s : State) (x : Subject) : (s.place x).sendQueue = s.sendQueue := by
  unfold State.place
  split <;> rfl

/-- An alert is broadcast (R184). -/
theorem recordFault_broadcasts (s : State) (k : FaultKind) (x : Subject) (n : Option Nat) :
    Broadcasts s.sendQueue (s.recordFault k x n).sendQueue := by
  unfold State.recordFault
  dsimp only
  split
  · unfold State.sendAlert
    dsimp only
    have placed : Broadcasts s.sendQueue (State.place { s.countFault k x n with alertArmed := false } .controller).sendQueue := by
      rw [place_sendQueue]
      exact .refl _
    split
    · exact placed.trans (enqueue_broadcasts _ _)
    · exact placed
  · exact .refl _

/-- REPORTs are broadcast (R178). -/
theorem drained_broadcasts (s : State) : Broadcasts s.sendQueue s.drained.sendQueue := by
  have drain (k : Nat) (s : State) : Broadcasts s.sendQueue (State.drain k s).sendQueue := by
    induction k generalizing s with
    | zero => exact .refl _
    | succ k ih =>
      unfold State.drain
      split
      · refine .trans ?_ (ih s.drainOne)
        unfold State.drainOne
        split
        · exact .refl _
        · exact enqueue_broadcasts { s with reports := _ } _
      · exact .refl _
  exact drain 45 s

/-! ## The end of an event that changes no signal and no section -/

section
variable (before t : State)

theorem ended_same : (State.placeChanged before t).drained = t.noting (State.placeChanged before t).drained.notes := by
  have placed := congrArg (State.noting · (State.placeChanged before t).drained.notes) (placeChanged_same before t)
  exact (drained_noting _).trans (placed.trans rfl)

theorem ended_broadcasts : Broadcasts t.sendQueue (State.placeChanged before t).drained.sendQueue := by
  have sent := drained_broadcasts (State.placeChanged before t)
  rwa [placeChanged_sendQueue] at sent

theorem ended_counts : (State.placeChanged before t).drained.counts = t.counts := by
  rw [drained_counts, placeChanged_same]

end

/-! ## Commands are deterministic -/

theorem Completes.at {c : Instr} {s t : State} {P : State → Prop} (h : Completes c s P) (done : exec c s = .next t) : P t := by
  obtain ⟨u, done', holds⟩ := h
  cases done.symm.trans done'
  exact holds

/-! ## A break with a peer (R34, R87, R138, R164, R175) -/

/-- A boundary whose neighbour is lost. -/
def BoundaryRec.broken (r : BoundaryRec) : BoundaryRec :=
  match r.direction with
  | .asking previous => { r with outbound := [], direction := returned previous, waiting := [] }
  | _ => { r with outbound := [] }

/-- A break reaches one boundary. -/
def State.breakAt (s : State) (station : Nat) (b : Fin 4) : State :=
  if s.cfg.boundaries[b].any (·.neighbour == station) then s.setBoundary b s.boundaries[b].broken else s

/-- A break with a station, where there are no routes; the count of it is not yet made. -/
@[irreducible] def State.broken (s : State) (station : Nat) : State :=
  allBoundaries.foldl (fun s b => s.breakAt station b) (s.cutOff station)

section
variable {s : State} {start : State} {k : Nat} {ts : List Task} {P : Work → Prop} {station : Nat} {b : Fin 4}

theorem instanceOf_of_vacant (vacant : s.vacant) (route : Nat) : s.instanceOf route = none := by
  unfold State.instanceOf
  rw [List.findSome?_eq_none_iff]
  intro g _
  rw [vacant g]

theorem breakRoute_of_none {w : Work} {g : Fin 8} (none : w.st.instances[g] = none) (station : Nat) :
    w.breakRoute g station = w := by
  unfold Work.breakRoute
  rw [none]

theorem directionTold_of_vacant {w : Work} (vacant : w.st.vacant) (route : Nat) (told : DirectionTold) :
    w.directionTold route told = w := by
  unfold Work.directionTold
  rw [instanceOf_of_vacant vacant]

theorem broken_of_asking {r : BoundaryRec} {previous : PreviousDirection} (h : r.direction = .asking previous) :
    r.broken = { r with outbound := [], direction := returned previous, waiting := [] } := by
  rw [BoundaryRec.broken, h]

theorem broken_of_settled {r : BoundaryRec} (h : ∀ previous, r.direction ≠ .asking previous) :
    r.broken = { r with outbound := [] } := by
  unfold BoundaryRec.broken
  split
  · next asks => exact absurd asks (h _)
  · rfl

theorem broken_waiting (r : BoundaryRec) : r.broken.waiting.length ≤ r.waiting.length := by
  unfold BoundaryRec.broken
  split
  · exact Nat.zero_le _
  · exact le_refl _

theorem returnDirection_of_asking {w : Work} {b : Fin 4} {told : DirectionTold} {previous : PreviousDirection}
    (h : w.st.boundaries[b].direction = .asking previous) :
    w.returnDirection b told = w.settleDirection b (returned previous) told := by
  unfold Work.returnDirection
  rw [h]

theorem returnDirection_of_settled {w : Work} {b : Fin 4} {told : DirectionTold}
    (h : ∀ previous, w.st.boundaries[b].direction ≠ .asking previous) : w.returnDirection b told = w := by
  unfold Work.returnDirection
  split
  · next asks => exact absurd asks (h _)
  · rfl

@[simp] theorem setBoundary_setBoundary (s : State) (b : Fin 4) (r r' : BoundaryRec) :
    (s.setBoundary b r).setBoundary b r' = s.setBoundary b r' := by
  simp [State.setBoundary]

theorem breakAt_of_neighbour (there : s.cfg.boundaries[b].any (·.neighbour == station) = true) :
    s.breakAt station b = s.setBoundary b s.boundaries[b].broken := if_pos there

theorem breakAt_of_other (other : s.cfg.boundaries[b].any (·.neighbour == station) = false) :
    s.breakAt station b = s := if_neg (by rw [other]; exact Bool.false_ne_true)

theorem boundaryBroken_of_neighbour {w : Work} (there : w.st.cfg.boundaries[b].any (·.neighbour == station) = true) :
    w.boundaryBroken b station =
      (w.on (·.changeBoundary b fun r => { r with outbound := [] })).returnDirection b .broken := by
  unfold Work.boundaryBroken
  split
  · next named =>
    rw [named] at there
    exact absurd there Bool.false_ne_true
  · next c named =>
    rw [named] at there
    exact if_neg (not_not_intro (by simpa using there))

theorem boundaryBroken_of_other {w : Work} (other : w.st.cfg.boundaries[b].any (·.neighbour == station) = false) :
    w.boundaryBroken b station = w := by
  unfold Work.boundaryBroken
  split
  · rfl
  · next c named =>
    rw [named] at other
    exact if_pos (by simpa using other)

/-- The routes that wait at a boundary when a break reaches it. -/
def State.waitersAt (s : State) (station : Nat) (b : Fin 4) : List Nat :=
  if s.cfg.boundaries[b].any (·.neighbour == station) then
    match s.boundaries[b].direction with
    | .asking _ => s.boundaries[b].waiting
    | _ => []
  else []

theorem waitersAt_length (s : State) (station : Nat) (b : Fin 4) : (s.waitersAt station b).length ≤
    if s.cfg.boundaries[b].any (·.neighbour == station) then s.boundaries[b].waiting.length else 0 := by
  unfold State.waitersAt
  split
  · split
    · exact le_refl _
    · exact Nat.zero_le _
  · exact Nat.zero_le _

/-- A boundary is told of a break: it changes as `breakAt` says, and the routes that waited there are told. -/
theorem boundaryBroken_eq (w : Work) (b : Fin 4) (station : Nat) : w.boundaryBroken b station =
    (w.on (·.breakAt station b)).emit ((w.st.waitersAt station b).map (.directionTold · b .broken)) := by
  cases there : w.st.cfg.boundaries[b].any (·.neighbour == station) with
  | false =>
    rw [boundaryBroken_of_other there, Work.on, breakAt_of_other there, State.waitersAt, there]
    exact (emit_nil w).symm
  | true =>
    rw [boundaryBroken_of_neighbour there, Work.on, Work.on, breakAt_of_neighbour there, State.waitersAt, if_pos there]
    cases direction : w.st.boundaries[b].direction with
    | asking previous =>
      rw [broken_of_asking direction, returnDirection_of_asking (previous := previous)
        (by simpa [State.changeBoundary] using direction)]
      simp [Work.settleDirection, State.changeBoundary, Work.on, Work.emit]
    | _ =>
      rw [broken_of_settled (by rw [direction]; exact fun _ => Direction.noConfusion),
        returnDirection_of_settled (by
          simp only [State.changeBoundary, direction]
          simp)]
      exact (emit_nil _).symm

@[simp] theorem breakAt_cfg (s : State) (station : Nat) (b : Fin 4) : (s.breakAt station b).cfg = s.cfg := by
  unfold State.breakAt
  split <;> rfl

theorem breakAt_reporting (s : State) (rs : List Subject) (station : Nat) (b : Fin 4) :
    (s.reporting rs).breakAt station b = (s.breakAt station b).reporting rs := by
  unfold State.breakAt
  rw [apply_ite (State.reporting · rs)]
  rfl

theorem breakAt_instances (s : State) (station : Nat) (b : Fin 4) : (s.breakAt station b).instances = s.instances := by
  unfold State.breakAt
  split <;> rfl

theorem breakAt_boundaries (s : State) (station : Nat) (b j : Fin 4) : (s.breakAt station b).boundaries[j] =
    if b = j ∧ s.cfg.boundaries[j].any (·.neighbour == station) then s.boundaries[j].broken else s.boundaries[j] := by
  cases there : s.cfg.boundaries[b].any (·.neighbour == station) with
  | false =>
    rw [breakAt_of_other there, if_neg]
    rintro ⟨rfl, also⟩
    exact absurd (there.symm.trans also) Bool.false_ne_true
  | true =>
    rw [breakAt_of_neighbour there]
    rcases eq_or_ne b j with rfl | other
    · rw [if_pos ⟨rfl, there⟩]
      simp
    · have apart : ¬ b.val = j.val := fun e => other (Fin.ext e)
      rw [if_neg (fun both => other both.1)]
      simp [apart]

/-- The boundaries are told of a break one after the other, and no route waits for the direction. -/
theorem follows_boundaries (bs : List (Fin 4)) (once : bs.Nodup) (vacant : s.vacant)
    (few : ∀ b : Fin 4, s.cfg.boundaries[b].any (·.neighbour == station) = true → s.boundaries[b].waiting.length ≤ 4)
    (rest : Follows start k ts (Work.begin (bs.foldl (·.breakAt station ·) s)) P) :
    Follows start (k + 5 * bs.length) (bs.map (.breakBoundary · station) ++ ts) (Work.begin s) P := by
  induction bs generalizing s with
  | nil => exact rest
  | cons b bs ih =>
    obtain ⟨new, once⟩ := List.nodup_cons.mp once
    have bound : (s.waitersAt station b).length ≤ 4 := by
      refine (waitersAt_length s station b).trans ?_
      split
      · next there => exact few b there
      · omega
    have still : (s.breakAt station b).vacant := by
      unfold State.vacant
      rw [breakAt_instances]
      exact vacant
    have others : ∀ c : Fin 4, (s.breakAt station b).cfg.boundaries[c].any (·.neighbour == station) = true →
        (s.breakAt station b).boundaries[c].waiting.length ≤ 4 := by
      intro c there
      rw [breakAt_cfg] at there
      rw [breakAt_boundaries]
      split
      · exact (broken_waiting _).trans (few c there)
      · exact few c there
    let told := (s.waitersAt station b).map (Task.directionTold · b .broken)
    refine Follows.mono (k := k + 5 * bs.length + (s.waitersAt station b).length + 1) ?_ (by
      rw [List.length_cons]
      omega)
    refine .step (w₁ := (Work.begin (s.breakAt station b)).emit told) (fun rs => ?_) ?_
    · exact (boundaryBroken_eq ((Work.begin s).reporting rs) b station).trans
        (congrArg (fun t => (Work.begin t).emit told) (breakAt_reporting s rs station b))
    · have passed := Follows.idle (w := Work.begin (s.breakAt station b)) rfl told (fun x known rs => by
        obtain ⟨route, -, rfl⟩ := List.mem_map.mp known
        exact directionTold_of_vacant still route .broken) (ih once still others rest)
      rwa [List.length_map] at passed

/-- The boundaries are all that a break changes once it has cut the station off. -/
theorem breakAll_same (bs : List (Fin 4)) (s : State) :
    bs.foldl (·.breakAt station ·) s = { s with boundaries := (bs.foldl (·.breakAt station ·) s).boundaries } := by
  refine List.foldlRecOn (motive := fun t : State => t = { s with boundaries := t.boundaries }) bs _ rfl fun t e b _ => ?_
  unfold State.breakAt
  split
  · rw [e]
    rfl
  · exact e

theorem broken_same (s : State) (station : Nat) :
    s.broken station = { s.cutOff station with boundaries := (s.broken station).boundaries } := by
  unfold State.broken
  exact breakAll_same _ _

theorem breakAll_boundaries (bs : List (Fin 4)) (once : bs.Nodup) (s : State) (j : Fin 4) :
    (bs.foldl (·.breakAt station ·) s).boundaries[j] =
      if j ∈ bs ∧ s.cfg.boundaries[j].any (·.neighbour == station) then s.boundaries[j].broken else s.boundaries[j] := by
  induction bs generalizing s with
  | nil => simp
  | cons b bs ih =>
    obtain ⟨new, once⟩ := List.nodup_cons.mp once
    rw [List.foldl_cons, ih once, breakAt_cfg, breakAt_boundaries]
    rcases eq_or_ne b j with rfl | other
    · simp [new]
    · simp [other, Ne.symm other]

/-- Each boundary toward the station is broken, and no other (R164, R175). -/
theorem broken_boundaries (s : State) (station : Nat) (j : Fin 4) : (s.broken station).boundaries[j] =
    if s.cfg.boundaries[j].any (·.neighbour == station) then s.boundaries[j].broken else s.boundaries[j] := by
  have all : j ∈ allBoundaries := by revert j; decide
  unfold State.broken
  exact (breakAll_boundaries allBoundaries (by decide) (s.cutOff station) j).trans (by simp only [all, true_and]; rfl)

/-- The state is what a break with a station leaves of `s`, and it is counted (R87). -/
structure State.brokenOff (t s : State) (station : Nat) : Prop where
  same : t = (s.broken station).noting t.notes
  sent : Broadcasts (s.broken station).sendQueue t.sendQueue
  counted : t.counts[faultIndex .peerBreak] = min 255 (s.counts[faultIndex .peerBreak] + 1)
  rises : ∀ k, min 255 s.counts[faultIndex k] ≤ t.counts[faultIndex k]

theorem broken_counts (s : State) (station : Nat) : (s.broken station).counts = s.counts := by
  rw [broken_same]
  rfl

/-- Placing and draining change nothing of it. -/
theorem State.brokenOff.ended {t : State} (h : t.brokenOff s station) (before : State) :
    ((State.placeChanged before t).drained).brokenOff s station where
  same := (ended_same before t).trans ((congrArg (State.noting · _) h.same).trans rfl)
  sent := h.sent.trans (ended_broadcasts before t)
  counted := by
    rw [ended_counts]
    exact h.counted
  rises k := by
    rw [ended_counts]
    exact h.rises k

theorem recordBreak_brokenOff {u : State} (reached : u = s.broken station) (rs : List Subject) :
    ((u.reporting rs).recordFault .peerBreak .controller (some station)).brokenOff s station := by
  have noted := noted_recordFault (u.reporting rs) .peerBreak .controller (some station)
  have sent : Broadcasts u.sendQueue _ := recordFault_broadcasts (u.reporting rs) .peerBreak .controller (some station)
  generalize (u.reporting rs).recordFault .peerBreak .controller (some station) = v at noted sent ⊢
  have counts : u.counts = s.counts := by rw [reached, broken_counts]
  have counted (k : FaultKind) : ((u.reporting rs).countFault .peerBreak .controller (some station)).counts[faultIndex k] =
      if .peerBreak = k then min 255 (s.counts[faultIndex k] + 1) else s.counts[faultIndex k] := by
    rw [countFault_counts, ← counts]
    rfl
  have same : v = u.noting v.notes := noted.same
  refine ⟨same.trans (by rw [reached]), by rwa [← reached], (noted.counts .peerBreak (by decide)).trans ?_, fun k => ?_⟩
  · rw [counted, if_pos rfl]
  · have rises := noted.rises k
    rw [counted] at rises
    split at rises
    · omega
    · exact rises

/-- A break is followed to its end where there are no routes: the station cut off, the boundaries toward it broken, and
PEER_BREAK counted. -/
theorem follows_break {before : State} (vacant : s.vacant)
    (few : ∀ b : Fin 4, s.cfg.boundaries[b].any (·.neighbour == station) = true → s.boundaries[b].waiting.length ≤ 4)
    (kept : start.keep s = s) (left : s.agenda = []) (signals : s.signals = before.signals)
    (sections : s.sections = before.sections) :
    Follows start 31 [.breakWith station] (Work.begin s) (Rests before start (·.brokenOff s station)) := by
  have same := broken_same s station
  have keptBroken : s.keep (s.broken station) = s.broken station := by
    generalize (s.broken station).boundaries = boundaries at same
    rw [same]
    rfl
  have last : Follows start 1 [.recordBreak station] (Work.begin (s.broken station))
      (Rests before start (·.brokenOff s station)) := by
    have shows : (s.broken station).signals = before.signals ∧ (s.broken station).sections = before.sections
        ∧ (s.broken station).agenda = [] := by
      rw [same]
      exact ⟨signals, sections, left⟩
    generalize reached : s.broken station = u at keptBroken shows ⊢
    refine fun rs => .step fun rs' => .done ?_
    have off := recordBreak_brokenOff reached.symm rs'
    have noted := noted_recordFault (u.reporting rs') .peerBreak .controller (some station)
    show Rests before start _ (Work.begin ((u.reporting rs').recordFault .peerBreak .controller (some station)))
    generalize (u.reporting rs').recordFault .peerBreak .controller (some station) = v at off noted ⊢
    have made : v = u.noting v.notes := noted.same
    exact ⟨rfl, rfl, rfl, keep_of_keep kept (keep_of_keep keptBroken (by rw [made]; rfl)), by rw [made]; exact shows.2.2,
      by rw [made]; exact shows.1, by rw [made]; exact shows.2.1, off⟩
  refine .step (w₁ := (Work.begin (s.cutOff station)).emit (allEight.map (Task.breakRoute · station)
    ++ allBoundaries.map (.breakBoundary · station) ++ [.recordBreak station])) (fun rs => rfl) ?_
  rw [List.append_nil]
  have passed := Follows.idle (w := Work.begin (s.cutOff station)) rfl (allEight.map (Task.breakRoute · station))
    (fun x known rs => by
      obtain ⟨g, -, rfl⟩ := List.mem_map.mp known
      exact breakRoute_of_none (vacant g) station)
    (follows_boundaries allBoundaries (by decide) vacant few (by rwa [State.broken] at last))
  rw [← List.append_assoc] at passed
  exact passed.mono (by rw [List.length_map]; decide)

end

/-! ## What a break has left -/

section
variable {s t : State} {station : Nat}

/-- A break leaves peers, elements and other requests (R87). -/
theorem State.brokenOff.peers (h : t.brokenOff s station) : t.peers = s.peers := by
  rw [h.same, State.noting_peers, broken_same]
  rfl

theorem State.brokenOff.peer (h : t.brokenOff s station) (a : Nat) : t.peer a = s.peer a := by
  unfold State.peer
  rw [h.peers]

theorem State.brokenOff.sameElements (h : t.brokenOff s station) : t.sameElements s := by
  unfold State.sameElements
  rw [h.same, State.noting_sections, State.noting_points, State.noting_signals, broken_same]
  exact ⟨rfl, rfl, rfl⟩

theorem State.brokenOff.requests (h : t.brokenOff s station) : t.requests = s.requests.filter (·.dest != station) := by
  rw [h.same, State.noting_requests, broken_same]
  rfl

end

/-! ## PRESENCE from a peer (R83, R84, R86) -/

theorem changePeer_changePeer (s : State) (a : Nat) (f g : PeerEntry → PeerEntry) (same : ∀ p, (f p).address = p.address) :
    (s.changePeer a f).changePeer a g = s.changePeer a (g ∘ f) := by
  unfold State.changePeer
  simp only [List.map_map]
  congr 2
  funext p
  by_cases e : p.address = a
  · simp [e, same]
  · simp [e]

theorem noted_refresh (s : State) (station : Nat) : Noted s (s.refresh station) := by
  unfold State.refresh
  refine (Noted.foldl (fun t i => ?_) allSections s).trans (Noted.foldl (fun t g => ?_) allEight _)
  all_goals
    split
    · exact noted_post _ _ _
    · exact .refl t

end Sys2Proof.Machine
end

section
/-! PROOFS. What a PRESENCE makes of its peer, and a peer's silence (O24). -/

namespace Sys2Proof.Machine

section
variable {s : State} {source : Nat} {p : PeerEntry}

/-- The peer a station has, once its entry is changed. -/
theorem changePeer_of_peer {f : PeerEntry → PeerEntry} (there : s.peer source = some p)
    (same : ∀ p, (f p).address = p.address) : (s.changePeer source f).peer source = some (f p) := by
  have named : p.address = source := by simpa using List.find?_some there
  rw [changePeer_peer s source source same, there, Option.map_some, if_pos named]

/-- A peer heard is not muted, and its silence timer starts afresh (R84, R86). -/
def PeerEntry.heardNow (p : PeerEntry) (period : Nat) : PeerEntry := { p with muting := .absent, silence := some (3 * period) }

/-- A peer's state is written. -/
def PeerEntry.entering (p : PeerEntry) (new : PeerState) : PeerEntry := { p with state := new }

/-- A relationship begins with no last request (R81). -/
def PeerEntry.afresh (p : PeerEntry) : PeerEntry := { p with lastRequest := none }

/-- A PRESENCE of a peer that is not to be muted moves it by the view (R84). -/
theorem takePresence_of_peer {w : Work} {view : BitVec 24} {own : Nat} (there : w.st.peer source = some p)
    (heard : p.muting ≠ .pending) (address : w.st.address = some own) (low : 1 ≤ own) :
    w.takePresence source view =
      (w.on (·.changePeer source (·.heardNow w.st.presencePeriod))).enterPeer source p.state
        (if view.getLsbD (own - 1) then .present else .half) := by
  have named : w.st.own = own := by rw [State.own, address]; rfl
  have counts : decide (0 < w.st.own) = true := decide_eq_true (by omega)
  unfold Work.takePresence
  rw [there]
  dsimp only
  rw [if_neg heard]
  show (w.on _).enterPeer source p.state (if (decide (0 < w.st.own) && view.getLsbD (w.st.own - 1)) = true then _ else _) = _
  rw [counts, named, Bool.true_and]
  rfl

/-- A peer that enters PRESENT has no last request, and is sent the refresh notices (R31, R81, R84). -/
theorem enterPeer_present {w : Work} {old : PeerState} (new : old ≠ .present) :
    w.enterPeer source old .present =
      w.on fun s => (s.changePeer source fun p => (p.entering .present).afresh).refresh source := by
  unfold Work.enterPeer
  dsimp only
  rw [if_pos ⟨rfl, new⟩]
  exact congrArg (fun t : State => { w with st := t.refresh source })
    (changePeer_changePeer w.st source (·.entering .present) (·.afresh) fun _ => rfl)

/-- A peer that stays PRESENT, or that moves between the other states, has its state written alone. -/
theorem enterPeer_quiet {w : Work} {old new : PeerState} (same : new = .present ↔ old = .present) :
    w.enterPeer source old new = w.on (·.changePeer source (·.entering new)) := by
  unfold Work.enterPeer
  dsimp only
  exact (if_neg fun both => both.2 (same.mp both.1)).trans (if_neg fun both => both.2 (same.mpr both.1))

/-- Leaving PRESENT is a break (R84, R87). -/
theorem enterPeer_leaves {w : Work} {new : PeerState} (left : new ≠ .present) :
    w.enterPeer source .present new =
      (w.on (·.changePeer source (·.entering new))).emit [.breakWith source] := by
  unfold Work.enterPeer
  dsimp only
  exact (if_neg fun both => left both.1).trans (if_pos ⟨rfl, left⟩)

/-- Where no boundary has the station as its neighbour, none is told of a break with it. -/
theorem no_boundary (nowhere : s.noBoundaryAt source) (b : Fin 4)
    (there : s.cfg.boundaries[b].any (·.neighbour == source) = true) : s.boundaries[b].waiting.length ≤ 4 := by
  obtain ⟨c, named, neighbour⟩ := (Option.any_eq_true ..).mp there
  exact absurd (beq_iff_eq.mp neighbour) (nowhere b c named)

/-- Settles O24. -/
theorem presenceMovesPeerByView : Obligations.PresenceMovesPeerByView := by
  intro source blocking own service view s p ready used address low high there
  have row : exec (.presence source service blocking view) s = s.event s fun w => w.takePresence source view := if_pos used
  have moves (heard : p.muting ≠ .pending) := takePresence_of_peer (w := Work.begin s) (view := view) there heard address low
  have composed (new : PeerState) : (s.changePeer source (·.heardNow s.presencePeriod)).changePeer source (·.entering new) =
      s.changePeer source fun p => (p.heardNow s.presencePeriod).entering new :=
    changePeer_changePeer s source _ _ fun _ => rfl
  refine ⟨fun heard absent => ?_, fun heard present seen => ?_, fun heard present unseen vacant nowhere => ?_,
    fun muted => ?_⟩
  · cases seen : view.getLsbD (own - 1) with
    | true =>
      let after := s.changePeer source fun p => ((p.heardNow s.presencePeriod).entering .present).afresh
      have taken : (Work.begin s).takePresence source view = Work.begin (after.refresh source) := by
        rw [moves heard, seen, if_pos rfl, enterPeer_present absent]
        exact congrArg (fun t => Work.begin (t.refresh source)) (changePeer_changePeer s source (·.heardNow s.presencePeriod)
          (fun p => (p.entering .present).afresh) fun _ => rfl)
      refine .of_noted (b := after) ?_ fun n _ =>
        ⟨⟨rfl, rfl, rfl⟩, ⟨rfl, rfl, rfl, rfl, rfl⟩, rfl, changePeer_of_peer there fun _ => rfl⟩
      rw [row]
      refine event_within (start := s) (work := fun w => w.takePresence source view) ready rfl ?_ rfl ready.2
      rw [taken]
      exact .of_noted (noted_refresh after source)
    | false =>
      refine .of_noted (b := s.changePeer source fun p => (p.heardNow s.presencePeriod).entering .half) ?_ fun n _ =>
        ⟨⟨rfl, rfl, rfl⟩, ⟨rfl, rfl, rfl, rfl, rfl⟩, rfl, changePeer_of_peer there fun _ => rfl⟩
      rw [row]
      refine event_within (start := s) (work := fun w => w.takePresence source view) ready rfl (.of_eq ?_) rfl ready.2
      rw [moves heard, seen, if_neg Bool.false_ne_true, enterPeer_quiet (by simp [absent])]
      exact congrArg Work.begin (composed .half)
  · refine .of_placed (b := s.changePeer source fun p => (p.heardNow s.presencePeriod).entering .present)
      (row.trans (event_places (start := s) (work := fun w => w.takePresence source view) ready rfl ?_ rfl ready.2 rfl rfl))
      fun rs => ⟨⟨rfl, rfl, rfl⟩, ⟨rfl, rfl, rfl, rfl, rfl⟩, rfl, rfl, rfl, ?_⟩
    · rw [moves heard, seen, if_pos rfl, enterPeer_quiet (by simp [present])]
      exact congrArg Work.begin (composed .present)
    · have moved : (s.changePeer source fun p => (p.heardNow s.presencePeriod).entering .present).peer source =
          some ((p.heardNow s.presencePeriod).entering .present) := changePeer_of_peer there fun _ => rfl
      refine Eq.trans moved (congrArg some ?_)
      rw [← present]
      rfl
  · let after := s.changePeer source fun p => (p.heardNow s.presencePeriod).entering .half
    have taken : (Work.begin s).takePresence source view = (Work.begin after).emit [.breakWith source] := by
      rw [moves heard, unseen, if_neg Bool.false_ne_true, present, enterPeer_leaves (by decide)]
      exact congrArg (fun t => (Work.begin t).emit [.breakWith source]) (composed .half)
    obtain ⟨b, done, off⟩ := event_arrives (Q := (·.brokenOff after source)) (start := s)
      (work := fun w => w.takePresence source view) ready rfl (k := 31) (by decide) (by
        rw [taken]
        exact follows_break (s := after) (before := s) vacant (no_boundary nowhere) rfl ready.2 rfl rfl after.reports)
    have off := off.ended s
    exact ⟨_, row.trans done, off.sameElements, off.requests, off.counted,
      (off.peer source).trans (changePeer_of_peer there fun _ => rfl)⟩
  · refine ⟨s, row.trans (event_unshown (work := fun w => w.takePresence source view) ready rfl ?_ (State.keep_self s) rfl
      ⟨fun _ => rfl, fun _ => rfl, rfl, rfl, rfl, rfl, rfl, rfl, rfl, rfl, rfl, rfl, rfl, rfl⟩), rfl⟩
    unfold Work.takePresence
    rw [Work.begin_st, there]
    exact if_pos muted

end

/-! ## A peer's silence (R34, R84, R87, R138, R164, R175) -/

section
variable {s t : State} {a : Nat} {p : PeerEntry}

/-- A peer not heard any more has no silence timer. -/
def PeerEntry.silenced (p : PeerEntry) : PeerEntry := { p with silence := none }

/-- A silence that was watched loses the peer (R84). -/
theorem silenceExpires_of_peer {w : Work} (there : w.st.peer a = some p) (watched : p.silence.isSome = true) :
    w.silenceExpires a = (w.on (·.changePeer a (·.silenced))).enterPeer a p.state .lost := by
  unfold Work.silenceExpires
  rw [there]
  exact if_pos watched

/-- The state in which a peer has been silent. -/
def State.losing (s : State) (a : Nat) : State := s.changePeer a fun p => (p.silenced).entering .lost

theorem losing_eq (s : State) (a : Nat) : (s.changePeer a (·.silenced)).changePeer a (·.entering .lost) = s.losing a :=
  changePeer_changePeer s a _ _ fun _ => rfl

/-- The silence of a peer that is not PRESENT only loses it. -/
theorem silence_of_absent (there : s.peer a = some p) (watched : p.silence.isSome = true) (absent : p.state ≠ .present) :
    (Work.begin s).silenceExpires a = Work.begin (s.losing a) := by
  rw [silenceExpires_of_peer there watched, enterPeer_quiet (by simp [absent])]
  exact congrArg Work.begin (losing_eq s a)

/-- The silence of a PRESENT peer is a break. -/
theorem silence_of_present (there : s.peer a = some p) (watched : p.silence.isSome = true) (present : p.state = .present) :
    (Work.begin s).silenceExpires a = (Work.begin (s.losing a)).emit [.breakWith a] := by
  rw [silenceExpires_of_peer there watched, present, enterPeer_leaves (by decide)]
  exact congrArg (fun t => (Work.begin t).emit [.breakWith a]) (losing_eq s a)

/-- A boundary after a break (R164, R175). -/
theorem State.brokenOff.boundary (h : t.brokenOff s a) (b : Fin 4) : t.boundaries[b] =
    if s.cfg.boundaries[b].any (·.neighbour == a) then s.boundaries[b].broken else s.boundaries[b] := by
  rw [h.same, State.noting_boundaries]
  exact broken_boundaries s a b

/-- With nothing on the line, no telegram to the station stays (R87). -/
theorem State.brokenOff.unsent (h : t.brokenOff s a) (silent : s.sending = none) (other : a ≠ 0) :
    ∀ e ∈ t.sendQueue, e.telegram.dest ≠ a := by
  obtain ⟨more, sent, broadcast⟩ := h.sent
  intro e known
  rw [sent, List.mem_append] at known
  rcases known with kept | new
  · rw [broken_same] at kept
    obtain ⟨e', -, out⟩ := List.mem_filterMap.mp kept
    have idle : (State.sending { s with requests := s.requests.filter (·.dest != a) }).isSome = false := by
      show s.sending.isSome = false
      rw [silent]
      rfl
    rw [idle, Bool.false_and] at out
    by_cases there : e'.telegram.dest = a
    · simp [there] at out
    · simp only [there, beq_iff_eq, if_false, Option.some.injEq] at out
      exact out ▸ there
  · exact broadcast e new ▸ Ne.symm other

theorem State.brokenOff.reservations (h : t.brokenOff s a) : t.reservations = s.reservations.map fun r =>
    if r.ref.station = a ∧ r.state = .active then { r with state := .orphaned (some s.cfg.orphanTime) } else r := by
  rw [h.same, State.noting_reservations, broken_same]
  rfl

theorem State.brokenOff.remote (h : t.brokenOff s a) :
    ∀ e ∈ t.remote, e.station = a → e.image = .unknown ∧ e.capture = none ∧ e.heldBy = [] := by
  rw [h.same, State.noting_remote, broken_same]
  intro e known there
  obtain ⟨e', -, rfl⟩ := List.mem_map.mp known
  split at there
  · next forgotten => rw [if_pos forgotten]; exact ⟨rfl, rfl, rfl⟩
  · next kept => exact absurd there kept

end

end Sys2Proof.Machine
end

section
/-! PROOFS. What becomes of the telegram on the line: its attempt ends by a line error or at the acknowledgement slot, it
stays for another, is delivered, or is given up (O21, O22). -/

namespace Sys2Proof.Machine

section
variable {s : State} {k : Nat} {e : SendEntry}

/-- A fault that is recorded as the first where there was none, and counts. -/
theorem countFault_firstFault (s : State) (f : FaultKind) (x : Subject) (n : Option Nat) :
    (s.countFault f x n).firstFault = s.firstFault.or (some ⟨f, x, n, s.captureTimer⟩) := by
  unfold State.countFault
  cases s.firstFault <;> rfl

@[simp] theorem frameEnded_requests (s : State) : s.frameEnded.requests = s.requests := rfl
@[simp] theorem frameEnded_agenda (s : State) : s.frameEnded.agenda = s.agenda := rfl
@[simp] theorem frameEnded_signals (s : State) : s.frameEnded.signals = s.signals := rfl
@[simp] theorem frameEnded_sections (s : State) : s.frameEnded.sections = s.sections := rfl
@[simp] theorem frameEnded_cfg (s : State) : s.frameEnded.cfg = s.cfg := rfl
@[simp] theorem frameEnded_boundaries (s : State) : s.frameEnded.boundaries = s.boundaries := rfl
@[simp] theorem frameEnded_instances (s : State) : s.frameEnded.instances = s.instances := rfl

theorem abortMark_event (line : s.onLine = some k) (entry : s.sendQueue[k]? = some e) :
    exec .abortMark s = s.event s.frameEnded fun w => w.lineError k e := by
  show execAbortMark s = _
  unfold execAbortMark
  rw [line]
  dsimp only
  rw [entry]

theorem acknowledgementSlot_event (line : s.onLine = some k) (entry : s.sendQueue[k]? = some e) (dominant : Bool) :
    exec (.acknowledgementSlot dominant) s = s.event s.frameEnded fun w =>
      if dominant || e.telegram.dest == 0 then w.on (·.delivered k e) else w.unacknowledged k e := by
  show execAcknowledgementSlot dominant s = _
  unfold execAcknowledgementSlot
  rw [line]
  dsimp only
  rw [entry]

/-- An attempt that ends without a third leaves the telegram where it is (R70, R72). -/
theorem lineError_repeats (w : Work) (k : Nat) (whole : e.doomed = false) (few : e.attempts < 3) : w.lineError k e = w := by
  unfold Work.lineError
  rw [whole, if_neg Bool.false_ne_true, if_pos few]

theorem unacknowledged_repeats (w : Work) (k : Nat) (whole : e.doomed = false) (few : e.attempts < 3) :
    w.unacknowledged k e = w := by
  unfold Work.unacknowledged
  rw [whole, if_neg Bool.false_ne_true, if_pos few]

/-- The state in which the telegram has left the queue, and a fault is recorded for it (R70, R72). -/
def State.abandoned (s : State) (k : Nat) (fault : FaultKind) (station : Option Nat) : State :=
  (s.frameEnded.dequeue k).recordFault fault .controller station

theorem lineError_givesUp (k : Nat) (whole : e.doomed = false) (last : 3 ≤ e.attempts) :
    (Work.begin s.frameEnded).lineError k e = (Work.begin (s.abandoned k .lineError none)).givenUp e := by
  unfold Work.lineError
  rw [whole, if_neg Bool.false_ne_true, if_neg (Nat.not_lt.mpr last)]
  rfl

theorem unacknowledged_givesUp (k : Nat) (whole : e.doomed = false) (last : 3 ≤ e.attempts) :
    (Work.begin s.frameEnded).unacknowledged k e =
      (Work.begin (s.abandoned k .undelivered (some e.telegram.dest))).givenUp e := by
  unfold Work.unacknowledged
  rw [whole, if_neg Bool.false_ne_true, if_neg (Nat.not_lt.mpr last)]
  rfl

/-- The state in which a telegram is abandoned, but for what is noted. -/
theorem abandoned_same (s : State) (k : Nat) (fault : FaultKind) (station : Option Nat) :
    s.abandoned k fault station = s.frameEnded.noting (s.abandoned k fault station).notes :=
  (noted_recordFault (s.frameEnded.dequeue k) fault .controller station).same

theorem abandoned_counts (s : State) (k : Nat) (fault : FaultKind) (station : Option Nat) :
    min 255 (s.counts[faultIndex fault] + 1) ≤ (s.abandoned k fault station).counts[faultIndex fault]
      ∧ ∀ other, other ≠ fault → other ≠ .undelivered →
        (s.abandoned k fault station).counts[faultIndex other] = s.counts[faultIndex other] := by
  have noted := noted_recordFault (s.frameEnded.dequeue k) fault .controller station
  refine ⟨?_, fun other apart counted => ?_⟩
  · have rises := noted.rises fault
    rw [countFault_counts, if_pos rfl] at rises
    exact (min_eq_right (min_le_left _ _)).symm.le.trans rises
  · refine (noted.counts other counted).trans ?_
    rw [countFault_counts, if_neg (Ne.symm apart)]
    rfl

/-! ## A telegram given up (R73, R79, R86) -/

/-- In a table without repeats a tag finds its entry (R78). -/
theorem find_of_tag {qs : List Request} {q : Request} (unique : (qs.map (·.tag)).Nodup) (known : q ∈ qs) :
    qs.find? (·.tag == q.tag) = some q := by
  rw [List.find?_eq_some_iff_append]
  obtain ⟨before, after, rfl⟩ := List.append_of_mem known
  refine ⟨by simp, before, after, rfl, fun x early => ?_⟩
  rw [List.map_append, List.nodup_append] at unique
  have apart := unique.2.2 x.tag (List.mem_map_of_mem early) q.tag (by simp)
  simpa using apart

/-- No tagged request has class 0 (R73). -/
theorem cls_of_bodyTag {body : Body} (tagged : (bodyTag body).isSome = true) : (bodyKind body).cls ≠ 0 := by
  cases body
  case reserve => exact (by decide : Kind.reserve.cls ≠ 0)
  case flankClaim => exact (by decide : Kind.flankClaim.cls ≠ 0)
  case directionRequest => exact (by decide : Kind.directionRequest.cls ≠ 0)
  case offer => exact (by decide : Kind.offer.cls ≠ 0)
  all_goals exact absurd tagged Bool.false_ne_true

theorem pendingTag_of_class (zero : telegramClass e.telegram = 0) : e.pendingTag = none := by
  unfold SendEntry.pendingTag
  cases tag : bodyTag e.telegram.body with
  | none => exact ite_self _
  | some x => exact absurd zero (cls_of_bodyTag (by rw [tag]; rfl))

theorem givenUp_of_class (w : Work) (zero : telegramClass e.telegram = 0) :
    w.givenUp e = w.emit [.forceBreak e.telegram.dest] := by
  unfold Work.givenUp
  rw [pendingTag_of_class zero]
  exact if_pos zero

/-- A request whose entry has gone is given up without more (log entry 36). -/
theorem givenUp_of_settled (w : Work) (settled : e.settled = true) (tagged : (bodyTag e.telegram.body).isSome = true) :
    w.givenUp e = w := by
  have none : e.pendingTag = Option.none := if_pos settled
  unfold Work.givenUp
  rw [none]
  exact if_neg (cls_of_bodyTag tagged)

theorem givenUp_of_request {w : Work} {q : Request} (unique : (w.st.requests.map (·.tag)).Nodup)
    (known : q ∈ w.st.requests) (pending : e.pendingTag = some q.tag) : w.givenUp e =
      (w.on fun s => { s with requests := s.requests.filter (·.tag != q.tag) }).emit [.requestFailed q] := by
  unfold Work.givenUp
  rw [pending]
  dsimp only
  rw [find_of_tag unique known]

/-! ## A forced break (R86) -/

/-- The state in which a peer has been lost by force. -/
def State.forced (s : State) (a : Nat) : State :=
  (s.changePeer a fun p => { p with state := .lost, silence := none, muting := .pending }).notePresences a

@[simp] theorem forced_requests (s : State) (a : Nat) : (s.forced a).requests = s.requests := rfl
@[simp] theorem forced_agenda (s : State) (a : Nat) : (s.forced a).agenda = s.agenda := rfl
@[simp] theorem forced_signals (s : State) (a : Nat) : (s.forced a).signals = s.signals := rfl
@[simp] theorem forced_sections (s : State) (a : Nat) : (s.forced a).sections = s.sections := rfl
@[simp] theorem forced_counts (s : State) (a : Nat) : (s.forced a).counts = s.counts := rfl
@[simp] theorem forced_cfg (s : State) (a : Nat) : (s.forced a).cfg = s.cfg := rfl
@[simp] theorem forced_boundaries (s : State) (a : Nat) : (s.forced a).boundaries = s.boundaries := rfl
@[simp] theorem forced_instances (s : State) (a : Nat) : (s.forced a).instances = s.instances := rfl

theorem forceBreak_of_peer {w : Work} {p : PeerEntry} {a : Nat} (there : w.st.peer a = some p) :
    w.forceBreak a = (w.on (·.forced a)).emit (if p.state = .present then [.breakWith a] else []) := by
  unfold Work.forceBreak
  rw [there]
  dsimp only
  split
  · rfl
  · exact (emit_nil _).symm

section
variable {fault : FaultKind} {station : Option Nat} {work : Work → Work} {t : State}

theorem next_inj {o : Host.Outcome State Fault Refusal} {t u : State} (h : o = .next t) (k : o = .next u) : t = u := by
  cases h.symm.trans k
  rfl

/-- An event is what its work does of the state it begins from. -/
theorem event_congr {before start : State} {work work' : Work → Work} (same : work (Work.begin start) = work' (Work.begin start)) :
    before.event start work = before.event start work' := by
  unfold State.event State.settled
  rw [same]

/-- A station that a telegram of class 0 could not reach is lost (R73, R86, R87). -/
theorem gaveUp_of_class {p : PeerEntry} (ready : s.ready) (done : s.event s.frameEnded work = .next t)
    (work_eq : work (Work.begin s.frameEnded) = (Work.begin (s.abandoned k fault station)).givenUp e)
    (other : fault ≠ .peerBreak) (zero : telegramClass e.telegram = 0) (there : s.peer e.telegram.dest = some p)
    (vacant : s.vacant) (nowhere : s.noBoundaryAt e.telegram.dest) :
    t.peer e.telegram.dest = some { p with state := .lost, silence := none, muting := .pending }
      ∧ min 255 (s.counts[faultIndex fault] + 1) ≤ t.counts[faultIndex fault]
      ∧ (p.state = .present → t.requests = s.requests.filter (·.dest != e.telegram.dest)
          ∧ t.counts[faultIndex .peerBreak] = min 255 (s.counts[faultIndex .peerBreak] + 1)) := by
  obtain ⟨counted, uncounted⟩ := abandoned_counts s k fault station
  obtain ⟨n, same⟩ : ∃ n, s.abandoned k fault station = s.frameEnded.noting n := ⟨_, abandoned_same s k fault station⟩
  rw [same] at work_eq counted uncounted
  have row : s.event s.frameEnded work = s.event s.frameEnded
      fun _ => (Work.begin (s.frameEnded.noting n)).emit [.forceBreak e.telegram.dest] :=
    event_congr (work_eq.trans (givenUp_of_class _ zero))
  have first (rs : List Subject) : ((Work.begin (s.frameEnded.noting n)).reporting rs).take (.forceBreak e.telegram.dest) =
      ((Work.begin ((s.frameEnded.noting n).forced e.telegram.dest)).emit
        (if p.state = .present then [.breakWith e.telegram.dest] else [])).reporting rs := forceBreak_of_peer there
  have peer : ((s.frameEnded.noting n).forced e.telegram.dest).peer e.telegram.dest =
      some { p with state := .lost, silence := none, muting := .pending } := changePeer_of_peer there fun _ => rfl
  have kept : s.frameEnded.keep ((s.frameEnded.noting n).forced e.telegram.dest) =
    (s.frameEnded.noting n).forced e.telegram.dest := rfl
  have counts : ((s.frameEnded.noting n).forced e.telegram.dest).counts = n.counts := by simp
  have requests : ((s.frameEnded.noting n).forced e.telegram.dest).requests = s.requests := by simp
  have left : ((s.frameEnded.noting n).forced e.telegram.dest).agenda = [] := by simp [ready.2]
  have signals : ((s.frameEnded.noting n).forced e.telegram.dest).signals = s.signals := by simp
  have sections : ((s.frameEnded.noting n).forced e.telegram.dest).sections = s.sections := by simp
  have vacant : ((s.frameEnded.noting n).forced e.telegram.dest).vacant := fun g => by simpa using vacant g
  have nowhere : ((s.frameEnded.noting n).forced e.telegram.dest).noBoundaryAt e.telegram.dest := fun b => by simpa using nowhere b
  rw [State.noting_counts] at counted
  generalize (s.frameEnded.noting n).forced e.telegram.dest = f at *
  by_cases present : p.state = .present
  · rw [if_pos present] at first
    obtain ⟨b, ends, off⟩ := event_arrives (Q := (·.brokenOff f e.telegram.dest)) (start := s.frameEnded)
      (work := fun _ => (Work.begin (s.frameEnded.noting n)).emit [.forceBreak e.telegram.dest]) ready rfl (k := 32)
      (by decide) (Follows.step (w := Work.begin (s.frameEnded.noting n)) first
        (follows_break (before := s) vacant (no_boundary nowhere) kept left signals sections) n.reports)
    have off := off.ended s
    rw [← next_inj done (row.trans ends)] at off
    refine ⟨(off.peer _).trans peer, ?_, fun _ => ⟨by rw [off.requests, requests], ?_⟩⟩
    · have rises := off.rises fault
      rw [counts] at rises
      omega
    · rw [off.counted, counts, ← uncounted .peerBreak (Ne.symm other) (by decide), State.noting_counts]
  · rw [if_neg present] at first
    obtain ⟨b, ends, rs, reached⟩ := event_arrives (Q := fun b => ∃ rs, b = f.reporting rs) (start := s.frameEnded)
      (work := fun _ => (Work.begin (s.frameEnded.noting n)).emit [.forceBreak e.telegram.dest]) ready rfl (k := 1)
      (by decide) (Follows.step (w := Work.begin (s.frameEnded.noting n)) first
        (.done fun rs => ⟨rfl, rfl, rfl, congrArg (State.reporting · rs) kept, left, signals, sections, rs, rfl⟩) n.reports)
    have ended := next_inj done (row.trans ends)
    refine ⟨?_, ?_, fun there => absurd there present⟩
    · rw [ended, ended_same, reached]
      exact peer
    · have counts' : (State.placeChanged s b).drained.counts = n.counts := by
        rw [ended_counts, reached]
        exact counts
      rw [ended, counts']
      exact counted

@[simp] theorem asking_counts (s : State) (qs : List Request) (es : List SendEntry) : (s.asking qs es).counts = s.counts := rfl

/-- A boundary whose OFFER under a tag has been settled (R169). -/
def BoundaryRec.answered (r : BoundaryRec) (tag : Byte) (state : OutboundState) : BoundaryRec :=
  { r with outbound := r.outbound.map fun o => if o.tag = tag ∧ o.state = .offered then { o with state := state } else o }

theorem offerAnswered_eq (s : State) (b : Fin 4) (tag : Byte) (state : OutboundState) :
    s.offerAnswered b tag state = s.setBoundary b (s.boundaries[b].answered tag state) := rfl

/-- An OFFER that is given up leaves its record UNANSWERED (R73, R79, R169). -/
theorem gaveUp_of_offer {q : Request} {b : Fin 4} (ready : s.ready) (done : s.event s.frameEnded work = .next t)
    (work_eq : work (Work.begin s.frameEnded) = (Work.begin (s.abandoned k fault station)).givenUp e)
    (unique : s.requestsHold) (known : q ∈ s.requests) (pending : e.pendingTag = some q.tag) (offer : q.subject = .offer b) :
    t.requests = s.requests.filter (·.tag != q.tag)
      ∧ min 255 (s.counts[faultIndex fault] + 1) ≤ t.counts[faultIndex fault]
      ∧ t.boundaries[b].outbound = s.boundaries[b].outbound.map fun o =>
          if o.tag = q.tag ∧ o.state = .offered then { o with state := .unanswered none } else o := by
  obtain ⟨counted, -⟩ := abandoned_counts s k fault station
  obtain ⟨n, same⟩ : ∃ n, s.abandoned k fault station = s.frameEnded.noting n := ⟨_, abandoned_same s k fault station⟩
  rw [same, State.noting_counts] at counted
  rw [same] at work_eq
  let u := (s.frameEnded.noting n).asking (s.requests.filter (·.tag != q.tag)) n.sendQueue
  have begun : work (Work.begin s.frameEnded) = (Work.begin u).emit [.requestFailed q] :=
    work_eq.trans (givenUp_of_request unique.2 known pending)
  have first (rs : List Subject) : ((Work.begin u).reporting rs).take (.requestFailed q) =
      (Work.begin (u.offerAnswered b q.tag (.unanswered none))).reporting rs := by
    show ((Work.begin u).reporting rs).requestFailed q = _
    unfold Work.requestFailed
    rw [offer]
    rfl
  have kept : s.frameEnded.keep (u.offerAnswered b q.tag (.unanswered none)) = u.offerAnswered b q.tag (.unanswered none) := by
    rw [offerAnswered_eq]
    simp [u, State.keep_self]
  obtain ⟨c, ends, rs, reached⟩ := event_arrives (Q := fun c => ∃ rs, c = (u.offerAnswered b q.tag (.unanswered none)).reporting rs)
    (start := s.frameEnded) (work := fun _ => (Work.begin u).emit [.requestFailed q]) ready rfl (k := 1) (by decide)
    (Follows.step (w := Work.begin u) first (.done fun rs => ⟨rfl, rfl, rfl, congrArg (State.reporting · rs) kept,
      by simp [Work.reporting, offerAnswered_eq, u, ready.2], by simp [Work.reporting, offerAnswered_eq, u],
      by simp [Work.reporting, offerAnswered_eq, u], rs, rfl⟩) n.reports)
  have ended := next_inj done ((event_congr begun).trans ends)
  have counts : (State.placeChanged s c).drained.counts = n.counts := by
    rw [ended_counts, reached]
    simp [offerAnswered_eq, u]
  refine ⟨?_, by rw [ended, counts]; exact counted, ?_⟩
  all_goals
    rw [ended, ended_same, reached]
    simp [offerAnswered_eq, BoundaryRec.answered, u]

/-- What a telegram given up has made of the state (`State.gaveUp`). -/
theorem event_gaveUp (ready : s.ready) (done : s.event s.frameEnded work = .next t)
    (work_eq : work (Work.begin s.frameEnded) = (Work.begin (s.abandoned k fault station)).givenUp e)
    (other : fault ≠ .peerBreak) :
    t.sending = none ∧ t.yieldGap = true ∧ t.idleCount = 0 ∧ t.gaveUp s e fault := by
  obtain ⟨v, ends, kept, -⟩ := event_keeps (start := s.frameEnded) (work := work) ready.1
    (by rw [work_eq]; exact lawful_givenUp e (lawful_recordFault _ _ _ (lawful_dequeue k (.refl _))))
  have ended := next_inj done ends
  subst ended
  refine ⟨(congrArg State.sending kept).symm, (congrArg State.yieldGap kept).symm, (congrArg State.idleCount kept).symm,
    fun p zero there vacant nowhere => gaveUp_of_class ready done work_eq other zero there vacant nowhere,
    fun settled tagged => ?_,
    fun q b unique known pending offer => gaveUp_of_offer ready done work_eq unique known pending offer⟩
  obtain ⟨n, same⟩ : ∃ n, s.abandoned k fault station = s.frameEnded.noting n := ⟨_, abandoned_same s k fault station⟩
  rw [same, givenUp_of_settled _ settled tagged] at work_eq
  obtain ⟨u, ends, noted⟩ := event_within (before := s) (start := s.frameEnded) (work := work) (b := s.frameEnded.noting n)
    ready rfl (.of_eq work_eq) rfl ready.2
  rw [next_inj done ends, drained_noting, noted.noting]
  exact ⟨rfl, rfl⟩

/-- A telegram without an entry and above class 0 is given up without more. -/
theorem givenUp_of_untagged (w : Work) (untagged : bodyTag e.telegram.body = none) (cls : telegramClass e.telegram ≠ 0) :
    w.givenUp e = w := by
  have none : e.pendingTag = Option.none := by
    unfold SendEntry.pendingTag
    rw [untagged]
    exact ite_self _
  unfold Work.givenUp
  rw [none]
  exact if_neg cls

theorem exec_next_of_event {c : Instr} {start : State} (row : exec c s = s.event start work) (ready : s.ready) :
    ∃ t, exec c s = .next t ∧ s.event start work = .next t :=
  ⟨_, row.trans (event_of_live ready.1), event_of_live ready.1⟩

end

/-- Settles O21. -/
theorem lineErrorRepeatsThenGivesUp : Obligations.LineErrorRepeatsThenGivesUp := by
  intro s k e ready line entry whole
  have row := abortMark_event line entry
  refine ⟨fun few => ⟨s.frameEnded, row.trans ?_, rfl⟩, fun last untagged cls => ?_, fun last => ?_⟩
  · exact event_unshown (start := s.frameEnded) (work := fun w => w.lineError k e) ready rfl (lineError_repeats _ k whole few)
      (State.keep_self _) rfl (showsSame_line ..)
  · obtain ⟨m, made⟩ : ∃ m, (s.frameEnded.dequeue k).countFault .lineError .controller none = s.frameEnded.noting m :=
      ⟨((s.frameEnded.dequeue k).countFault .lineError .controller none).notes, rfl⟩
    have queue : m.sendQueue = s.sendQueue.eraseIdx k := (congrArg State.sendQueue made).symm
    have counts : m.counts[faultIndex .lineError] = min 255 (s.counts[faultIndex .lineError] + 1) :=
      (congrArg (·.counts[faultIndex .lineError]) made).symm.trans ((countFault_counts _ _ _ _ _).trans (if_pos rfl))
    have first : m.firstFault = s.firstFault.or (some ⟨.lineError, .controller, none, s.captureTimer⟩) :=
      (congrArg State.firstFault made).symm.trans (countFault_firstFault _ _ _ _)
    refine .of_noted (b := s.frameEnded.noting m) ?_ fun n after => ?_
    · rw [row]
      refine event_within (start := s.frameEnded) (work := fun w => w.lineError k e) ready rfl ?_ rfl ready.2
      rw [lineError_givesUp k whole last, givenUp_of_untagged _ untagged cls, ← made]
      exact .of_noted (noted_recordFault _ _ _ _)
    · obtain ⟨more, sent⟩ := after.sent
      refine ⟨rfl, rfl, rfl, ⟨more, sent.trans (congrArg (· ++ more) queue)⟩, ⟨rfl, rfl, rfl⟩, ⟨rfl, rfl, rfl, rfl, rfl⟩,
        (after.counts .lineError (by decide)).trans counts, (after.kept ?_).trans first⟩
      rw [State.noting_firstFault, first]
      cases s.firstFault <;> rfl
  · obtain ⟨t, done, ends⟩ := exec_next_of_event row ready
    exact ⟨t, done, event_gaveUp ready ends (lineError_givesUp k whole last) (by decide)⟩

/-- The requests once a telegram is delivered (R79). -/
def State.requestsAfter (s : State) (e : SendEntry) : List Request :=
  match e.pendingTag with
  | some tag => s.requests.map fun q => if q.tag = tag then { q with state := .waiting s.cfg.answerTimeout } else q
  | none => s.requests

/-- The peers once a telegram is delivered (R86). -/
def State.peersAfter (s : State) (e : SendEntry) : List PeerEntry :=
  if bodyKind e.telegram.body = .presence then
    s.peers.map fun p =>
      if p.muting = .pending ∧ !e.mutedLater.contains p.address then { p with muting := .announced } else p
  else s.peers

/-- The state in which a telegram has been delivered. -/
def State.sent (s : State) (k : Nat) (e : SendEntry) : State :=
  { s.frameEnded with sendQueue := s.sendQueue.eraseIdx k, requests := s.requestsAfter e, peers := s.peersAfter e }

theorem bodyTag_of_presence {body : Body} (presence : bodyKind body = .presence) : bodyTag body = none := by
  cases body
  case reserve => exact Kind.noConfusion (show Kind.reserve = .presence from presence)
  case flankClaim => exact Kind.noConfusion (show Kind.flankClaim = .presence from presence)
  case directionRequest => exact Kind.noConfusion (show Kind.directionRequest = .presence from presence)
  case offer => exact Kind.noConfusion (show Kind.offer = .presence from presence)
  all_goals rfl

theorem pendingTag_of_presence (presence : bodyKind e.telegram.body = .presence) : e.pendingTag = none := by
  unfold SendEntry.pendingTag
  rw [bodyTag_of_presence presence]
  exact ite_self _

theorem delivered_eq (k : Nat) (whole : e.doomed = false) : s.frameEnded.delivered k e = s.sent k e := by
  unfold State.delivered State.sent State.requestsAfter State.peersAfter
  dsimp only
  rw [whole, if_neg Bool.false_ne_true]
  split
  · next tag pending =>
    rw [pending, if_neg (fun presence => by rw [pendingTag_of_presence presence] at pending; cases pending)]
    rfl
  · next none presence =>
    rw [none, if_pos presence]
    rfl
  · next none other =>
    rw [none, if_neg other]
    rfl

theorem showsSame_sent (s : State) (k : Nat) (e : SendEntry) : ShowsSame s (s.sent k e) := by
  refine ⟨fun _ => rfl, fun _ => rfl, rfl, rfl, rfl, rfl, rfl, rfl, rfl, rfl, rfl, ?_, rfl, rfl⟩
  show (s.peersAfter e).map _ = _
  unfold State.peersAfter
  split
  · rw [List.map_map]
    refine List.map_congr_left fun p _ => ?_
    dsimp only [Function.comp]
    split <;> rfl
  · rfl

/-- Settles O22. -/
theorem slotDeliversOrRepeats : Obligations.SlotDeliversOrRepeats := by
  intro s k e ready line entry whole
  refine ⟨fun dominant taken => ?_, fun addressed few => ⟨s.frameEnded, (acknowledgementSlot_event line entry false).trans ?_, rfl⟩,
    fun addressed last => ?_⟩
  · have work_eq : (fun w : Work => if dominant || e.telegram.dest == 0 then w.on (·.delivered k e) else w.unacknowledged k e)
        (Work.begin s.frameEnded) = Work.begin (s.sent k e) := by
      dsimp only
      rw [if_pos (by simpa using taken)]
      exact congrArg Work.begin (delivered_eq k whole)
    have done := (acknowledgementSlot_event line entry dominant).trans
      (event_unshown (start := s.frameEnded) ready rfl work_eq rfl rfl (showsSame_sent s k e))
    obtain ⟨same, more, left, -⟩ := drained_drained (s.sent k e)
    have ends := drained_ends (s.sent k e)
    have line : (s.sent k e).drained.lineUsed = s.lineUsed := by
      rw [same]
      rfl
    refine ⟨_, done, ?_, ?_, ?_, ?_, ?_, fun none => ?_, more, ⟨_, (List.suffix_iff_eq_drop.mp left :)⟩, fun used => ends (line.trans used),
      fun presence => ?_, ?_⟩
    · rw [same]; rfl
    · rw [same]; rfl
    · rw [same]; rfl
    · rw [same]; exact ⟨rfl, rfl, rfl⟩
    · rw [same]; exact ⟨rfl, rfl, rfl, rfl, rfl⟩
    · rw [drained_of_empty (s.sent k e) none]
      exact ⟨rfl, none⟩
    · rw [same]
      exact if_pos presence
    · rw [same]
      show s.requestsAfter e = _
      unfold State.requestsAfter
      cases e.pendingTag <;> rfl
  · refine event_unshown (start := s.frameEnded) (work := _) ready rfl ?_ (State.keep_self _) rfl (showsSame_line ..)
    rw [Bool.false_or, if_neg (by simpa using addressed)]
    exact unacknowledged_repeats _ k whole few
  · obtain ⟨t, done, ends⟩ := exec_next_of_event (acknowledgementSlot_event line entry false) ready
    refine ⟨t, done, event_gaveUp (k := k) (station := some e.telegram.dest) ready ends ?_ (by decide)⟩
    rw [Bool.false_or, if_neg (by simpa using addressed)]
    exact unacknowledged_givesUp k whole last

end

end Sys2Proof.Machine
end

section
/-! PROOFS. The telegrams of neighbours at a boundary, and a boundary's timers: OFFER, CONFIRM, DIRECTION REQUEST (O34,
O35, O36). Their owners give rise to no tasks. -/

namespace Sys2Proof.Machine

/-! ## Rows of the neighbours' telegrams -/

section
variable {s : State} {c : Instr} {source : Nat} {body : Body} {rest : List RawTelegram}
  {owner : Nat → Body → Work → Work} {P : State → Prop}

/-- A row whose telegram is handed over is the event of its owner. -/
theorem exec_hands (row : exec c s = s.takeTelegram (·.isKind (bodyKind body)) owner) (hands : s.hands source body rest) :
    ∃ x, x.isKind (bodyKind body) = true ∧ exec c s =
      s.event { s with recvQueue := rest } fun w => owner source body (w.on (·.handed x)) := by
  obtain ⟨x, queue, rfl, own, passed⟩ := hands
  exact ⟨x, own, row.trans (takeFront_hands queue own passed)⟩

/-- A row of a neighbour's telegram whose owner gives rise to no tasks. -/
theorem Completes.of_hands (row : exec c s = s.takeTelegram (·.isKind (bodyKind body)) owner) (ready : s.ready)
    (hands : s.hands source body rest) (b : RawTelegram → State)
    (near : ∀ x, Near (Work.begin (b x)) (owner source body (Work.begin (s.taking x rest))))
    (kept : ∀ x, ({ s with recvQueue := rest } : State).keep (b x) = b x) (left : ∀ x, (b x).agenda = s.agenda)
    (h : ∀ x (n : Notes), n.After (b x) → P ((b x).noting n)) : Completes c s P := by
  obtain ⟨x, -, done⟩ := exec_hands row hands
  refine .of_noted (b := b x) ?_ (h x)
  rw [done]
  exact event_within (work := fun w => owner source body (w.on (·.handed x))) ready rfl (near x) (kept x)
    ((left x).trans ready.2)

/-- The same where the statement gives the send queue exactly: no signal and no section is changed. -/
theorem CompletesDraining.of_hands (row : exec c s = s.takeTelegram (·.isKind (bodyKind body)) owner) (ready : s.ready)
    (hands : s.hands source body rest) (b : RawTelegram → State)
    (work_eq : ∀ x, owner source body (Work.begin (s.taking x rest)) = Work.begin (b x))
    (kept : ∀ x, ({ s with recvQueue := rest } : State).keep (b x) = b x) (left : ∀ x, (b x).agenda = s.agenda)
    (signals : ∀ x, (b x).signals = s.signals) (sections : ∀ x, (b x).sections = s.sections)
    (h : ∀ x rs, P ((b x).reporting rs)) : CompletesDraining c s P := by
  obtain ⟨x, -, done⟩ := exec_hands row hands
  refine .of_placed (b := b x) (done.trans ?_) (h x)
  exact event_places (work := fun w => owner source body (w.on (·.handed x))) ready rfl (work_eq x) (kept x)
    ((left x).trans ready.2) (signals x) (sections x)

/-- Nothing is kept of a telegram that is no request. -/
theorem taking_of_untagged {x : RawTelegram} {k : Kind} (own : x.isKind k = true) (untagged : k.tagged = false) :
    s.taking x rest = { s with recvQueue := rest } := by
  have known : Kind.ofCode x.kind = some k := by simpa [RawTelegram.isKind] using own
  unfold State.taking
  rw [← keepRequest_eq, State.keepRequest, known]
  exact if_neg (by simp [untagged])

end

/-! ## OFFER (R172) -/

/-- A state with one more telegram placed. -/
def State.placing (s : State) (dest : Nat) (body : Body) : State :=
  s.noting { s.notes with sendQueue := s.sendQueue ++ [placed dest body] }

@[simp] theorem placing_sendQueue (s : State) (dest : Nat) (body : Body) :
    (s.placing dest body).sendQueue = s.sendQueue ++ [placed dest body] := rfl
@[simp] theorem placing_counts (s : State) (dest : Nat) (body : Body) : (s.placing dest body).counts = s.counts := rfl
@[simp] theorem placing_agenda (s : State) (dest : Nat) (body : Body) : (s.placing dest body).agenda = s.agenda := rfl
@[simp] theorem placing_recvQueue (s : State) (dest : Nat) (body : Body) :
    (s.placing dest body).recvQueue = s.recvQueue := rfl
@[simp] theorem placing_boundaries (s : State) (dest : Nat) (body : Body) :
    (s.placing dest body).boundaries = s.boundaries := rfl
@[simp] theorem placing_sections (s : State) (dest : Nat) (body : Body) : (s.placing dest body).sections = s.sections := rfl
@[simp] theorem placing_points (s : State) (dest : Nat) (body : Body) : (s.placing dest body).points = s.points := rfl
@[simp] theorem placing_signals (s : State) (dest : Nat) (body : Body) : (s.placing dest body).signals = s.signals := rfl
@[simp] theorem placing_requests (s : State) (dest : Nat) (body : Body) : (s.placing dest body).requests = s.requests := rfl
@[simp] theorem placing_instances (s : State) (dest : Nat) (body : Body) :
    (s.placing dest body).instances = s.instances := rfl
@[simp] theorem placing_lastEnded (s : State) (dest : Nat) (body : Body) :
    (s.placing dest body).lastEnded = s.lastEnded := rfl
@[simp] theorem placing_reservations (s : State) (dest : Nat) (body : Body) :
    (s.placing dest body).reservations = s.reservations := rfl
@[simp] theorem placing_register (s : State) (dest : Nat) (body : Body) : (s.placing dest body).register = s.register := rfl
@[simp] theorem placing_remote (s : State) (dest : Nat) (body : Body) : (s.placing dest body).remote = s.remote := rfl
@[simp] theorem keep_placing (u s : State) (dest : Nat) (body : Body) :
    u.keep (s.placing dest body) = (u.keep s).placing dest body := rfl

theorem post_places (s : State) (dest : Nat) (body : Body)
    (there : (bodyKind body).cls = 1 → s.isPresent dest = true) (room : s.room (bodyKind body).cls = true) :
    s.post dest body = s.placing dest body := post_of_room s dest body there room

section
variable {s : State} {source index train speed receiving : Nat} {b : Fin 4} {c : BoundaryCfg} {tag : Byte}

theorem offerVerdict_of_into (inUse : s.service = .outOfService ∨ s.service = .inService)
    (at_ : s.boundaryAt index = some (b, c)) (neighbour : c.neighbour = source) (edge : receiving = c.edge.val)
    (into : s.boundaries[b].direction = .into) : s.offerVerdict source index receiving =
      if 4 ≤ s.boundaries[b].inbound.length then some .queueFull else none := by
  unfold State.offerVerdict
  rw [if_neg (by tauto), at_]
  dsimp only
  rw [if_neg (not_not_intro neighbour), if_neg (not_not_intro edge), if_neg (not_not_intro into)]

/-- Settles O35. -/
theorem offerJoinsInboundQueue : Obligations.OfferJoinsInboundQueue := by
  intro s source index train speed receiving tag rest b c ready hands inUse at_ neighbour edge into room
  have answer (u : State) (queue : u.sendQueue = s.sendQueue) (reason : Option Reason) :
      u.post source (.offerAnswer tag index reason) = u.placing source (.offerAnswer tag index reason) :=
    post_places u source _ (fun h => absurd (show Kind.offerAnswer.cls = 1 from h) (by decide))
      (room_of_le (cls := Kind.offerAnswer.cls) (queue ▸ room))
  have verdict := offerVerdict_of_into inUse at_ neighbour edge into
  by_cases full : 4 ≤ s.boundaries[b].inbound.length
  · rw [if_pos full] at verdict
    refine .of_hands rfl ready hands (fun x => (s.taking x rest).placing source (.offerAnswer tag index (some .queueFull)))
      (fun x => ?_) (fun x => by simp) (fun x => by simp) (fun x => by simp) (fun x => by simp) fun x rs => ?_
    · have refused : (s.taking x rest).takeOffer source tag index train speed receiving =
          (s.taking x rest).post source (.offerAnswer tag index (some .queueFull)) := by
        unfold State.takeOffer
        rw [show (s.taking x rest).offerVerdict source index receiving = some .queueFull from verdict]
      exact congrArg Work.begin (refused.trans (answer _ (by simp) _))
    · refine ⟨by simp, ⟨by simp, by simp, by simp⟩, ⟨by simp, by simp, by simp, by simp, by simp⟩, ?_⟩
      rw [if_neg (Nat.not_lt.mpr full)]
      exact ⟨by simp, by simp⟩
  · rw [if_neg full] at verdict
    refine .of_hands rfl ready hands (fun x => ((s.taking x rest).setBoundary b { s.boundaries[b] with
        inbound := s.boundaries[b].inbound ++ [⟨train, speed, tag⟩] }).placing source (.offerAnswer tag index none))
      (fun x => ?_) (fun x => by simp) (fun x => by simp) (fun x => by simp) (fun x => by simp) fun x rs => ?_
    · have accepted : (s.taking x rest).takeOffer source tag index train speed receiving =
          ((s.taking x rest).setBoundary b { s.boundaries[b] with
            inbound := s.boundaries[b].inbound ++ [⟨train, speed, tag⟩] }).post source (.offerAnswer tag index none) := by
        unfold State.takeOffer
        rw [show (s.taking x rest).offerVerdict source index receiving = none from verdict,
          show (s.taking x rest).boundaryAt index = some (b, c) from at_]
        rfl
      exact congrArg Work.begin (accepted.trans (answer _ (by simp) _))
    · refine ⟨by simp, ⟨by simp, by simp, by simp⟩, ⟨by simp, by simp, by simp, by simp, by simp⟩, ?_⟩
      rw [if_pos (Nat.lt_of_not_le full)]
      exact ⟨by simp, by simp⟩

/-- Counting a fault is noting. -/
theorem countFault_noting (s : State) (k : FaultKind) (x : Subject) (n : Option Nat) : ∃ m,
    s.countFault k x n = s.noting m ∧ m.counts[faultIndex k] = min 255 (s.counts[faultIndex k] + 1) :=
  ⟨(s.countFault k x n).notes, rfl, (countFault_counts s k k x n).trans (if_pos rfl)⟩

/-! ## CONFIRM and the confirm timer (R170, R171) -/

/-- A record at the front of the outbound queue is dropped, with its pending entry (R168, R169). -/
theorem dropOutbound_front {u : State} {o : OutboundRec} {more : List OutboundRec} {which : OutboundRec → Bool}
    (front : u.boundaries[b].outbound = o :: more) (due : which o = true) :
    ∃ qs es, u.dropOutbound b which = (u.asking qs es).setBoundary b { u.boundaries[b] with outbound := more } := by
  have rest : (o :: more).eraseP which = more := by simp [due]
  unfold State.dropOutbound
  rw [front, List.find?_cons_of_pos due]
  dsimp only
  split
  · refine ⟨(u.dropOffer b o.tag).requests, (u.dropOffer b o.tag).sendQueue, ?_⟩
    rw [dropOffer_same]
    show State.setBoundary _ b { u.boundaries[b] with outbound := u.boundaries[b].outbound.eraseP which } = _
    rw [front, rest, asking_requests, asking_sendQueue]
  · refine ⟨u.requests, u.sendQueue, ?_⟩
    show State.setBoundary u b { u.boundaries[b] with outbound := u.boundaries[b].outbound.eraseP which } = _
    rw [front, rest]
    rfl

theorem confirm_taken {u : State} {o : OutboundRec} {more : List OutboundRec} (at_ : u.boundaryAt index = some (b, c))
    (neighbour : c.neighbour = source) (fresh : u.boundaries[b].lastConfirm ≠ some (o.train, tag))
    (front : u.boundaries[b].outbound = o :: more) : ∃ qs es, u.takeConfirm source index o.train tag =
      (u.asking qs es).setBoundary b { u.boundaries[b] with outbound := more, lastConfirm := some (o.train, tag) } := by
  unfold State.takeConfirm
  rw [at_]
  dsimp only
  rw [if_neg (not_or_intro (not_not_intro neighbour) fresh), front, if_pos (by simp)]
  obtain ⟨qs, es, dropped⟩ := dropOutbound_front (b := b) (which := (·.train == o.train))
    (u := u.setBoundary b { u.boundaries[b] with lastConfirm := some (o.train, tag) }) (o := o) (more := more)
    (by simpa using front) (by simp)
  refine ⟨qs, es, dropped.trans ?_⟩
  have asked : (u.setBoundary b { u.boundaries[b] with lastConfirm := some (o.train, tag) }).asking qs es =
      (u.asking qs es).setBoundary b { u.boundaries[b] with lastConfirm := some (o.train, tag) } := rfl
  rw [asked, setBoundary_setBoundary]
  simp

/-- Settles O36. -/
theorem confirmOrTimerEndsOutboundRecord : Obligations.ConfirmOrTimerEndsOutboundRecord := by
  intro s b o more ready
  refine ⟨fun source index tag rest c hands at_ neighbour => ⟨fun fresh front => ?_, fun again => ?_⟩, fun front runs => ?_⟩
  · have taken (x : RawTelegram) : ∃ qs es, (s.taking x rest).takeConfirm source index o.train tag =
        ((s.taking x rest).asking qs es).setBoundary b
          { s.boundaries[b] with outbound := more, lastConfirm := some (o.train, tag) } :=
      confirm_taken (u := s.taking x rest) at_ neighbour fresh front
    choose qs es taken using taken
    refine .of_hands rfl ready hands (fun x => ((s.taking x rest).asking (qs x) (es x)).setBoundary b
        { s.boundaries[b] with outbound := more, lastConfirm := some (o.train, tag) })
      (fun x => .of_eq (congrArg Work.begin (taken x))) (fun x => by simp) (fun x => by simp) fun x n _ => ?_
    exact ⟨by simp, ⟨by simp, by simp, by simp⟩, ⟨by simp, by simp, by simp, by simp, by simp⟩, by simp⟩
  · obtain ⟨x, own, done⟩ := exec_hands (c := .confirm) rfl hands
    have same : s.taking x rest = { s with recvQueue := rest } := taking_of_untagged own rfl
    refine ⟨_, done.trans ?_, rfl⟩
    refine event_unshown (start := { s with recvQueue := rest }) (work := _) ready rfl ?_ (State.keep_self _) rfl
      (showsSame_line ..)
    show Work.begin ((s.taking x rest).takeConfirm source index o.train tag) = _
    rw [same]
    unfold State.takeConfirm
    rw [show State.boundaryAt { s with recvQueue := rest } index = some (b, c) from at_]
    exact congrArg Work.begin (if_pos (.inr again))
  · obtain ⟨qs, es, dropped⟩ := dropOutbound_front (u := s) (which := fun o' : OutboundRec => o'.tag == o.tag && o'.confirmTimer.isSome)
      front (by simp [runs])
    obtain ⟨m, counted, one⟩ := countFault_noting ((s.asking qs es).setBoundary b { s.boundaries[b] with outbound := more })
      .handoverUnconfirmed (.elem (.boundary b)) none
    refine .of_noted (b := ((s.asking qs es).setBoundary b { s.boundaries[b] with outbound := more }).noting m) ?_ fun n after => ?_
    · have expires : s.confirmExpires b o.tag = ((s.asking qs es).setBoundary b
          { s.boundaries[b] with outbound := more }).recordFault .handoverUnconfirmed (.elem (.boundary b)) := by
        unfold State.confirmExpires
        dsimp only
        rw [dropped, if_pos (by rw [front]; simp [runs])]
      refine event_within (before := s) (start := s) (work := fun w => w.on (·.confirmExpires b o.tag)) ready rfl ?_
        (by simp [State.keep_self]) (by simp [ready.2])
      show Near _ (Work.begin (s.confirmExpires b o.tag))
      rw [expires, ← counted]
      exact .of_noted (noted_recordFault _ _ _ _)
    · refine ⟨by simp, ⟨by simp, by simp, by simp⟩, ⟨by simp, by simp, by simp, by simp, by simp⟩,
        (after.counts .handoverUnconfirmed (by decide)).trans (one.trans ?_)⟩
      simp

end

end Sys2Proof.Machine
end

section
/-! PROOFS. DIRECTION REQUEST (O34), and the answers and deadlines of a boundary's requests where no route waits. -/

namespace Sys2Proof.Machine

section
variable {s : State} {source index : Nat} {b : Fin 4} {c : BoundaryCfg} {tag : Byte}

/-- A class 0 answer finds room (R73). -/
theorem postProof_places {w : Work} {dest : Nat} {body : Body} (room : w.st.sendQueue.length < 32) :
    w.postProof dest body = w.on (·.placing dest body) := if_pos (room_of_le (cls := 0) room)

/-- A refused DIRECTION REQUEST is answered alone (R161). -/
theorem takeDirectionRequest_refused {w : Work} {reason : Reason} (room : w.st.sendQueue.length < 32)
    (verdict : w.st.directionVerdict source index = some reason) :
    w.takeDirectionRequest source tag index = w.on (·.placing source (.directionAnswer tag index (some reason))) := by
  unfold Work.takeDirectionRequest
  rw [verdict]
  exact postProof_places room

/-- A pending entry that is removed, and its telegram with it (R80, R161). -/
theorem dropRequest_eq (s : State) (tag : Byte) : ∃ es, es.length ≤ s.sendQueue.length
    ∧ s.dropRequest tag = s.asking (s.requests.filter (·.tag != tag)) es := by
  unfold State.dropRequest
  split
  · next unknown =>
    have all : s.requests.filter (·.tag != tag) = s.requests := by
      refine List.filter_eq_self.mpr fun q known => ?_
      have := List.find?_eq_none.mp unknown q known
      simpa using this
    exact ⟨s.sendQueue, le_refl _, by rw [all]; rfl⟩
  · next q _ =>
    dsimp only
    split
    · exact ⟨(State.unsend { s with requests := s.requests.filter (·.tag != tag) } (·.asks q)).sendQueue,
        List.length_filterMap_le _ _, rfl⟩
    · exact ⟨s.sendQueue, le_refl _, rfl⟩

/-- The checks of R161 on the neighbour's own boundary. -/
theorem directionVerdict_of_neighbour (inUse : s.service = .outOfService ∨ s.service = .inService)
    (at_ : s.boundaryAt index = some (b, c)) (neighbour : c.neighbour = source)
    (free : s.blockOf (.boundary b) = none ∨ s.boundaries[b].direction = .into) :
    s.directionVerdict source index = match s.boundaries[b].direction with
      | .neutral => none
      | .into => none
      | .out => if s.boundaries[b].claims.isEmpty && s.boundaries[b].outbound.isEmpty && s.boundaries[b].inbound.isEmpty
          then none else some .directionRefused
      | .asking _ => if source < s.own then none else some .contended := by
  unfold State.directionVerdict
  rw [if_neg (by tauto), at_]
  dsimp only
  rw [if_neg (not_not_intro neighbour)]
  refine (if_neg ?_).trans rfl
  rintro ⟨blocked, out⟩
  rcases free with open_ | into
  · rw [open_] at blocked
    exact Bool.false_ne_true blocked
  · exact out into

/-- A DIRECTION REQUEST granted where nothing is asked for (R161). -/
theorem takeDirectionRequest_granted {w : Work} (verdict : w.st.directionVerdict source index = none)
    (at_ : w.st.boundaryAt index = some (b, c)) (settled : ∀ previous, w.st.boundaries[b].direction ≠ .asking previous)
    (room : w.st.sendQueue.length < 32) : w.takeDirectionRequest source tag index =
      w.on fun s => (s.setBoundary b { s.boundaries[b] with direction := .into }).placing source
        (.directionAnswer tag index none) := by
  unfold Work.takeDirectionRequest
  rw [verdict, at_]
  dsimp only
  split
  · next previous asks => exact absurd asks (settled previous)
  · exact postProof_places (w := w.on (·.changeBoundary b fun r => { r with direction := .into })) room

/-- A direction taken where no route waits (R161, R162). -/
theorem settleDirection_of_none {w : Work} {direction : Direction} {told : DirectionTold}
    (none : w.st.boundaries[b].waiting = []) : w.settleDirection b direction told =
      w.on (·.setBoundary b { w.st.boundaries[b] with direction := direction }) := by
  unfold Work.settleDirection
  dsimp only
  rw [none, List.map_nil, emit_nil]
  simp only [List.append_nil, ite_self]
  rfl

/-- A DIRECTION REQUEST granted against this station's own, which it withdraws (R161). -/
theorem takeDirectionRequest_contends {w : Work} {previous : PreviousDirection} {q : Request}
    (verdict : w.st.directionVerdict source index = none) (at_ : w.st.boundaryAt index = some (b, c))
    (asks : w.st.boundaries[b].direction = .asking previous) (none : w.st.boundaries[b].waiting = [])
    (own : w.st.requests.find? (fun q => q.subject == RequestSubject.direction b) = some q)
    (room : w.st.sendQueue.length < 32) : ∃ es, es.length ≤ w.st.sendQueue.length
      ∧ w.takeDirectionRequest source tag index = w.on fun s =>
        ((s.asking (s.requests.filter (·.tag != q.tag)) es).setBoundary b { s.boundaries[b] with direction := .into }).placing
          source (.directionAnswer tag index Option.none) := by
  obtain ⟨es, short, dropped⟩ := dropRequest_eq w.st q.tag
  refine ⟨es, short, ?_⟩
  have told : (w.on (·.dropRequest q.tag)).settleDirection b .into .contended =
      (w.on (·.asking (w.st.requests.filter (·.tag != q.tag)) es)).on
        (·.setBoundary b { w.st.boundaries[b] with direction := .into }) := by
    rw [Work.on, dropped, settleDirection_of_none (by exact none)]
    rfl
  unfold Work.takeDirectionRequest
  rw [verdict, at_]
  dsimp only
  rw [asks]
  dsimp only
  rw [own]
  dsimp only
  rw [told, postProof_places]
  · rfl
  · exact Nat.lt_of_le_of_lt short room

/-- Settles O34. -/
theorem directionRequestIsGrantedOrRefused : Obligations.DirectionRequestIsGrantedOrRefused := by
  intro s source index tag rest ready hands room answers refused inUse
  have refuses {reason : Reason} (verdict : s.directionVerdict source index = some reason) : refused reason := by
    refine .of_hands rfl ready hands (fun x => (s.taking x rest).placing source (.directionAnswer tag index (some reason)))
      (fun x => takeDirectionRequest_refused (w := Work.begin (s.taking x rest)) room verdict) (fun x => by simp)
      (fun x => by simp) (fun x => by simp) (fun x => by simp) fun x rs => ?_
    exact ⟨by simp, ⟨by simp, by simp, by simp⟩, ⟨by simp, by simp, by simp, by simp, by simp⟩, ⟨by simp, by simp⟩,
      s.sendQueue, by simp, fun _ => rfl⟩
  refine ⟨fun out => ?_, fun used nowhere => ?_, fun b c used at_ => ⟨fun foreign => ?_, fun neighbour blocked out => ?_,
    fun neighbour free => ?_⟩⟩
  · refine refuses ?_
    unfold State.directionVerdict
    exact if_pos (by simpa [inUse] using out)
  · refine refuses ?_
    unfold State.directionVerdict
    rw [if_neg (by tauto), nowhere]
  · refine refuses ?_
    unfold State.directionVerdict
    rw [if_neg (by tauto), at_]
    exact if_pos foreign
  · refine refuses ?_
    unfold State.directionVerdict
    rw [if_neg (by tauto), at_]
    dsimp only
    rw [if_neg (not_not_intro neighbour)]
    exact if_pos ⟨blocked, out⟩
  · have verdict := directionVerdict_of_neighbour used at_ neighbour free
    refine ⟨fun ⟨out, held⟩ => ?_, fun loose settled => ?_, fun previous asks => ⟨fun above => ?_,
      fun q known below none unique alone own => ?_⟩⟩
    · refine refuses (verdict.trans ?_)
      rw [out]
      refine if_neg fun empty => held ?_
      simpa [and_assoc] using empty
    · have granted : s.directionVerdict source index = Option.none := by
        rw [verdict]
        cases direction : s.boundaries[b].direction with
        | neutral => rfl
        | into => rfl
        | out => 
          have empty := not_not.mp fun held => loose ⟨direction, held⟩
          exact if_pos (by simpa [and_assoc] using empty)
        | asking previous => exact absurd direction (settled previous)
      refine .of_hands rfl ready hands (fun x => ((s.taking x rest).setBoundary b
          { s.boundaries[b] with direction := .into }).placing source (.directionAnswer tag index none))
        (fun x => takeDirectionRequest_granted (w := Work.begin (s.taking x rest)) granted at_ settled room) (fun x => by simp)
        (fun x => by simp) (fun x => by simp) (fun x => by simp) fun x rs => ?_
      exact ⟨by simp, ⟨by simp, by simp, by simp⟩, ⟨by simp, by simp, by simp, by simp, by simp⟩, ⟨by simp, by simp⟩,
        s.sendQueue, by simp, fun _ => rfl⟩
    · refine refuses (verdict.trans ?_)
      rw [asks]
      exact if_neg (Nat.not_lt.mpr above)
    · have granted : s.directionVerdict source index = Option.none := by
        rw [verdict, asks]
        exact if_pos below
      have found : s.requests.find? (fun q => q.subject == RequestSubject.direction b) = some q := by
        cases first : s.requests.find? (fun q => q.subject == RequestSubject.direction b) with
        | none => exact absurd own (by simpa using List.find?_eq_none.mp first q known)
        | some x =>
          have same : x = q := alone x (List.mem_of_find?_eq_some first) (by simpa using List.find?_some first)
          rw [same]
      have taken (x : RawTelegram) := takeDirectionRequest_contends (w := Work.begin (s.taking x rest)) (tag := tag) granted at_
        asks none found room
      choose es short taken using taken
      refine .of_hands rfl ready hands (fun x => (((s.taking x rest).asking (s.requests.filter (·.tag != q.tag)) (es x)).setBoundary b
          { s.boundaries[b] with direction := .into }).placing source (.directionAnswer tag index Option.none))
        (fun x => taken x) (fun x => by simp)
        (fun x => by simp) (fun x => by simp) (fun x => by simp) fun x rs => ?_
      refine ⟨by simp, ⟨by simp, by simp, by simp⟩, ⟨by simp, by simp, by simp, by simp, by simp⟩, ⟨by simp, by simp⟩,
        es x, by simp, fun same => ?_⟩
      have kept : q ∈ s.requests.filter (·.tag != q.tag) := by
        have all : s.requests.filter (·.tag != q.tag) = s.requests := by simpa using same
        rw [all]
        exact known
      simp at kept

end

end Sys2Proof.Machine
end

section
/-! PROOFS. STATE NOTICE (O38). -/

namespace Sys2Proof.Machine

section
variable {s start : State} {k : Nat} {P : Work → Prop} {source elem age : Nat} {occupied proven : Bool}

theorem running_of_none {g : Fin 8} (empty : s.instances[g] = none) : s.running g = none := by
  unfold State.running
  rw [empty]

/-- Telling every route of a section has no effect where there are no routes. -/
theorem sectionTold_of_vacant {w : Work} (vacant : w.st.vacant) (g : Fin 8) (x : SectionRef) :
    w.take (.routeOccupied g x) = w ∧ w.take (.routeCleared g x) = w ∧ w.take (.routeKnown g x) = w := by
  have empty := running_of_none (vacant g)
  refine ⟨?_, ?_, ?_⟩
  · show w.sectionTaken g x = w
    unfold Work.sectionTaken
    rw [empty]
  · show w.sectionFreed g x = w
    unfold Work.sectionFreed
    rw [empty]
  · show w.sectionKnown g x = w
    unfold Work.sectionKnown
    rw [empty]

/-- A notice of a section that is named writes its entry, and every route is told alike (R33). -/
theorem takeNotice_of_entry {w : Work} {e : RemoteEntry} (named : w.st.remoteEntry ⟨source, elem⟩ = some e) :
    ∃ told : List Task, w.takeNotice source elem occupied proven age =
        (w.on (·.changeRemote ⟨source, elem⟩ fun _ => e.notified w.st.captureTimer occupied proven age)).emit told
      ∧ told.length ≤ 8 ∧ ∀ x ∈ told, ∃ g, x = .routeOccupied g ⟨source, elem⟩ ∨ x = .routeCleared g ⟨source, elem⟩
        ∨ x = .routeKnown g ⟨source, elem⟩ := by
  have told (f : Fin 8 → Task) (h : ∀ g, f g = .routeOccupied g ⟨source, elem⟩ ∨ f g = .routeCleared g ⟨source, elem⟩
      ∨ f g = .routeKnown g ⟨source, elem⟩) : (allEight.map f).length ≤ 8 ∧ ∀ x ∈ allEight.map f,
        ∃ g, x = .routeOccupied g ⟨source, elem⟩ ∨ x = .routeCleared g ⟨source, elem⟩ ∨ x = .routeKnown g ⟨source, elem⟩ := by
    refine ⟨by rw [List.length_map]; decide, fun x known => ?_⟩
    obtain ⟨g, -, rfl⟩ := List.mem_map.mp known
    exact ⟨g, h g⟩
  unfold Work.takeNotice
  dsimp only
  rw [named]
  dsimp only
  split
  · exact ⟨_, rfl, told _ fun g => .inl rfl⟩
  · exact ⟨_, rfl, told _ fun g => .inr (.inl rfl)⟩
  · exact ⟨_, rfl, told _ fun g => .inr (.inr rfl)⟩
  · exact ⟨[], (emit_nil _).symm, by simp, by simp⟩

/-- An entry that is written for a section that has one is the one it then has. -/
theorem changeRemote_entry {x : SectionRef} {e e' : RemoteEntry} (named : s.remoteEntry x = some e)
    (keeps : e'.station = e.station ∧ e'.index = e.index) : (s.changeRemote x fun _ => e').remoteEntry x = some e' := by
  have ours : e'.station = x.station ∧ e'.index = x.index := by
    have found := List.find?_some named
    rw [keeps.1, keeps.2]
    simpa using found
  have same : ((fun e : RemoteEntry => e.station == x.station && e.index == x.index) ∘
      fun e => if e.station = x.station ∧ e.index = x.index then e' else e)
      = fun e => e.station == x.station && e.index == x.index := by
    funext e
    dsimp only [Function.comp]
    split
    next is => rw [ours.1, ours.2, is.1, is.2]
    · rfl
  have found := List.find?_some named
  unfold State.remoteEntry at named
  unfold State.changeRemote State.remoteEntry
  dsimp only
  rw [List.find?_map, same, named]
  simp only [Bool.and_eq_true, beq_iff_eq] at found
  rw [Option.map_some, if_pos found]

theorem reporting_remoteEntry (s : State) (rs : List Subject) (x : SectionRef) :
    (s.reporting rs).remoteEntry x = s.remoteEntry x := rfl

/-- Settles O38: the telegrams that every route is told of change nothing where no route stands. -/
theorem noticeWritesImageAndCapture : Obligations.NoticeWritesImageAndCapture := by
  intro s source elem age occupied proven bit2 refresh rest ready vacant hands
  obtain ⟨x, own, done⟩ := exec_hands (c := .stateNotice) rfl hands
  cases named : s.remoteEntry ⟨source, elem⟩ with
  | none =>
    refine .of_hands (c := .stateNotice) rfl ready hands (fun x => s.taking x rest) (fun x => .of_eq ?_) (fun x => by simp)
      (fun x => by simp) fun x n _ => ?_
    · show (Work.begin (s.taking x rest)).takeNotice source elem occupied proven age = _
      unfold Work.takeNotice
      dsimp only
      rw [Work.begin_st, show (s.taking x rest).remoteEntry ⟨source, elem⟩ = none from named]
    · exact ⟨by simp, ⟨by simp, by simp, by simp⟩, by simp, by simp, fun e h => absurd h (by simp), fun _ => by simp⟩
  | some e =>
    let u := (s.taking x rest).changeRemote ⟨source, elem⟩ fun _ => e.notified s.captureTimer occupied proven age
    obtain ⟨told, taken, few, each⟩ := takeNotice_of_entry (w := Work.begin (s.taking x rest)) (occupied := occupied)
      (proven := proven) (age := age) named
    obtain ⟨b, ends, rs, reached⟩ := event_arrives (Q := fun b => ∃ rs, b = u.reporting rs) (start := { s with recvQueue := rest })
      (work := fun _ => (Work.begin u).emit told) ready rfl (k := 8) (by decide) (by
        have passed := Follows.idle (start := { s with recvQueue := rest }) (k := 0) (ts := []) (w := Work.begin u) rfl told (fun y known rs => by
          obtain ⟨g, rfl | rfl | rfl⟩ := each y known
          · exact (sectionTold_of_vacant (w := (Work.begin u).reporting rs) vacant g _).1
          · exact (sectionTold_of_vacant (w := (Work.begin u).reporting rs) vacant g _).2.1
          · exact (sectionTold_of_vacant (w := (Work.begin u).reporting rs) vacant g _).2.2)
          (.done (P := Rests s { s with recvQueue := rest } fun b => ∃ rs, b = u.reporting rs) fun rs =>
            ⟨rfl, rfl, rfl, rfl, ready.2, rfl, rfl, rs, rfl⟩)
        rw [List.append_nil] at passed
        exact passed.mono (by omega) u.reports)
    refine ⟨_, done.trans ((event_congr taken).trans ends), ?_⟩
    obtain ⟨n, same⟩ : ∃ n, (State.placeChanged s b).drained = u.noting n := by
      rw [ended_same, reached]
      exact ⟨_, rfl⟩
    have wrote : u.remoteEntry ⟨source, elem⟩ = some (e.notified s.captureTimer occupied proven age) :=
      changeRemote_entry (s := s.taking x rest) named ⟨rfl, rfl⟩
    rw [same]
    refine ⟨rfl, ⟨rfl, rfl, rfl⟩, rfl, rfl, fun e' h => ?_, fun h => nomatch h⟩
    obtain rfl : e = e' := Option.some.inj h
    refine Eq.trans (b := u.remoteEntry ⟨source, elem⟩) rfl (wrote.trans (congrArg some ?_))
    unfold RemoteEntry.notified
    cases occupied <;> cases proven <;> rfl

end

end Sys2Proof.Machine
end

section
/-! PROOFS. Answers to a route's requests: RESERVE ANSWER and FLANK ANSWER (O40, O41). -/

namespace Sys2Proof.Machine

/-! ## Requests placed, and images written -/

/-- The state with another remote section table. -/
def State.imaging (s : State) (es : List RemoteEntry) : State := { s with remote := es }

@[simp] theorem imaging_resetHeld (s : State) (es : List RemoteEntry) : (s.imaging es).resetHeld = s.resetHeld := rfl
@[simp] theorem imaging_service (s : State) (es : List RemoteEntry) : (s.imaging es).service = s.service := rfl
@[simp] theorem imaging_address (s : State) (es : List RemoteEntry) : (s.imaging es).address = s.address := rfl
@[simp] theorem imaging_cfg (s : State) (es : List RemoteEntry) : (s.imaging es).cfg = s.cfg := rfl
@[simp] theorem imaging_sections (s : State) (es : List RemoteEntry) : (s.imaging es).sections = s.sections := rfl
@[simp] theorem imaging_points (s : State) (es : List RemoteEntry) : (s.imaging es).points = s.points := rfl
@[simp] theorem imaging_signals (s : State) (es : List RemoteEntry) : (s.imaging es).signals = s.signals := rfl
@[simp] theorem imaging_boundaries (s : State) (es : List RemoteEntry) : (s.imaging es).boundaries = s.boundaries := rfl
@[simp] theorem imaging_blocking (s : State) (es : List RemoteEntry) : (s.imaging es).blocking = s.blocking := rfl
@[simp] theorem imaging_instances (s : State) (es : List RemoteEntry) : (s.imaging es).instances = s.instances := rfl
@[simp] theorem imaging_lastEnded (s : State) (es : List RemoteEntry) : (s.imaging es).lastEnded = s.lastEnded := rfl
@[simp] theorem imaging_reservations (s : State) (es : List RemoteEntry) :
    (s.imaging es).reservations = s.reservations := rfl
@[simp] theorem imaging_register (s : State) (es : List RemoteEntry) : (s.imaging es).register = s.register := rfl
@[simp] theorem imaging_recvQueue (s : State) (es : List RemoteEntry) : (s.imaging es).recvQueue = s.recvQueue := rfl
@[simp] theorem imaging_sendQueue (s : State) (es : List RemoteEntry) : (s.imaging es).sendQueue = s.sendQueue := rfl
@[simp] theorem imaging_tagCounter (s : State) (es : List RemoteEntry) : (s.imaging es).tagCounter = s.tagCounter := rfl
@[simp] theorem imaging_requests (s : State) (es : List RemoteEntry) : (s.imaging es).requests = s.requests := rfl
@[simp] theorem imaging_peers (s : State) (es : List RemoteEntry) : (s.imaging es).peers = s.peers := rfl
@[simp] theorem imaging_presenceTimer (s : State) (es : List RemoteEntry) :
    (s.imaging es).presenceTimer = s.presenceTimer := rfl
@[simp] theorem imaging_captureTimer (s : State) (es : List RemoteEntry) :
    (s.imaging es).captureTimer = s.captureTimer := rfl
@[simp] theorem imaging_reports (s : State) (es : List RemoteEntry) : (s.imaging es).reports = s.reports := rfl
@[simp] theorem imaging_firstFault (s : State) (es : List RemoteEntry) : (s.imaging es).firstFault = s.firstFault := rfl
@[simp] theorem imaging_counts (s : State) (es : List RemoteEntry) : (s.imaging es).counts = s.counts := rfl
@[simp] theorem imaging_alertArmed (s : State) (es : List RemoteEntry) : (s.imaging es).alertArmed = s.alertArmed := rfl
@[simp] theorem imaging_fresh (s : State) (es : List RemoteEntry) : (s.imaging es).fresh = s.fresh := rfl
@[simp] theorem imaging_agenda (s : State) (es : List RemoteEntry) : (s.imaging es).agenda = s.agenda := rfl
@[simp] theorem imaging_sending (s : State) (es : List RemoteEntry) : (s.imaging es).sending = s.sending := rfl
@[simp] theorem imaging_remote (s : State) (es : List RemoteEntry) : (s.imaging es).remote = es := rfl
@[simp] theorem keep_imaging (u s : State) (es : List RemoteEntry) : u.keep (s.imaging es) = (u.keep s).imaging es := rfl

theorem holdImages_eq (s : State) (route station : Nat) (elems : List Nat) :
    s.holdImages route station elems = s.imaging (s.holdImages route station elems).remote := rfl

/-- The state with a request placed, with its pending entry (R78). -/
def State.requesting (s : State) (dest : Nat) (tag : Byte) (subject : RequestSubject) (body : Body) : State :=
  { s with
    tagCounter := tag
    sendQueue := s.sendQueue ++ [placed dest body]
    requests := s.requests ++ [⟨tag, dest, subject, .queued⟩] }

@[simp] theorem requesting_resetHeld (s : State) (dest : Nat) (tag : Byte) (subject : RequestSubject) (body : Body) :
    (s.requesting dest tag subject body).resetHeld = s.resetHeld := rfl
@[simp] theorem requesting_service (s : State) (dest : Nat) (tag : Byte) (subject : RequestSubject) (body : Body) :
    (s.requesting dest tag subject body).service = s.service := rfl
@[simp] theorem requesting_address (s : State) (dest : Nat) (tag : Byte) (subject : RequestSubject) (body : Body) :
    (s.requesting dest tag subject body).address = s.address := rfl
@[simp] theorem requesting_cfg (s : State) (dest : Nat) (tag : Byte) (subject : RequestSubject) (body : Body) :
    (s.requesting dest tag subject body).cfg = s.cfg := rfl
@[simp] theorem requesting_sections (s : State) (dest : Nat) (tag : Byte) (subject : RequestSubject) (body : Body) :
    (s.requesting dest tag subject body).sections = s.sections := rfl
@[simp] theorem requesting_points (s : State) (dest : Nat) (tag : Byte) (subject : RequestSubject) (body : Body) :
    (s.requesting dest tag subject body).points = s.points := rfl
@[simp] theorem requesting_signals (s : State) (dest : Nat) (tag : Byte) (subject : RequestSubject) (body : Body) :
    (s.requesting dest tag subject body).signals = s.signals := rfl
@[simp] theorem requesting_boundaries (s : State) (dest : Nat) (tag : Byte) (subject : RequestSubject) (body : Body) :
    (s.requesting dest tag subject body).boundaries = s.boundaries := rfl
@[simp] theorem requesting_blocking (s : State) (dest : Nat) (tag : Byte) (subject : RequestSubject) (body : Body) :
    (s.requesting dest tag subject body).blocking = s.blocking := rfl
@[simp] theorem requesting_remote (s : State) (dest : Nat) (tag : Byte) (subject : RequestSubject) (body : Body) :
    (s.requesting dest tag subject body).remote = s.remote := rfl
@[simp] theorem requesting_instances (s : State) (dest : Nat) (tag : Byte) (subject : RequestSubject) (body : Body) :
    (s.requesting dest tag subject body).instances = s.instances := rfl
@[simp] theorem requesting_lastEnded (s : State) (dest : Nat) (tag : Byte) (subject : RequestSubject) (body : Body) :
    (s.requesting dest tag subject body).lastEnded = s.lastEnded := rfl
@[simp] theorem requesting_reservations (s : State) (dest : Nat) (tag : Byte) (subject : RequestSubject) (body : Body) :
    (s.requesting dest tag subject body).reservations = s.reservations := rfl
@[simp] theorem requesting_register (s : State) (dest : Nat) (tag : Byte) (subject : RequestSubject) (body : Body) :
    (s.requesting dest tag subject body).register = s.register := rfl
@[simp] theorem requesting_recvQueue (s : State) (dest : Nat) (tag : Byte) (subject : RequestSubject) (body : Body) :
    (s.requesting dest tag subject body).recvQueue = s.recvQueue := rfl
@[simp] theorem requesting_peers (s : State) (dest : Nat) (tag : Byte) (subject : RequestSubject) (body : Body) :
    (s.requesting dest tag subject body).peers = s.peers := rfl
@[simp] theorem requesting_presenceTimer (s : State) (dest : Nat) (tag : Byte) (subject : RequestSubject) (body : Body) :
    (s.requesting dest tag subject body).presenceTimer = s.presenceTimer := rfl
@[simp] theorem requesting_captureTimer (s : State) (dest : Nat) (tag : Byte) (subject : RequestSubject) (body : Body) :
    (s.requesting dest tag subject body).captureTimer = s.captureTimer := rfl
@[simp] theorem requesting_reports (s : State) (dest : Nat) (tag : Byte) (subject : RequestSubject) (body : Body) :
    (s.requesting dest tag subject body).reports = s.reports := rfl
@[simp] theorem requesting_firstFault (s : State) (dest : Nat) (tag : Byte) (subject : RequestSubject) (body : Body) :
    (s.requesting dest tag subject body).firstFault = s.firstFault := rfl
@[simp] theorem requesting_counts (s : State) (dest : Nat) (tag : Byte) (subject : RequestSubject) (body : Body) :
    (s.requesting dest tag subject body).counts = s.counts := rfl
@[simp] theorem requesting_alertArmed (s : State) (dest : Nat) (tag : Byte) (subject : RequestSubject) (body : Body) :
    (s.requesting dest tag subject body).alertArmed = s.alertArmed := rfl
@[simp] theorem requesting_fresh (s : State) (dest : Nat) (tag : Byte) (subject : RequestSubject) (body : Body) :
    (s.requesting dest tag subject body).fresh = s.fresh := rfl
@[simp] theorem requesting_agenda (s : State) (dest : Nat) (tag : Byte) (subject : RequestSubject) (body : Body) :
    (s.requesting dest tag subject body).agenda = s.agenda := rfl
@[simp] theorem requesting_sending (s : State) (dest : Nat) (tag : Byte) (subject : RequestSubject) (body : Body) :
    (s.requesting dest tag subject body).sending = s.sending := rfl
@[simp] theorem requesting_tagCounter (s : State) (dest : Nat) (tag : Byte) (subject : RequestSubject) (body : Body) :
    (s.requesting dest tag subject body).tagCounter = tag := rfl
@[simp] theorem requesting_sendQueue (s : State) (dest : Nat) (tag : Byte) (subject : RequestSubject) (body : Body) :
    (s.requesting dest tag subject body).sendQueue = s.sendQueue ++ [placed dest body] := rfl
@[simp] theorem requesting_requests (s : State) (dest : Nat) (tag : Byte) (subject : RequestSubject) (body : Body) :
    (s.requesting dest tag subject body).requests = s.requests ++ [⟨tag, dest, subject, .queued⟩] := rfl
@[simp] theorem keep_requesting (u s : State) (dest : Nat) (tag : Byte) (subject : RequestSubject) (body : Body) :
    u.keep (s.requesting dest tag subject body) = (u.keep s).requesting dest tag subject body := rfl

/-- A request that finds its peer, an entry and room is placed (R73, R78). -/
theorem request_places {s : State} {dest : Nat} {subject : RequestSubject} {body : Byte → Body}
    (there : (bodyKind (body s.newTag)).cls = 1 → s.isPresent dest = true) (free : s.requests.length < 16)
    (room : s.room (bodyKind (body s.newTag)).cls = true) :
    s.request dest subject body = (s.requesting dest s.newTag subject (body s.newTag), s.newTag, none) := by
  have placeable : s.placeable dest (bodyKind (body s.newTag)).cls = none := by
    unfold State.placeable
    rw [if_neg, if_neg (Nat.not_le.mpr free), if_neg (by simp [room])]
    intro absent
    simp only [Bool.and_eq_true, decide_eq_true_eq] at absent
    simp [there absent.1] at absent
  unfold State.request
  dsimp only
  rw [placeable]
  rfl

section
variable {s : State} {g : Fin 8} {i : RouteInst} {r : RouteRecord} {p n : Portion} {q : Request} {tag : Byte}
  {rest : List RawTelegram}

/-- The entry that an answer matches, in a table without repeats (R78, R80). -/
theorem matching_of_tag {source : Nat} {fits : RequestSubject → Bool} (unique : (s.requests.map (·.tag)).Nodup)
    (known : q ∈ s.requests) (dest : q.dest = source) (fit : fits q.subject = true) :
    s.matching source q.tag fits = some q := by
  unfold State.matching
  rw [List.find?_eq_some_iff_append]
  obtain ⟨_, before, after, split, early⟩ := List.find?_eq_some_iff_append.mp (find_of_tag unique known)
  refine ⟨by simp [dest, fit], before, after, split, fun x member => ?_⟩
  have other := early x member
  simp only [Bool.not_eq_true', beq_eq_false_iff_ne] at other
  simp [other]

@[simp] theorem taking_ownRef (s : State) (x : RawTelegram) (rest : List RawTelegram) (n : Nat) :
    (s.taking x rest).ownRef n = s.ownRef n := rfl
@[simp] theorem taking_routeRecord (s : State) (x : RawTelegram) (rest : List RawTelegram) (n : Nat) :
    (s.taking x rest).routeRecord n = s.routeRecord n := rfl

/-- The state in which an answer has been taken: its pending entry is gone, its route is written (R80). -/
def State.answering (s : State) (tag : Byte) (es : List SendEntry) (g : Fin 8) (j : RouteInst) (rem : List RemoteEntry) :
    State :=
  ((s.asking (s.requests.filter (·.tag != tag)) es).setInstance g (some j)).imaging rem

@[simp] theorem answering_address (s : State) (tag : Byte) (es : List SendEntry) (g : Fin 8) (j : RouteInst) (rem : List RemoteEntry) :
    (s.answering tag es g j rem).address = s.address := rfl
@[simp] theorem answering_sections (s : State) (tag : Byte) (es : List SendEntry) (g : Fin 8) (j : RouteInst) (rem : List RemoteEntry) :
    (s.answering tag es g j rem).sections = s.sections := rfl
@[simp] theorem answering_points (s : State) (tag : Byte) (es : List SendEntry) (g : Fin 8) (j : RouteInst) (rem : List RemoteEntry) :
    (s.answering tag es g j rem).points = s.points := rfl
@[simp] theorem answering_signals (s : State) (tag : Byte) (es : List SendEntry) (g : Fin 8) (j : RouteInst) (rem : List RemoteEntry) :
    (s.answering tag es g j rem).signals = s.signals := rfl
@[simp] theorem answering_boundaries (s : State) (tag : Byte) (es : List SendEntry) (g : Fin 8) (j : RouteInst) (rem : List RemoteEntry) :
    (s.answering tag es g j rem).boundaries = s.boundaries := rfl
@[simp] theorem answering_lastEnded (s : State) (tag : Byte) (es : List SendEntry) (g : Fin 8) (j : RouteInst) (rem : List RemoteEntry) :
    (s.answering tag es g j rem).lastEnded = s.lastEnded := rfl
@[simp] theorem answering_reservations (s : State) (tag : Byte) (es : List SendEntry) (g : Fin 8) (j : RouteInst) (rem : List RemoteEntry) :
    (s.answering tag es g j rem).reservations = s.reservations := rfl
@[simp] theorem answering_register (s : State) (tag : Byte) (es : List SendEntry) (g : Fin 8) (j : RouteInst) (rem : List RemoteEntry) :
    (s.answering tag es g j rem).register = s.register := rfl
@[simp] theorem answering_recvQueue (s : State) (tag : Byte) (es : List SendEntry) (g : Fin 8) (j : RouteInst) (rem : List RemoteEntry) :
    (s.answering tag es g j rem).recvQueue = s.recvQueue := rfl
@[simp] theorem answering_tagCounter (s : State) (tag : Byte) (es : List SendEntry) (g : Fin 8) (j : RouteInst) (rem : List RemoteEntry) :
    (s.answering tag es g j rem).tagCounter = s.tagCounter := rfl
@[simp] theorem answering_agenda (s : State) (tag : Byte) (es : List SendEntry) (g : Fin 8) (j : RouteInst) (rem : List RemoteEntry) :
    (s.answering tag es g j rem).agenda = s.agenda := rfl
@[simp] theorem answering_requests (s : State) (tag : Byte) (es : List SendEntry) (g : Fin 8) (j : RouteInst) (rem : List RemoteEntry) :
    (s.answering tag es g j rem).requests = s.requests.filter (·.tag != tag) := rfl
@[simp] theorem answering_sendQueue (s : State) (tag : Byte) (es : List SendEntry) (g : Fin 8) (j : RouteInst) (rem : List RemoteEntry) :
    (s.answering tag es g j rem).sendQueue = es := rfl
@[simp] theorem answering_ownRef (s : State) (tag : Byte) (es : List SendEntry) (g : Fin 8) (j : RouteInst) (rem : List RemoteEntry) (n : Nat) :
    (s.answering tag es g j rem).ownRef n = s.ownRef n := rfl
@[simp] theorem answering_routeRecord (s : State) (tag : Byte) (es : List SendEntry) (g : Fin 8) (j : RouteInst) (rem : List RemoteEntry) (n : Nat) :
    (s.answering tag es g j rem).routeRecord n = s.routeRecord n := rfl
@[simp] theorem answering_isPresent (s : State) (tag : Byte) (es : List SendEntry) (g : Fin 8) (j : RouteInst) (rem : List RemoteEntry) (a : Nat) :
    (s.answering tag es g j rem).isPresent a = s.isPresent a := rfl
@[simp] theorem keep_answering (u s : State) (tag : Byte) (es : List SendEntry) (g : Fin 8) (j : RouteInst)
    (rem : List RemoteEntry) : u.keep (s.answering tag es g j rem) = (u.keep s).answering tag es g j rem := rfl
theorem answering_instance (s : State) (tag : Byte) (es : List SendEntry) (g : Fin 8) (j : RouteInst)
    (rem : List RemoteEntry) : (s.answering tag es g j rem).instances[g] = some j := by
  simp [State.answering]

/-- An answer with its pending entry is taken by its route (R80, R95, R96). -/
theorem takeReserveAnswer_matched {w : Work} {route index : Nat} {reason : Option Reason} {granted : List Nat}
    (unique : (w.st.requests.map (·.tag)).Nodup) (known : q ∈ w.st.requests) (subject : q.subject = .portion g route) :
    w.takeReserveAnswer q.dest q.tag (w.st.ownRef route) reason index granted =
      (w.on (·.dropRequest q.tag)).reserveAnswered g route q.dest q.tag reason index granted := by
  unfold Work.takeReserveAnswer
  dsimp only
  rw [matching_of_tag unique known rfl (by rw [subject]; simp)]
  obtain ⟨_, _, _, _⟩ := q
  obtain rfl := subject
  rfl

/-- What is running on a signal is its instance, with the record of its route. -/
theorem running_some (runs : s.running g = some (i, r)) : s.instances[g] = some i ∧ s.routeRecord i.route = some r := by
  unfold State.running at runs
  split at runs
  · next j there =>
    obtain ⟨r', named, same⟩ := Option.map_eq_some_iff.mp runs
    cases same
    exact ⟨there, named⟩
  · exact nomatch runs

theorem running_of {t : State} (there : t.instances[g] = some i) (named : t.routeRecord i.route = some r) :
    t.running g = some (i, r) := by
  unfold State.running
  rw [there]
  dsimp only
  rw [named]
  rfl

/-- An instance with its portions changed. -/
def RouteInst.withPortions (i : RouteInst) (owner : Nat) (f : Portion → Portion) : RouteInst :=
  { i with portions := i.portions.map fun p => if p.owner = owner then f p else p }

@[simp] theorem withPortions_route (i : RouteInst) (owner : Nat) (f : Portion → Portion) :
    (i.withPortions owner f).route = i.route := rfl

theorem changeInstance_some {f : RouteInst → RouteInst} (there : s.instances[g] = some i) :
    s.changeInstance g f = s.setInstance g (some (f i)) := by
  unfold State.changeInstance
  rw [there]
  rfl

theorem changePortion_eq {owner : Nat} {f : Portion → Portion} (there : s.instances[g] = some i) :
    s.changePortion g owner f = s.setInstance g (some (i.withPortions owner f)) := by
  unfold State.changePortion State.changeInstance
  rw [there]
  rfl

/-- A granted portion lets the route go on (R95). -/
theorem reserveAnswered_granted {w : Work} {source index : Nat} {granted : List Nat}
    (runs : w.st.running g = some (i, r))
    (asked : i.portions.find? (fun p => p.owner == source && p.state == .pending && p.tag == some tag) = some p) :
    ∃ es, w.reserveAnswered g i.route source tag none index granted =
      (w.on fun s => (s.setInstance g (some (i.withPortions source fun p => { p with state := .granted }))).imaging es).emit
        [.goOn g] := by
  unfold Work.reserveAnswered
  rw [runs]
  dsimp only
  rw [asked]
  dsimp only [Work.on]
  rw [changePortion_eq (running_some runs).1]
  exact ⟨_, rfl⟩

/-- The state in which the owner of a portion has been asked (R94). -/
def State.askingOwner (s : State) (g : Fin 8) (i : RouteInst) (r : RouteRecord) (n : Portion) : State :=
  (s.requesting n.owner s.newTag (.portion g i.route)
    (.reserve s.newTag (s.ownRef i.route) (wireReqs r n.indices))).setInstance g
      (some (i.withPortions n.owner fun p => { p with state := .pending, tag := some s.newTag }))

@[simp] theorem askingOwner_sections (s : State) (g : Fin 8) (i : RouteInst) (r : RouteRecord) (n : Portion) :
    (s.askingOwner g i r n).sections = s.sections := rfl
@[simp] theorem askingOwner_points (s : State) (g : Fin 8) (i : RouteInst) (r : RouteRecord) (n : Portion) :
    (s.askingOwner g i r n).points = s.points := rfl
@[simp] theorem askingOwner_signals (s : State) (g : Fin 8) (i : RouteInst) (r : RouteRecord) (n : Portion) :
    (s.askingOwner g i r n).signals = s.signals := rfl
@[simp] theorem askingOwner_boundaries (s : State) (g : Fin 8) (i : RouteInst) (r : RouteRecord) (n : Portion) :
    (s.askingOwner g i r n).boundaries = s.boundaries := rfl
@[simp] theorem askingOwner_lastEnded (s : State) (g : Fin 8) (i : RouteInst) (r : RouteRecord) (n : Portion) :
    (s.askingOwner g i r n).lastEnded = s.lastEnded := rfl
@[simp] theorem askingOwner_reservations (s : State) (g : Fin 8) (i : RouteInst) (r : RouteRecord) (n : Portion) :
    (s.askingOwner g i r n).reservations = s.reservations := rfl
@[simp] theorem askingOwner_register (s : State) (g : Fin 8) (i : RouteInst) (r : RouteRecord) (n : Portion) :
    (s.askingOwner g i r n).register = s.register := rfl
@[simp] theorem askingOwner_recvQueue (s : State) (g : Fin 8) (i : RouteInst) (r : RouteRecord) (n : Portion) :
    (s.askingOwner g i r n).recvQueue = s.recvQueue := rfl
@[simp] theorem askingOwner_agenda (s : State) (g : Fin 8) (i : RouteInst) (r : RouteRecord) (n : Portion) :
    (s.askingOwner g i r n).agenda = s.agenda := rfl
@[simp] theorem askingOwner_tagCounter (s : State) (g : Fin 8) (i : RouteInst) (r : RouteRecord) (n : Portion) :
    (s.askingOwner g i r n).tagCounter = s.newTag := rfl
@[simp] theorem askingOwner_requests (s : State) (g : Fin 8) (i : RouteInst) (r : RouteRecord) (n : Portion) :
    (s.askingOwner g i r n).requests = s.requests ++ [⟨s.newTag, n.owner, .portion g i.route, .queued⟩] := rfl
@[simp] theorem askingOwner_sendQueue (s : State) (g : Fin 8) (i : RouteInst) (r : RouteRecord) (n : Portion) :
    (s.askingOwner g i r n).sendQueue = s.sendQueue
      ++ [placed n.owner (.reserve s.newTag (s.ownRef i.route) (wireReqs r n.indices))] := rfl
theorem askingOwner_instance (s : State) (g : Fin 8) (i : RouteInst) (r : RouteRecord) (n : Portion) :
    (s.askingOwner g i r n).instances[g] =
      some (i.withPortions n.owner fun p => { p with state := .pending, tag := some s.newTag }) := by
  simp [State.askingOwner]
theorem keep_askingOwner {u : State} (kept : u.keep s = s) : u.keep (s.askingOwner g i r n) = s.askingOwner g i r n := by
  show ((u.keep s).requesting _ _ _ _).setInstance g _ = _
  rw [kept]
  rfl

/-- A grant with its pending entry (R80, R95). -/
theorem takeReserveAnswer_granted {w : Work} {index : Nat} {granted : List Nat}
    (unique : (w.st.requests.map (·.tag)).Nodup) (known : q ∈ w.st.requests) (subject : q.subject = .portion g i.route)
    (runs : w.st.running g = some (i, r))
    (asked : i.portions.find? (fun p => p.owner == q.dest && p.state == .pending && p.tag == some q.tag) = some p) :
    ∃ es rem, es.length ≤ w.st.sendQueue.length
      ∧ w.takeReserveAnswer q.dest q.tag (w.st.ownRef i.route) none index granted =
        (w.on (·.answering q.tag es g (i.withPortions q.dest fun p => { p with state := .granted }) rem)).emit [.goOn g] := by
  obtain ⟨es, short, dropped⟩ := dropRequest_eq w.st q.tag
  have begun : w.on (·.dropRequest q.tag) = w.on (·.asking (w.st.requests.filter (·.tag != q.tag)) es) :=
    congrArg (fun s : State => { w with st := s }) dropped
  obtain ⟨rem, answered⟩ := reserveAnswered_granted (g := g) (r := r) (index := index) (granted := granted) (tag := q.tag)
    (w := w.on (·.asking (w.st.requests.filter (·.tag != q.tag)) es)) (p := p) runs asked
  refine ⟨es, rem, short, (takeReserveAnswer_matched unique known subject).trans ?_⟩
  rw [begun, answered]
  rfl

/-- The first portion not asked for is asked for (R94, R95). -/
theorem goOn_asks {w : Work} (runs : w.st.running g = some (i, r)) (setting : i.state = .setting)
    (next : i.portions.find? (fun p => p.state == .none) = some n) (there : w.st.isPresent n.owner = true)
    (free : w.st.requests.length < 16) (room : w.st.sendQueue.length + 2 ≤ 32) :
    w.goOn g = w.on (·.askingOwner g i r n) := by
  unfold Work.goOn
  rw [runs]
  dsimp only
  rw [if_neg (not_not_intro setting), next]
  dsimp only
  have asked : (w.st.request n.owner (.portion g i.route) fun tag => .reserve tag (w.st.ownRef i.route) (wireReqs r n.indices))
      = (w.st.requesting n.owner w.st.newTag (.portion g i.route)
          (.reserve w.st.newTag (w.st.ownRef i.route) (wireReqs r n.indices)), w.st.newTag, none) :=
    request_places (fun _ => there) free (room_of_le (cls := Kind.reserve.cls) room)
  rw [asked]
  dsimp only [Work.on]
  rw [changePortion_eq (i := i) (by simpa using (running_some runs).1)]
  rfl

theorem Rests.reporting {before start u : State} (kept : start.keep u = u) (left : u.agenda = [])
    (signals : u.signals = before.signals) (sections : u.sections = before.sections) (rs : List Subject) :
    Rests before start (fun v => ∃ rs, v = u.reporting rs) (Work.begin (u.reporting rs)) :=
  ⟨rfl, rfl, rfl, (keep_reporting ..).trans (congrArg (State.reporting · rs) kept), left, signals, sections, rs, rfl⟩

/-- A row of a neighbour's telegram whose tasks are followed to the state they rest in. -/
theorem CompletesDraining.of_follows {c : Instr} {source k : Nat} {body : Body} {owner : Nat → Body → Work → Work}
    {ts : List Task} {P : State → Prop} (row : exec c s = s.takeTelegram (·.isKind (bodyKind body)) owner) (ready : s.ready)
    (hands : s.hands source body rest) (few : k < taskBound) (b₁ b : RawTelegram → State)
    (taken : ∀ x, owner source body (Work.begin (s.taking x rest)) = (Work.begin (b₁ x)).emit ts)
    (follows : ∀ x, Follows { s with recvQueue := rest } k ts (Work.begin (b₁ x))
      (Rests s { s with recvQueue := rest } fun u => ∃ rs, u = (b x).reporting rs))
    (h : ∀ x rs, P ((b x).reporting rs)) : CompletesDraining c s P := by
  obtain ⟨x, -, done⟩ := exec_hands row hands
  obtain ⟨u, ends, rs, rfl⟩ := event_arrives (work := fun _ => (Work.begin (b₁ x)).emit ts) (before := s)
    (start := { s with recvQueue := rest }) ready rfl few (follows x (b₁ x).reports)
  exact .of_placed (done.trans ((event_congr (taken x)).trans ends)) fun rs' => h x rs'

/-- A route that goes on asks its next owner, whatever has been placed. -/
theorem follows_goOn_asks {start u : State} {Q : Work → Prop} (runs : u.running g = some (i, r)) (setting : i.state = .setting)
    (next : i.portions.find? (fun p => p.state == .none) = some n) (there : u.isPresent n.owner = true)
    (free : u.requests.length < 16) (room : u.sendQueue.length + 2 ≤ 32)
    (rests : ∀ rs, Q (Work.begin ((u.askingOwner g i r n).reporting rs))) : Follows start 1 [.goOn g] (Work.begin u) Q :=
  .step (w₁ := Work.begin (u.askingOwner g i r n))
    (fun rs => goOn_asks (w := Work.begin (u.reporting rs)) runs setting next there free room) (.done rests)

/-- Settles O40: the grant is taken with its pending entry, and the task it gives rise to asks the next owner. -/
theorem grantAsksNextOwnerOrIsReturned : Obligations.GrantAsksNextOwnerOrIsReturned := by
  refine ⟨?_, ?_⟩
  · intro s g i r p n q tag index granted rest ready holds runs setting portions pending tagged fresh apart known tagq dest
      subject there room hands
    have unique := holds.2
    have first : i.portions.find? (fun y => y.owner == p.owner && y.state == .pending && y.tag == some tag) = some p := by
      simp [portions, pending, tagged]
    let j := i.withPortions p.owner fun p => { p with state := .granted }
    have taken (x : RawTelegram) := takeReserveAnswer_granted (w := Work.begin (s.taking x rest)) (index := index)
      (granted := granted) unique known subject runs (p := p) (by rw [dest, tagq]; exact first)
    rw [dest, tagq] at taken
    choose es rem short taken using taken
    have runs' (x : RawTelegram) : ((s.taking x rest).answering tag (es x) g j (rem x)).running g = some (j, r) :=
      running_of (answering_instance ..) (by simpa [j] using (running_some runs).2)
    have fewer : (s.requests.filter (·.tag != tag)).length < s.requests.length :=
      List.length_filter_lt_length_iff_exists.mpr ⟨q, known, by simp [tagq]⟩
    have few := holds.1
    refine .of_follows rfl ready hands (k := 1) (by decide) (fun x => (s.taking x rest).answering tag (es x) g j (rem x))
      (fun x => ((s.taking x rest).answering tag (es x) g j (rem x)).askingOwner g j r n) taken (fun x => ?_)
      fun x rs => ?_
    · refine follows_goOn_asks (runs' x) setting (by simp [j, RouteInst.withPortions, portions, fresh, apart])
        ((answering_isPresent ..).trans ((taking_isPresent ..).trans there)) ?_ ?_ fun rs => ?_
      · exact fewer.trans_le few
      · exact le_trans (Nat.add_le_add_right (short x) 2) room
      · exact Rests.reporting (keep_askingOwner (by simp)) (by simp [ready.2]) (by simp) (by simp) rs
    · refine ⟨by simp, ⟨by simp, by simp, by simp⟩, by simp, ?_, by simp [j], es x, ?_⟩
      · simp only [reporting_instances, askingOwner_instance, reporting_tagCounter, askingOwner_tagCounter]
        simp [j, RouteInst.withPortions, portions, apart, apart.symm]
      · simp only [reporting_sendQueue, askingOwner_sendQueue, answering_sendQueue, reporting_tagCounter,
          askingOwner_tagCounter]
        rw [answering_ownRef, taking_ownRef, withPortions_route]
  · intro s source tag ref index granted rest ready hands foreign there room
    refine .of_hands rfl ready hands (fun x => (s.taking x rest).placing source (.release tag ref granted))
      (fun x => ?_) (fun x => by simp) (fun x => by simp) (fun x => by simp) (fun x => by simp) fun x rs => ?_
    · have returned : (Work.begin (s.taking x rest)).takeReserveAnswer source tag ref none index granted =
          (Work.begin (s.taking x rest)).on (·.post source (.release tag ref granted)) := by
        unfold Work.takeReserveAnswer
        dsimp only
        split
        · next found =>
          refine absurd (List.find?_some found) ?_
          have := foreign _ (List.mem_of_find?_eq_some found)
          simp only [] at this
          simp [this]
        · rfl
      refine returned.trans (congrArg Work.begin (post_places _ _ _ (fun _ => ?_) ?_))
      · exact (taking_isPresent ..).trans there
      · exact room_of_le (cls := Kind.release.cls) room
    · exact ⟨by simp, ⟨by simp, by simp, by simp⟩, ⟨by simp, by simp, by simp, by simp, by simp⟩, by simp, by simp⟩

/-! ## FLANK ANSWER (R144) -/

/-- A row of a neighbour's telegram whose tasks are followed, where the notices are of no account. -/
theorem Completes.of_follows {c : Instr} {source k : Nat} {body : Body} {owner : Nat → Body → Work → Work}
    {ts : List Task} {P : State → Prop} (row : exec c s = s.takeTelegram (·.isKind (bodyKind body)) owner) (ready : s.ready)
    (hands : s.hands source body rest) (few : k < taskBound) (b₁ b : RawTelegram → State)
    (taken : ∀ x, owner source body (Work.begin (s.taking x rest)) = (Work.begin (b₁ x)).emit ts)
    (follows : ∀ x, Follows { s with recvQueue := rest } k ts (Work.begin (b₁ x))
      (Rests s { s with recvQueue := rest } fun u => ∃ rs, u = (b x).reporting rs))
    (h : ∀ x n, P ((b x).noting n)) : Completes c s P := by
  obtain ⟨x, -, done⟩ := exec_hands row hands
  obtain ⟨u, ends, rs, rfl⟩ := event_arrives (work := fun _ => (Work.begin (b₁ x)).emit ts) (before := s)
    (start := { s with recvQueue := rest }) ready rfl few (follows x (b₁ x).reports)
  refine ⟨_, done.trans ((event_congr (taken x)).trans ends), ?_⟩
  rw [ended_same]
  exact h x _

section
variable {f : FlankEntry} {x : FlankPortion}

theorem flankParts_of_single (runs : s.running g = some (i, r)) (entries : r.flank = [f]) (parts : i.flank = [x]) :
    s.flankParts g = [(0, f, x)] := by
  unfold State.flankParts
  rw [runs]
  dsimp only
  rw [entries, parts]
  rfl

/-- With its one portion granted, nothing is left to claim (R145). -/
theorem claimFlank_of_granted {w : Work} (runs : w.st.running g = some (i, r)) (entries : r.flank = [f])
    (parts : i.flank = [x]) (granted : x.state = .granted) : w.claimFlank g = w := by
  unfold Work.claimFlank Work.flankRounds
  rw [(running_some runs).1]
  dsimp only
  rw [State.flankFailure, flankParts_of_single runs entries parts]
  simp [granted]

/-- A flank portion that is granted and not proven leaves the proof of its route incomplete (R104). -/
theorem assess_of_granted {w : Work} (runs : w.st.running g = some (i, r)) (parts : i.flank = [x])
    (granted : x.state = .granted) : w.assess g = w := by
  have missing : w.st.firstMissing g i r ≠ none := by
    unfold State.firstMissing
    rw [parts]
    split
    · simp
    · split
      · simp
      · simp [granted]
  unfold Work.assess
  rw [runs]
  exact if_neg fun h => missing h.2.2

/-- The one portion that waits for the verdict is granted (R144). -/
theorem flankAnswered_granted {w : Work} {elems : List Nat} (runs : w.st.running g = some (i, r))
    (entries : r.flank = [f]) (parts : i.flank = [x]) (pending : x.state = .pending)
    (tagged : x.tag = some tag) : w.flankAnswered g i.route x.owner tag elems none [((inUseReq f x.inUse).elem, none)] =
      (w.on (·.setInstance g (some { i with flank := [{ x with state := .granted }] }))).emit [.assess g] := by
  have granted : w.on (·.changeFlank g 0 fun p => { p with state := .granted }) =
      w.on (·.setInstance g (some { i with flank := [{ x with state := .granted }] })) := by
    refine congrArg (fun t : State => { w with st := t }) ((changeInstance_some (running_some runs).1).trans ?_)
    rw [parts]
    rfl
  have verdict : Work.takeVerdict g x.owner tag (w, []) ((inUseReq f x.inUse).elem, none) =
      (w.on (·.setInstance g (some { i with flank := [{ x with state := .granted }] })), []) := by
    unfold Work.takeVerdict
    dsimp only
    rw [flankParts_of_single runs entries parts, List.find?_cons_of_pos (by simp [pending, tagged, partReq])]
    dsimp only
    rw [granted]
  have runs' : (w.on (·.setInstance g (some { i with flank := [{ x with state := .granted }] }))).st.running g =
      some ({ i with flank := [{ x with state := .granted }] }, r) := by
    refine running_of ?_ (running_some runs).2
    simp
  unfold Work.flankAnswered
  simp only [Option.isSome_none, Bool.false_eq_true, if_false, List.foldl_cons, List.foldl_nil]
  rw [verdict]
  simp only [List.isEmpty_nil, if_true]
  rw [claimFlank_of_granted runs' entries rfl rfl]

/-- A FLANK ANSWER with its pending entry is taken by the flank of its route (R80, R144). -/
theorem takeFlankAnswer_matched {w : Work} {route : Nat} {elems : List Nat} {reason : Option Reason}
    {verdicts : List (Nat × Option Reason)} (unique : (w.st.requests.map (·.tag)).Nodup) (known : q ∈ w.st.requests)
    (subject : q.subject = .flank g route elems) : w.takeFlankAnswer q.dest q.tag (w.st.ownRef route) reason verdicts =
      (w.on (·.dropRequest q.tag)).flankAnswered g route q.dest q.tag elems reason verdicts := by
  unfold Work.takeFlankAnswer
  dsimp only
  rw [matching_of_tag unique known rfl (by rw [subject]; simp)]
  obtain ⟨_, _, _, _⟩ := q
  obtain rfl := subject
  rfl

/-- A granted verdict with its pending entry (R80, R144). -/
theorem takeFlankAnswer_granted {w : Work} (unique : (w.st.requests.map (·.tag)).Nodup) (known : q ∈ w.st.requests)
    (subject : q.subject = .flank g i.route [(inUseReq f x.inUse).elem]) (dest : q.dest = x.owner)
    (runs : w.st.running g = some (i, r)) (entries : r.flank = [f])
    (parts : i.flank = [x]) (pending : x.state = .pending) (tagged : x.tag = some q.tag) : ∃ es,
      w.takeFlankAnswer q.dest q.tag (w.st.ownRef i.route) none [((inUseReq f x.inUse).elem, none)] =
        (w.on fun s => s.answering q.tag es g { i with flank := [{ x with state := .granted }] } s.remote).emit [.assess g] := by
  obtain ⟨es, -, dropped⟩ := dropRequest_eq w.st q.tag
  have begun : w.on (·.dropRequest q.tag) = w.on (·.asking (w.st.requests.filter (·.tag != q.tag)) es) :=
    congrArg (fun s : State => { w with st := s }) dropped
  refine ⟨es, (takeFlankAnswer_matched unique known subject).trans ?_⟩
  rw [begun, dest, flankAnswered_granted (w := w.on (·.asking (w.st.requests.filter (·.tag != q.tag)) es)) runs
    entries parts pending tagged]
  rfl

end

/-- Settles O41: the verdict is taken with its pending entry, and the proof that is then assessed is not complete. -/
theorem flankVerdictGrantsPortion : Obligations.FlankVerdictGrantsPortion := by
  intro s g i r f x q tag index rest ready holds runs positioning entries parts pending remote tagged known tagq dest subject
    hands
  subst tagq
  let j : RouteInst := { i with flank := [{ x with state := .granted }] }
  have taken (y : RawTelegram) := takeFlankAnswer_granted (w := Work.begin (s.taking y rest)) holds.2 known subject dest runs entries
    parts pending tagged
  rw [dest] at taken
  choose es taken using taken
  refine .of_follows rfl ready hands (k := 1) (by decide) (fun y => (s.taking y rest).answering q.tag (es y) g j s.remote)
    (fun y => (s.taking y rest).answering q.tag (es y) g j s.remote) taken (fun y => ?_) fun y n => ?_
  · have runs' : ((s.taking y rest).answering q.tag (es y) g j s.remote).running g = some (j, r) :=
      running_of (answering_instance ..) (by simpa [j] using (running_some runs).2)
    refine Follows.step (w₁ := Work.begin ((s.taking y rest).answering q.tag (es y) g j s.remote)) (fun rs => ?_)
      (.done fun rs => Rests.reporting (by simp) (by simp [ready.2]) (by simp) (by simp) rs)
    exact assess_of_granted (w := Work.begin (((s.taking y rest).answering q.tag (es y) g j s.remote).reporting rs)) runs' rfl rfl
  · exact ⟨by simp, ⟨by simp, by simp, by simp⟩, by simp, by simp, by rw [State.noting_instances]; exact answering_instance ..⟩

end

end Sys2Proof.Machine
end

section
/-! PROOFS. The encodings: bodies read back from their bytes (O54). -/

namespace Sys2Proof.Machine

/-! ## Bytes and shared codes -/

@[simp] theorem byte_zero : byte 0 = 0 := rfl

theorem byte_toNat {n : Nat} (fits : n < 256) : (byte n).toNat = n := by
  rw [byte, BitVec.toNat_ofNat]
  exact Nat.mod_eq_of_lt fits

theorem ofTwoBytes_twoBytes {n : Nat} (fits : n < 65536) : ofTwoBytes (byte (n / 256)) (byte n) = n := by
  rw [ofTwoBytes, byte_toNat (by omega), byte, BitVec.toNat_ofNat]
  omega

theorem map_toNat_byte {ns : List Nat} (fits : ∀ n ∈ ns, n < 256) : (ns.map byte).map (·.toNat) = ns := by
  rw [List.map_map]
  exact (List.map_congr_left fun n known => byte_toNat (fits n known)).trans (List.map_id _)

theorem reasonCode_lt (r : Option Reason) : reasonCode r < 256 := by
  cases r with
  | none => decide
  | some r => cases r <;> decide

theorem reasonOfCode_reasonCode (r : Option Reason) : reasonOfCode (byte (reasonCode r)).toNat = some r := by
  rw [byte_toNat (reasonCode_lt r)]
  cases r with
  | none => rfl
  | some r => cases r <;> rfl

theorem lapseOfCode_lapseCode (r : LapseReason) : lapseOfCode (byte (lapseCode r)).toNat = some r := by
  cases r <;> rfl

theorem serviceOfCode_serviceCode (x : ServiceState) : serviceOfCode (byte (serviceCode x)).toNat = some x := by
  cases x <;> rfl

theorem blockOfCode_blockCode (k : BlockKind) : blockOfCode (byte (blockCode k)).toNat = some k := by
  cases k <;> rfl

theorem roleOfCode_byte (role : Role) (state : Required) :
    roleOfCode ((byte (roleCode role * 16 + requiredCode state)).toNat / 16) = some role := by
  cases role <;> cases state <;> rfl

theorem requiredOfCode_byte (role : Role) (state : Required) :
    requiredOfCode ((byte (roleCode role * 16 + requiredCode state)).toNat % 16) = some state := by
  cases role <;> cases state <;> rfl

theorem decodeBoundary_byte {b : Nat} (fits : b < 4) : decodeBoundary (byte b) = some b := by
  rw [decodeBoundary, byte_toNat (by omega), if_pos (by omega)]

theorem decodeSubject_encodeSubject {x : Option Nat} (fits : subjectFits x) :
    ∃ s e, encodeSubject x = [s, e] ∧ decodeSubject s e = some x := by
  cases x with
  | none => exact ⟨0, 255, rfl, rfl⟩
  | some e => exact ⟨1, byte e, rfl, by simp [decodeSubject, byte_toNat (show e < 256 from fits)]⟩

/-! ## Lists -/

theorem flatMap_pairs_length {α β : Type} (f : α → List β) (two : ∀ x, (f x).length = 2) (xs : List α) :
    (xs.flatMap f).length = 2 * xs.length := by
  induction xs with
  | nil => rfl
  | cons x xs ih =>
    rw [List.flatMap_cons, List.length_append, two, ih, List.length_cons]
    omega

theorem decodeReqs_flatMap {reqs : List WireReq} (fits : ∀ q ∈ reqs, q.elem < 256) :
    decodeReqs (reqs.flatMap encodeReq) = some reqs := by
  induction reqs with
  | nil => rfl
  | cons q reqs ih =>
    show decodeReqs (byte q.elem :: byte (roleCode q.role * 16 + requiredCode q.state) :: reqs.flatMap encodeReq) = _
    rw [decodeReqs, roleOfCode_byte, requiredOfCode_byte, ih fun x known => fits x (List.mem_cons_of_mem q known)]
    dsimp only
    rw [byte_toNat (fits q List.mem_cons_self)]

theorem decodeVerdicts_flatMap {vs : List (Nat × Option Reason)} (fits : ∀ v ∈ vs, v.1 < 256) :
    decodeVerdicts (vs.flatMap encodeVerdict) = some vs := by
  induction vs with
  | nil => rfl
  | cons v vs ih =>
    show decodeVerdicts (byte v.1 :: byte (reasonCode v.2) :: vs.flatMap encodeVerdict) = _
    rw [decodeVerdicts, reasonOfCode_reasonCode, ih fun x known => fits x (List.mem_cons_of_mem v known)]
    dsimp only
    rw [byte_toNat (fits v List.mem_cons_self)]

/-! ## Bodies -/

section
variable {tag : Byte} {ref : RouteRef}

theorem decodeWithReqs_encode {reqs : List WireReq} (fits : refFits ref) (few : reqs.length ≤ 30)
    (each : ∀ q ∈ reqs, q.elem < 256) :
    decodeWithReqs (tag :: encodeRef ref ++ [byte reqs.length] ++ reqs.flatMap encodeReq) = some (tag, ref, reqs) := by
  show decodeWithReqs (tag :: byte ref.station :: byte ref.route :: byte reqs.length :: reqs.flatMap encodeReq) = _
  rw [decodeWithReqs, byte_toNat (n := reqs.length) (by omega), if_pos ⟨few, flatMap_pairs_length encodeReq (fun _ => rfl) reqs⟩,
    decodeReqs_flatMap each, byte_toNat fits.1, byte_toNat fits.2]
  rfl

theorem decodeWithElems_encode {elems : List Nat} (fits : refFits ref) (few : elems.length ≤ 30)
    (each : ∀ e ∈ elems, e < 256) :
    decodeWithElems (tag :: encodeRef ref ++ [byte elems.length] ++ elems.map byte) = some (tag, ref, elems) := by
  show decodeWithElems (tag :: byte ref.station :: byte ref.route :: byte elems.length :: elems.map byte) = _
  rw [decodeWithElems, byte_toNat (n := elems.length) (by omega), if_pos ⟨few, List.length_map ..⟩, map_toNat_byte each,
    byte_toNat fits.1, byte_toNat fits.2]

theorem decodeReserveAnswer_encode {reason : Option Reason} {index : Nat} {granted : List Nat} (fits : refFits ref)
    (place : index < 256) (few : granted.length ≤ 20) (each : ∀ e ∈ granted, e < 256) :
    decodeReserveAnswer (encodeBody (.reserveAnswer tag ref reason index granted)) =
      some (.reserveAnswer tag ref reason index granted) := by
  show decodeReserveAnswer (tag :: byte ref.station :: byte ref.route :: byte (reasonCode reason) :: byte index
    :: byte granted.length :: granted.map byte) = _
  rw [decodeReserveAnswer, reasonOfCode_reasonCode]
  dsimp only
  rw [byte_toNat (n := granted.length) (by omega), if_pos ⟨few, List.length_map ..⟩, map_toNat_byte each,
    byte_toNat fits.1, byte_toNat fits.2, byte_toNat place]

theorem decodeFlankAnswer_encode {reason : Option Reason} {index : Nat} {vs : List (Nat × Option Reason)}
    (fits : refFits ref) (place : index < 256) (few : vs.length ≤ 30) (each : ∀ v ∈ vs, v.1 < 256)
    (whole : reason ≠ none → vs = []) : decodeFlankAnswer (encodeBody (.flankAnswer tag ref reason index vs)) =
      some (.flankAnswer tag ref reason index vs) := by
  show decodeFlankAnswer (tag :: byte ref.station :: byte ref.route :: byte (reasonCode reason) :: byte index
    :: byte vs.length :: vs.flatMap encodeVerdict) = _
  rw [decodeFlankAnswer, reasonOfCode_reasonCode, decodeVerdicts_flatMap each]
  dsimp only
  rw [byte_toNat (n := vs.length) (by omega), if_pos, byte_toNat fits.1, byte_toNat fits.2, byte_toNat place]
  refine ⟨few, rfl, fun named => ?_⟩
  rw [whole (by simpa [Option.isSome_iff_ne_none] using named)]
  rfl

theorem decodeOffer_encode {b train speed receiving : Nat} (index : b < 4) (trains : train ≤ 65534) (speeds : speed ≤ 9999)
    (edge : receiving < 256) : decodeOffer (encodeBody (.offer tag b train speed receiving)) =
      some (.offer tag b train speed receiving) := by
  show decodeOffer [tag, byte b, byte (train / 256), byte train, byte (speed / 256), byte speed, byte receiving] = _
  rw [decodeOffer, decodeBoundary_byte index]
  dsimp only
  rw [ofTwoBytes_twoBytes (by omega), ofTwoBytes_twoBytes (by omega), if_pos ⟨trains, speeds⟩, byte_toNat edge]

/-- The bits of the state byte of a STATE NOTICE. -/
theorem noticeByte_bits (b0 b1 b2 refresh : Bool) :
    (noticeByte b0 b1 b2 refresh).getLsbD 0 = b0 ∧ (noticeByte b0 b1 b2 refresh).getLsbD 1 = b1
      ∧ (noticeByte b0 b1 b2 refresh).getLsbD 2 = b2 ∧ (noticeByte b0 b1 b2 refresh).getLsbD 7 = refresh
      ∧ noticeByte b0 b1 b2 refresh &&& 0x78 = 0 := by
  cases b0 <;> cases b1 <;> cases b2 <;> cases refresh <;> decide

theorem decodeStateNotice_encode {e age : Nat} {b0 b1 b2 refresh : Bool} (named : e < 16 ∧ b2 = false ∨ 24 ≤ e ∧ e < 32)
    (fits : age < 65536) : decodeStateNotice (encodeBody (.stateNotice e b0 b1 b2 refresh age)) =
      some (.stateNotice e b0 b1 b2 refresh age) := by
  obtain ⟨bit0, bit1, bit2, bit7, unused⟩ := noticeByte_bits b0 b1 b2 refresh
  show decodeStateNotice [byte e, noticeByte b0 b1 b2 refresh, byte (age / 256), byte age] = _
  rw [decodeStateNotice, bit0, bit1, bit2, bit7, unused, ofTwoBytes_twoBytes fits, byte_toNat (n := e) (by omega), if_pos]
  refine ⟨?_, rfl⟩
  rcases named with ⟨low, rfl⟩ | ⟨low, high⟩
  · exact .inl ⟨by omega, rfl⟩
  · exact .inr ⟨low, by omega⟩

theorem decodePresence_encode {service : ServiceState} {blocking : Nat} {view : BitVec 24} (few : blocking ≤ 8) :
    decodePresence (encodeBody (.presence service blocking view)) = some (.presence service blocking view) := by
  show decodePresence [byte (serviceCode service), byte blocking, byte (view.toNat / 65536), byte (view.toNat / 256),
    byte view.toNat] = _
  have same : byte (view.toNat / 65536) ++ byte (view.toNat / 256) ++ byte view.toNat = view := by
    refine BitVec.eq_of_toNat_eq ?_
    have low := (byte view.toNat).isLt
    have mid := (byte (view.toNat / 256)).isLt
    rw [BitVec.toNat_append, BitVec.toNat_append, ← Nat.shiftLeft_add_eq_or_of_lt low, ← Nat.shiftLeft_add_eq_or_of_lt mid]
    simp only [byte, BitVec.toNat_ofNat, Nat.shiftLeft_eq]
    have := view.isLt
    omega
  rw [decodePresence, serviceOfCode_serviceCode]
  dsimp only
  rw [byte_toNat (n := blocking) (by omega), if_pos few]
  exact congrArg (fun v => some (Body.presence service blocking v)) same

theorem decodeCommand_encode {c : Command} (fits : commandFits c) :
    decodeCommand (byte (commandCode c)).toNat (encodeOperands c) = some c := by
  cases c
  case set n => exact congrArg (fun n => some (Command.set n)) (byte_toNat fits)
  case cancel n => exact congrArg (fun n => some (Command.cancel n)) (byte_toNat fits)
  case emergencyRelease n => exact congrArg (fun n => some (Command.emergencyRelease n)) (byte_toNat fits)
  case block e k =>
    show (blockOfCode (byte (blockCode k)).toNat).map (Command.block (byte e).toNat) = _
    rw [blockOfCode_blockCode, byte_toNat fits]
    rfl
  case unblock e => exact congrArg (fun n => some (Command.unblock n)) (byte_toNat fits)
  case pointMove e t =>
    show some (Command.pointMove (byte e).toNat (byte t).toNat) = _
    rw [byte_toNat fits.1, byte_toNat fits.2]
  case describe e n =>
    show some (Command.describe (byte e).toNat (ofTwoBytes (byte (n / 256)) (byte n))) = _
    rw [byte_toNat fits.1, ofTwoBytes_twoBytes fits.2]
  case erase e => exact congrArg (fun n => some (Command.erase n)) (byte_toNat fits)
  case handoverClear e => exact congrArg (fun n => some (Command.handoverClear n)) (byte_toNat fits)
  case status n => exact congrArg (fun n => some (Command.status n)) (byte_toNat fits)
  case faultFetch => rfl
  case rearm => rfl
  case admission => rfl
  case withdraw => rfl

end

/-- Settles O54, by the form of each body. -/
theorem decodedBodyIsTheEncodedBody : Obligations.DecodedBodyIsTheEncodedBody := by
  intro b fits
  cases b
  case reserveAnswer tag ref reason index granted =>
    obtain ⟨named, place, few, each⟩ := fits
    exact decodeReserveAnswer_encode named place few each
  case proven tag ref x =>
    obtain ⟨named, subject⟩ := fits
    obtain ⟨s, e, bytes, read⟩ := decodeSubject_encodeSubject subject
    show decodeBody .proven (tag :: byte ref.station :: byte ref.route :: encodeSubject x) = _
    rw [bytes, decodeBody, read, byte_toNat named.1, byte_toNat named.2]
    rfl
  case lapse tag ref x reason =>
    obtain ⟨named, subject⟩ := fits
    obtain ⟨s, e, bytes, read⟩ := decodeSubject_encodeSubject subject
    show decodeBody .lapse (tag :: byte ref.station :: byte ref.route :: (encodeSubject x ++ [byte (lapseCode reason)])) = _
    rw [bytes]
    show decodeBody .lapse [tag, byte ref.station, byte ref.route, s, e, byte (lapseCode reason)] = _
    rw [decodeBody, read, lapseOfCode_lapseCode, byte_toNat named.1, byte_toNat named.2]
  case flankAnswer tag ref reason index vs =>
    obtain ⟨named, place, few, each, whole⟩ := fits
    exact decodeFlankAnswer_encode named place few each whole
  case directionAnswer tag b reason =>
    show decodeBody .directionAnswer [tag, byte b, byte (reasonCode reason)] = _
    rw [decodeBody, decodeBoundary_byte fits, reasonOfCode_reasonCode]
  case reserve tag ref reqs =>
    obtain ⟨named, few, each⟩ := fits
    exact congrArg (Option.map _) (decodeWithReqs_encode named few each)
  case release tag ref elems =>
    obtain ⟨named, few, each⟩ := fits
    exact congrArg (Option.map _) (decodeWithElems_encode named few each)
  case flankClaim tag ref reqs =>
    obtain ⟨named, few, each⟩ := fits
    exact congrArg (Option.map _) (decodeWithReqs_encode named few each)
  case flankRelease tag ref elems =>
    obtain ⟨named, few, each⟩ := fits
    exact congrArg (Option.map _) (decodeWithElems_encode named few each)
  case directionRequest tag b => exact congrArg (Option.map _) (decodeBoundary_byte fits)
  case stateNotice e b0 b1 b2 refresh age =>
    obtain ⟨named, small⟩ := fits
    exact decodeStateNotice_encode named small
  case offer tag b train speed receiving =>
    obtain ⟨index, trains, speeds, edge⟩ := fits
    exact decodeOffer_encode index trains speeds edge
  case offerAnswer tag b reason =>
    show decodeBody .offerAnswer [tag, byte b, byte (reasonCode reason)] = _
    rw [decodeBody, decodeBoundary_byte fits, reasonOfCode_reasonCode]
  case confirm tag b train =>
    obtain ⟨index, trains⟩ := fits
    show (decodeBoundary (byte b)).map (fun i => Body.confirm tag i (ofTwoBytes (byte (train / 256)) (byte train))) = _
    rw [decodeBoundary_byte index, ofTwoBytes_twoBytes trains]
    rfl
  case command tag c => exact congrArg (Option.map _) (decodeCommand_encode fits)
  case presence service blocking view => exact decodePresence_encode fits
  case commandAnswer => exact False.elim fits
  case alert => exact False.elim fits
  case report => exact False.elim fits

end Sys2Proof.Machine
end

section
/-! PROOFS. The frame on the line, read back from its stuffed levels (O55). -/

namespace Sys2Proof.Machine

/-! ## Stuffing (R66) -/

/-- After any run the stuffed bits are taken out again. -/
theorem unstuffFrom_stuffFrom (bits : List Bool) (last : Bool) (run : Nat) :
    unstuffFrom last run (stuffFrom last run bits) = (bits, false) := by
  induction bits generalizing last run with
  | nil => rfl
  | cons b bits ih =>
    rw [stuffFrom]
    split
    · next six =>
      rw [unstuffFrom, if_pos six, if_neg (by cases last <;> simp), unstuffFrom, if_neg (by decide)]
      dsimp only
      rw [ih]
    · next other =>
      rw [unstuffFrom, if_neg other]
      dsimp only
      rw [ih]

theorem unstuff_stuff (bits : List Bool) : unstuff (stuff bits) = (bits, false) := by
  cases bits with
  | nil => rfl
  | cons b bits =>
    rw [stuff, unstuff, unstuffFrom_stuffFrom]

/-! ## Bits of numbers -/

@[simp] theorem bitsOf_length (w n : Nat) : (bitsOf w n).length = w := by
  induction w with
  | zero => rfl
  | succ w ih => rw [bitsOf, List.length_cons, ih]

/-- The bits of a number are those of its high part, then those of its low part. -/
theorem bitsOf_add (a b n : Nat) : bitsOf (a + b) n = bitsOf a (n / 2 ^ b) ++ bitsOf b n := by
  induction a with
  | zero => rw [Nat.zero_add]; rfl
  | succ a ih => rw [Nat.succ_add, bitsOf, bitsOf, ih, Nat.testBit_div_two_pow, Nat.add_comm a b]; rfl

theorem foldl_bits (bits : List Bool) (m : Nat) :
    bits.foldl (fun n b => 2 * n + b.toNat) m = m * 2 ^ bits.length + ofBits bits := by
  induction bits generalizing m with
  | nil => simp [ofBits]
  | cons b bits ih =>
    rw [ofBits, List.foldl_cons, List.foldl_cons, ih, ih, List.length_cons, Nat.pow_succ]
    ring

theorem ofBits_bitsOf_mod (w n : Nat) : ofBits (bitsOf w n) = n % 2 ^ w := by
  induction w with
  | zero => rw [Nat.pow_zero, Nat.mod_one]; rfl
  | succ w ih =>
    rw [bitsOf, ofBits, List.foldl_cons, foldl_bits, ih, bitsOf_length, Nat.toNat_testBit, Nat.mod_pow_succ]
    ring

theorem ofBits_bitsOf {w n : Nat} (fits : n < 2 ^ w) : ofBits (bitsOf w n) = n :=
  (ofBits_bitsOf_mod w n).trans (Nat.mod_eq_of_lt fits)

/-- The low bits of a number say nothing of what stands above them. -/
theorem bitsOf_congr {w n m : Nat} (same : ∀ k < w, n.testBit k = m.testBit k) : bitsOf w n = bitsOf w m := by
  induction w with
  | zero => rfl
  | succ w ih => rw [bitsOf, bitsOf, same w (Nat.lt_succ_self w), ih fun k below => same k (Nat.lt_succ_of_lt below)]

theorem bitsOf_mod (w n : Nat) : bitsOf w n = bitsOf w (n % 2 ^ w) :=
  bitsOf_congr fun k below => by simp [Nat.testBit_mod_two_pow, below]

/-- A number made of a high and a low part. -/
theorem bitsOf_pair {a b high low : Nat} (fits : low < 2 ^ b) :
    bitsOf (a + b) (high * 2 ^ b + low) = bitsOf a high ++ bitsOf b low := by
  rw [bitsOf_add, bitsOf_mod b (high * 2 ^ b + low), Nat.mul_comm high, Nat.mul_add_div (Nat.two_pow_pos b),
    Nat.div_eq_of_lt fits, Nat.mul_add_mod, Nat.mod_eq_of_lt fits, Nat.add_zero]

theorem bitsOfBytes_length (bytes : List Byte) : (bitsOfBytes bytes).length = 8 * bytes.length := by
  induction bytes with
  | nil => rfl
  | cons b bytes ih =>
    rw [bitsOfBytes, List.flatMap_cons, List.length_append, bitsOf_length, List.length_cons]
    rw [bitsOfBytes] at ih
    omega

theorem bytesOfBits_bitsOfBytes (bytes : List Byte) (more : List Bool) :
    bytesOfBits bytes.length (bitsOfBytes bytes ++ more) = bytes := by
  induction bytes with
  | nil => rfl
  | cons b bytes ih =>
    have split : bitsOfBytes (b :: bytes) ++ more = bitsOf 8 b.toNat ++ (bitsOfBytes bytes ++ more) := by
      rw [bitsOfBytes, List.flatMap_cons, List.append_assoc]
      rfl
    rw [List.length_cons, bytesOfBits, split, List.take_left' (bitsOf_length ..), List.drop_left' (bitsOf_length ..), ih,
      ofBits_bitsOf b.isLt]
    exact congrArg (· :: bytes) (BitVec.ofNat_toNat ..)

/-! ## The header (R199) -/

theorem code_lt (k : Kind) : k.code < 64 := by cases k <;> decide

/-- The header's bits are those of class, source, destination and kind. -/
theorem header_bits {source : Nat} {t : Telegram} (from_ : source < 32) (to_ : t.dest < 32) :
    bitsOf 18 (headerBits source t).toNat = bitsOf 2 (telegramClass t) ++ (bitsOf 5 source ++ (bitsOf 5 t.dest
      ++ bitsOf 6 (bodyKind t.body).code)) := by
  have code := code_lt (bodyKind t.body)
  have cls : telegramClass t = (bodyKind t.body).code / 16 := rfl
  have value : (headerBits source t).toNat =
      ((telegramClass t * 2 ^ 5 + source) * 2 ^ 5 + t.dest) * 2 ^ 6 + (bodyKind t.body).code := by
    rw [headerBits, BitVec.toNat_ofNat]
    omega
  rw [value, bitsOf_pair (a := 12) (b := 6) code, bitsOf_pair (a := 7) (b := 5) to_, bitsOf_pair (a := 2) (b := 5) from_,
    List.append_assoc, List.append_assoc]

/-- What is read of bits that spell one field behind others. -/
theorem ofBits_field {bits before more : List Bool} {start w n : Nat} (split : bits = before ++ (bitsOf w n ++ more))
    (place : before.length = start) (fits : n < 2 ^ w) : ofBits ((bits.drop start).take w) = n := by
  rw [split, List.drop_left' place, List.take_left' (bitsOf_length ..), ofBits_bitsOf fits]

/-- Settles O55: unstuffed, the frame is its fields one after the other. -/
theorem readFrameIsTheSentFrame : Obligations.ReadFrameIsTheSentFrame := by
  intro source t from_ to_ short
  have code := code_lt (bodyKind t.body)
  have cls : telegramClass t < 2 ^ 2 := by
    show (bodyKind t.body).code / 16 < 2 ^ 2
    omega
  generalize bytes_eq : encodeBody t.body = bytes at short
  have covered_eq : coveredBits source t = bitsOf 2 (telegramClass t) ++ (bitsOf 5 source ++ (bitsOf 5 t.dest
      ++ (bitsOf 6 (bodyKind t.body).code ++ (bitsOf 8 bytes.length ++ bitsOfBytes bytes)))) := by
    unfold coveredBits
    rw [bytes_eq, header_bits from_ to_]
    simp only [List.append_assoc]
  have covered_length : (coveredBits source t).length = 26 + 8 * bytes.length := by
    rw [covered_eq]
    simp only [List.length_append, bitsOf_length, bitsOfBytes_length]
    omega
  have check : ofBits (bitsOf 16 (checkOf (coveredBits source t)).toNat) = (checkOf (coveredBits source t)).toNat :=
    ofBits_bitsOf (BitVec.isLt _)
  generalize rest_eq : coveredBits source t ++ bitsOf 16 (checkOf (coveredBits source t)).toNat = rest
  have rest_length : rest.length = 26 + 8 * bytes.length + 16 := by
    rw [← rest_eq, List.length_append, covered_length, bitsOf_length]
  have covered : rest.take (26 + 8 * bytes.length) = coveredBits source t := by
    rw [← rest_eq, List.take_left' covered_length]
  have sum : ofBits (rest.drop (26 + 8 * bytes.length)) = (checkOf (coveredBits source t)).toNat := by
    rw [← rest_eq, List.drop_left' covered_length, check]
  rw [covered_eq] at rest_eq
  simp only [List.append_assoc] at rest_eq
  have cls_read : ofBits (rest.take 2) = telegramClass t :=
    ofBits_field (start := 0) (before := []) rest_eq.symm rfl cls
  have source_read : ofBits ((rest.drop 2).take 5) = source :=
    ofBits_field rest_eq.symm (bitsOf_length ..) from_
  have dest_read : ofBits ((rest.drop 7).take 5) = t.dest :=
    ofBits_field (before := bitsOf 2 (telegramClass t) ++ bitsOf 5 source) (by rw [← rest_eq, List.append_assoc]) (by simp) to_
  have code_read : ofBits ((rest.drop 12).take 6) = (bodyKind t.body).code :=
    ofBits_field (before := bitsOf 2 (telegramClass t) ++ (bitsOf 5 source ++ bitsOf 5 t.dest))
      (by rw [← rest_eq]; simp only [List.append_assoc]; rfl) (by simp) code
  have length_read : ofBits ((rest.drop 18).take 8) = bytes.length :=
    ofBits_field (before := bitsOf 2 (telegramClass t) ++ (bitsOf 5 source ++ (bitsOf 5 t.dest ++ bitsOf 6 (bodyKind t.body).code)))
      (by rw [← rest_eq]; simp only [List.append_assoc]; rfl) (by simp) (by omega)
  have body_read : bytesOfBits bytes.length (rest.drop 26) = bytes := by
    have split : rest = (bitsOf 2 (telegramClass t) ++ (bitsOf 5 source ++ (bitsOf 5 t.dest
        ++ (bitsOf 6 (bodyKind t.body).code ++ bitsOf 8 bytes.length)))) ++ (bitsOfBytes bytes
          ++ bitsOf 16 (checkOf (coveredBits source t)).toNat) := by
      rw [← rest_eq]
      simp only [List.append_assoc, covered_eq]
    rw [split, List.drop_left' (by simp), bytesOfBits_bitsOfBytes]
  have levels : frameLevels source t = stuff (false :: rest) := by
    unfold frameLevels
    dsimp only
    rw [← rest_eq, covered_eq]
    simp only [List.cons_append, List.append_assoc]
  unfold readFrame
  rw [levels, unstuff_stuff]
  dsimp only
  rw [if_neg (by omega), length_read, if_neg (by omega), if_neg (by simp [rest_length]), covered, sum, if_pos rfl, cls_read,
    source_read, dest_read, code_read, body_read]

end Sys2Proof.Machine
end

section
/-! PROOFS. What is reserved here for routes of other stations, released and expired (O31, O33). -/

namespace Sys2Proof.Machine

/-! ## Events that change sections -/

/-- The work has nothing left to send and to keep, and `Q` holds of its state. -/
structure Ends (start : State) (Q : State → Prop) (w : Work) : Prop where
  returns : w.returns = []
  kept : start.keep w.st = w.st
  left : w.st.agenda = []
  holds : Q w.st

/-- An event whose tasks arrive where `Q` holds ends there, but for notes and the draining. -/
theorem event_ends {before start : State} {work : Work → Work} {k : Nat} {Q : State → Prop} (ready : before.ready)
    (begun : start.agenda = before.agenda) (few : k < taskBound)
    (arrives : Arrives start k (work (Work.begin start)).out { work (Work.begin start) with out := [] } (Ends start Q)) :
    ∃ b u, before.event start work = .next u.drained ∧ Noted b u ∧ Q b := by
  obtain ⟨w', done, ends⟩ := arrives taskBound few
  obtain ⟨u, ended, noted⟩ := event_noted (start := start) (work := work) ready.1
  rw [taskBound, ← List.append_nil (Work.out _), ← settle_out start 4095] at done
  have settled : (start.settled work).st = w'.st := by
    unfold State.settled
    dsimp only
    rw [begun, ready.2, List.nil_append, taskBound, ← List.append_nil (Work.out _), done, returnFlank_of_nil ends.returns]
    show start.keep { w'.st with agenda := [] } = w'.st
    rw [← ends.left]
    exact ends.kept
  exact ⟨w'.st, u, ended, settled ▸ noted, ends.holds⟩

/-- A row of a neighbour's telegram whose tasks are followed. -/
theorem Completes.of_arrives {s : State} {c : Instr} {source k : Nat} {body : Body} {rest : List RawTelegram}
    {owner : Nat → Body → Work → Work} {P : State → Prop} (Q : RawTelegram → State → Prop)
    (row : exec c s = s.takeTelegram (·.isKind (bodyKind body)) owner) (ready : s.ready)
    (hands : s.hands source body rest) (few : k < taskBound)
    (arrives : ∀ x, Arrives { s with recvQueue := rest } k (owner source body (Work.begin (s.taking x rest))).out
      { owner source body (Work.begin (s.taking x rest)) with out := [] } (Ends { s with recvQueue := rest } (Q x)))
    (h : ∀ x b n, Q x b → n.After b → P (b.noting n)) : Completes c s P := by
  obtain ⟨x, -, done⟩ := exec_hands row hands
  obtain ⟨b, u, ends, noted, holds⟩ := event_ends (work := fun w => owner source body (w.on (·.handed x))) (before := s)
    (start := { s with recvQueue := rest }) ready rfl few (arrives x)
  exact .of_noted ⟨u, done.trans ends, noted⟩ fun n after => h x b n holds after

/-! ## The Reservation List -/

/-- The state with another Reservation List. -/
def State.reserving (s : State) (rs : List Reservation) : State := { s with reservations := rs }

@[simp] theorem reserving_resetHeld (s : State) (rs : List Reservation) :
    (s.reserving rs).resetHeld = s.resetHeld := rfl
@[simp] theorem reserving_service (s : State) (rs : List Reservation) : (s.reserving rs).service = s.service := rfl
@[simp] theorem reserving_address (s : State) (rs : List Reservation) : (s.reserving rs).address = s.address := rfl
@[simp] theorem reserving_cfg (s : State) (rs : List Reservation) : (s.reserving rs).cfg = s.cfg := rfl
@[simp] theorem reserving_sections (s : State) (rs : List Reservation) : (s.reserving rs).sections = s.sections := rfl
@[simp] theorem reserving_points (s : State) (rs : List Reservation) : (s.reserving rs).points = s.points := rfl
@[simp] theorem reserving_signals (s : State) (rs : List Reservation) : (s.reserving rs).signals = s.signals := rfl
@[simp] theorem reserving_boundaries (s : State) (rs : List Reservation) :
    (s.reserving rs).boundaries = s.boundaries := rfl
@[simp] theorem reserving_blocking (s : State) (rs : List Reservation) : (s.reserving rs).blocking = s.blocking := rfl
@[simp] theorem reserving_remote (s : State) (rs : List Reservation) : (s.reserving rs).remote = s.remote := rfl
@[simp] theorem reserving_instances (s : State) (rs : List Reservation) :
    (s.reserving rs).instances = s.instances := rfl
@[simp] theorem reserving_lastEnded (s : State) (rs : List Reservation) :
    (s.reserving rs).lastEnded = s.lastEnded := rfl
@[simp] theorem reserving_register (s : State) (rs : List Reservation) : (s.reserving rs).register = s.register := rfl
@[simp] theorem reserving_recvQueue (s : State) (rs : List Reservation) :
    (s.reserving rs).recvQueue = s.recvQueue := rfl
@[simp] theorem reserving_sendQueue (s : State) (rs : List Reservation) :
    (s.reserving rs).sendQueue = s.sendQueue := rfl
@[simp] theorem reserving_tagCounter (s : State) (rs : List Reservation) :
    (s.reserving rs).tagCounter = s.tagCounter := rfl
@[simp] theorem reserving_requests (s : State) (rs : List Reservation) : (s.reserving rs).requests = s.requests := rfl
@[simp] theorem reserving_peers (s : State) (rs : List Reservation) : (s.reserving rs).peers = s.peers := rfl
@[simp] theorem reserving_presenceTimer (s : State) (rs : List Reservation) :
    (s.reserving rs).presenceTimer = s.presenceTimer := rfl
@[simp] theorem reserving_captureTimer (s : State) (rs : List Reservation) :
    (s.reserving rs).captureTimer = s.captureTimer := rfl
@[simp] theorem reserving_reports (s : State) (rs : List Reservation) : (s.reserving rs).reports = s.reports := rfl
@[simp] theorem reserving_firstFault (s : State) (rs : List Reservation) :
    (s.reserving rs).firstFault = s.firstFault := rfl
@[simp] theorem reserving_counts (s : State) (rs : List Reservation) : (s.reserving rs).counts = s.counts := rfl
@[simp] theorem reserving_alertArmed (s : State) (rs : List Reservation) :
    (s.reserving rs).alertArmed = s.alertArmed := rfl
@[simp] theorem reserving_fresh (s : State) (rs : List Reservation) : (s.reserving rs).fresh = s.fresh := rfl
@[simp] theorem reserving_agenda (s : State) (rs : List Reservation) : (s.reserving rs).agenda = s.agenda := rfl
@[simp] theorem reserving_sending (s : State) (rs : List Reservation) : (s.reserving rs).sending = s.sending := rfl
@[simp] theorem reserving_reservations (s : State) (rs : List Reservation) : (s.reserving rs).reservations = rs := rfl
@[simp] theorem keep_reserving (u s : State) (rs : List Reservation) : u.keep (s.reserving rs) = (u.keep s).reserving rs := rfl

@[simp] theorem keep_changeReservation (u s : State) (ref : RouteRef) (f : Reservation → Reservation) :
    u.keep (s.changeReservation ref f) = (u.keep s).changeReservation ref f := rfl

theorem place_reporting (s : State) (x : Subject) : s.place x = s.reporting (s.place x).reports := by
  unfold State.place
  split <;> rfl

/-- In a table without repeats, what is kept of it holds the entry of a route reference if that is kept. -/
theorem find_filter {α : Type} {key : α → RouteRef} {xs : List α} {ref : RouteRef} {x : α} (keep : α → Bool)
    (unique : (xs.map key).Nodup) (found : xs.find? (fun y => key y == ref) = some x) :
    (xs.filter keep).find? (fun y => key y == ref) = if keep x then some x else none := by
  induction xs with
  | nil => exact nomatch found
  | cons y xs ih =>
    rw [List.map_cons, List.nodup_cons] at unique
    by_cases same : key y = ref
    · rw [List.find?_cons_of_pos (by simpa using same)] at found
      obtain rfl : x = y := (Option.some.inj found).symm
      have others : (xs.filter keep).find? (fun z => key z == ref) = none := by
        refine List.find?_eq_none.mpr fun z known => ?_
        have apart : key z ≠ key x := fun equal => unique.1 (equal ▸ List.mem_map_of_mem (List.mem_of_mem_filter known))
        simpa [← same] using apart
      by_cases kept : keep x = true
      · rw [List.filter_cons_of_pos kept, List.find?_cons_of_pos (by simpa using same), if_pos kept]
      · rw [List.filter_cons_of_neg kept, if_neg kept, others]
    · rw [List.find?_cons_of_neg (by simpa using same)] at found
      by_cases kept : keep y = true
      · rw [List.filter_cons_of_pos kept, List.find?_cons_of_neg (by simpa using same)]
        exact ih unique.2 found
      · rw [List.filter_cons_of_neg kept]
        exact ih unique.2 found

/-- What changes entries, and no route reference, changes the entry found. -/
theorem find_map {α : Type} {key : α → RouteRef} (xs : List α) (ref : RouteRef) (f : α → α) (same : ∀ x, key (f x) = key x) :
    (xs.map f).find? (fun y => key y == ref) = (xs.find? fun y => key y == ref).map f := by
  rw [List.find?_map]
  congr 2
  funext x
  exact congrArg (· == ref) (same x)

theorem own_of_address {s t : State} (same : t.address = s.address) : t.own = s.own := congrArg (·.getD 0) same

theorem reservation_of_list {s t : State} (same : t.reservations = s.reservations) (ref : RouteRef) :
    t.reservation ref = s.reservation ref :=
  congrArg (List.find? (fun r : Reservation => r.ref == ref)) same

section
variable {s : State} {ref : RouteRef} {r : Reservation}

theorem changeReservation_reservation {f : Reservation → Reservation} (same : ∀ x, (f x).ref = x.ref) :
    (s.changeReservation ref f).reservation ref = (s.reservation ref).map f := by
  have changed := find_map s.reservations ref (fun x => if x.ref = ref then f x else x) (key := (·.ref)) fun x => by
    split
    · exact same x
    · rfl
  refine changed.trans ?_
  show (s.reservation ref).map _ = _
  cases found : s.reservation ref with
  | none => rfl
  | some r =>
    have ours : r.ref = ref := by simpa using List.find?_some found
    rw [Option.map_some, if_pos ours]
    rfl

theorem changeReservation_found (f : Reservation → Reservation) (same : ∀ x, (f x).ref = x.ref)
    (found : s.reservation ref = some r) : (s.changeReservation ref f).reservation ref = some (f r) :=
  (changeReservation_reservation same).trans (congrArg (Option.map f) found)

theorem changeReservation_refs (f : Reservation → Reservation) (same : ∀ x, (f x).ref = x.ref) :
    (s.changeReservation ref f).reservations.map (·.ref) = s.reservations.map (·.ref) := by
  show (s.reservations.map _).map _ = _
  rw [List.map_map]
  refine List.map_congr_left fun x _ => ?_
  dsimp only [Function.comp]
  split
  · exact same x
  · rfl

theorem endReservation_sections (s : State) (ref : RouteRef) : (s.endReservation ref).sections = s.sections := rfl

theorem endReservation_of_none (none : s.reservation ref = none) : (s.endReservation ref).reservation ref = Option.none :=
  List.find?_eq_none.mpr fun x known => List.find?_eq_none.mp none x (List.mem_of_mem_filter known)

/-- An entry that lists an element does not end (R99). -/
theorem endReservation_of_listed (unique : (s.reservations.map (·.ref)).Nodup) (found : s.reservation ref = some r)
    (listed : r.elems ≠ []) : s.endReservation ref = s := by
  have all : s.reservations.filter (fun x => !(x.ref == ref && x.elems.isEmpty)) = s.reservations := by
    refine List.filter_eq_self.mpr fun x known => ?_
    by_cases ours : x.ref = ref
    · have named : r.ref = ref := by simpa using List.find?_some found
      rw [List.inj_on_of_nodup_map unique known (List.mem_of_find?_eq_some found) (ours.trans named.symm)]
      simp [listed]
    · simp [ours]
  exact congrArg s.reserving all

/-- The list of the entry that a lock has left (R99). -/
theorem lockGone_found {e : Elem} (unique : (s.reservations.map (·.ref)).Nodup) (found : s.reservation ref = some r)
    (other : ref.station ≠ s.own) : ∃ rs, s.lockGone ref e = s.reserving rs
      ∧ rs.filter (fun r => !(r.ref == ref && r.elems.isEmpty)) = rs
      ∧ rs.find? (fun x => x.ref == ref) = if (r.elems.filter (·.elem != e)).isEmpty then none
        else some { r with elems := r.elems.filter (·.elem != e) } := by
  have named : r.ref = ref := by simpa using List.find?_some found
  let f := fun x : Reservation => if x.ref = ref then { x with elems := x.elems.filter (·.elem != e) } else x
  have same (x : Reservation) : (f x).ref = x.ref := by
    dsimp only [f]
    split <;> rfl
  have changed := find_map s.reservations ref f (key := (·.ref)) same
  rw [show s.reservations.find? (fun y => y.ref == ref) = some r from found, Option.map_some] at changed
  have refs : ((s.reservations.map f).map (·.ref)).Nodup := by
    rw [List.map_map]
    exact (List.map_congr_left fun x _ => same x) ▸ unique
  have kept := find_filter (fun x => !(x.ref == ref && x.elems.isEmpty)) refs changed
  refine ⟨_, if_neg other, ?_, kept.trans ?_⟩
  · rw [List.filter_filter]
    simp only [Bool.and_self]
  simp only [f, if_pos named]
  rw [named]
  by_cases empty : (r.elems.filter (·.elem != e)).isEmpty = true
  · simp [empty]
  · simp [empty]

/-! ## Locks of sections freed (R9) -/

section
variable {w : Work} {i : Fin 16} {l : RouteLock}

theorem freeLock_track_occupied (locked : w.st.sections[i].lock = some l) (mine : l.ref = ref)
    (occupied : w.st.sections[i].occupied = true) : w.freeLock ref (.track i) =
      w.on (·.setSection i { w.st.sections[i] with lock := some { l with releasePending := true } }) := by
  unfold Work.freeLock
  rw [show w.st.lockOf (.track i) = some l from locked]
  dsimp only
  rw [if_neg (not_not_intro mine), if_pos occupied]

theorem freeLock_track_clear (locked : w.st.sections[i].lock = some l) (mine : l.ref = ref)
    (clear : w.st.sections[i].occupied = false) : w.freeLock ref (.track i) =
      w.on fun s => ((s.setSection i s.sections[i].dropLock).lockGone ref (.track i)).place (.elem (.track i)) := by
  unfold Work.freeLock
  rw [show w.st.lockOf (.track i) = some l from locked]
  dsimp only
  rw [if_neg (not_not_intro mine), if_neg fun h => Bool.false_ne_true (clear.symm.trans h)]
  rfl

/-- A RELEASE of one section that the entry lists (R101). -/
theorem takeRelease_section {tag : Byte} (found : w.st.reservation ref = some r) (active : r.state = .active)
    (tagged : r.tag = tag) (listed : r.elems.any (·.elem == .track i) = true) :
    w.takeRelease ref.station tag ref [i.val] =
      ((w.freeLock ref (.track i)).on (·.endReservation ref)).emit [.assessReservation ref] := by
  have freed : Work.releaseElem ref w i.val = w.freeLock ref (.track i) := by
    unfold Work.releaseElem
    rw [elemOfNumber_track, found]
    dsimp only
    rw [if_pos listed]
  unfold Work.takeRelease State.activeReservation
  rw [found, Option.filter_some, if_pos (by simp [active])]
  dsimp only
  rw [if_pos ⟨rfl, tagged⟩, List.foldl_cons, List.foldl_nil, freed]

/-- The assessment of a proof marks the entry and tells its route, or does nothing (R100). -/
theorem assessReservation_cases (room : w.st.sendQueue.length < 32) :
    w.assessReservation ref = w ∨ ∃ tag said, w.assessReservation ref =
      { w with
        st := (w.st.changeReservation ref fun r => { r with mark := .proven }).placing ref.station (.proven tag ref none)
        said := said } := by
  unfold Work.assessReservation
  split
  · split
    · next r _ _ => exact .inr ⟨r.tag, (ref, none) :: w.said, postProof_places room⟩
    · exact .inl rfl
  · exact .inl rfl

/-- What is reached before the proof of a reservation is assessed is kept by the assessment. -/
theorem arrives_assessReservation {start u : State} {P : State → Prop} (room : u.sendQueue.length < 32)
    (kept : start.keep u = u) (left : u.agenda = []) (holds : P u) (reports : ∀ t rs, P t → P (t.reporting rs))
    (marks : ∀ t d b, P t → P ((t.changeReservation ref fun r => { r with mark := .proven }).placing d b)) :
    Arrives start 1 [.assessReservation ref] (Work.begin u) (Ends start P) := by
  refine .step fun rs => ?_
  show Arrives start 0 (((Work.begin (u.reporting rs)).assessReservation ref).out ++ [])
    { (Work.begin (u.reporting rs)).assessReservation ref with out := [] } _
  have kept' : start.keep (u.reporting rs) = u.reporting rs := congrArg (State.reporting · rs) kept
  rcases assessReservation_cases (w := Work.begin (u.reporting rs)) (ref := ref) room with same | ⟨tag, said, marked⟩
  · rw [same]
    exact .done ⟨rfl, kept', left, reports u rs holds⟩
  · rw [marked]
    refine .done ⟨rfl, ?_, left, marks _ _ _ (reports u rs holds)⟩
    exact congrArg (fun t : State => (t.changeReservation ref fun r => { r with mark := .proven }).placing ref.station
      (.proven tag ref none)) kept'

end

end

/-- Settles O31: what the lock's freeing leaves is kept by the assessment that follows it. -/
theorem releaseFreesOrMarksPending : Obligations.ReleaseFreesOrMarksPending := by
  intro s tag ref i rest r l ready holds hands found active tagged listed locked mine other room
  let P (t : State) : Prop := t.recvQueue = rest ∧ t.points = s.points ∧ t.signals = s.signals ∧ t.instances = s.instances
    ∧ (if s.sections[i].occupied then t.sections[i].lock = some { l with releasePending := true }
          ∧ (t.reservation ref).map (·.elems) = some r.elems
      else t.sections[i].lock = none ∧ t.sections[i].sequenceFault = false ∧ t.sections[i].train = none
        ∧ (t.reservation ref).map (·.elems) =
          (let left := r.elems.filter (·.elem != .track i)
            if left.isEmpty then none else some left))
  have marks (t : State) (d : Nat) (b : Body) (h : P t) :
      P ((t.changeReservation ref fun r => { r with mark := .proven }).placing d b) := by
    have elems : (((t.changeReservation ref fun r => { r with mark := .proven }).placing d b).reservation ref).map (·.elems) =
        (t.reservation ref).map (·.elems) := by
      rw [show ((t.changeReservation ref fun r => { r with mark := .proven }).placing d b).reservation ref =
        (t.changeReservation ref fun r => { r with mark := .proven }).reservation ref from rfl,
        changeReservation_reservation (f := fun r => { r with mark := .proven }) fun _ => rfl, Option.map_map]
      rfl
    obtain ⟨queue, points, signals, instances, rest⟩ := h
    refine ⟨queue, points, signals, instances, ?_⟩
    rw [elems]
    exact rest
  have noted (t : State) (n : Notes) (h : P t) : P (t.noting n) := h
  have full : r.elems ≠ [] := fun none => by simp [none] at listed
  refine .of_arrives (fun _ => P) rfl ready hands (k := 1) (by decide) (fun x => ?_) fun x b n h _ => noted b n h
  show Arrives _ 1 ((Work.begin (s.taking x rest)).takeRelease ref.station tag ref [i.val]).out
    { (Work.begin (s.taking x rest)).takeRelease ref.station tag ref [i.val] with out := [] } _
  rw [takeRelease_section (w := Work.begin (s.taking x rest)) found active tagged listed]
  by_cases occupied : s.sections[i].occupied = true
  · rw [freeLock_track_occupied (w := Work.begin (s.taking x rest)) locked mine occupied]
    let u := (s.taking x rest).setSection i { s.sections[i] with lock := some { l with releasePending := true } }
    have stays : u.endReservation ref = u := endReservation_of_listed (s := u) holds.2 found full
    have ends : (Work.begin u).on (·.endReservation ref) = Work.begin u := congrArg Work.begin stays
    show Arrives _ 1 (((Work.begin u).on (·.endReservation ref)).emit _).out
      { ((Work.begin u).on (·.endReservation ref)).emit _ with out := [] } _
    rw [ends]
    refine arrives_assessReservation (u := u) (by simpa [u] using room) (by simp [u]) (by simp [u, ready.2])
      ⟨by simp [u], by simp [u], by simp [u], by simp [u], ?_⟩ (fun t rs h => h) marks
    rw [if_pos occupied]
    refine ⟨by simp [u], ?_⟩
    rw [show u.reservation ref = some r from found]
    rfl
  · have clear : s.sections[i].occupied = false := Bool.eq_false_iff.mpr occupied
    rw [freeLock_track_clear (w := Work.begin (s.taking x rest)) locked mine clear]
    obtain ⟨rs, gone, idle, left⟩ := lockGone_found (s := (s.taking x rest).setSection i s.sections[i].dropLock)
      (e := .track i) holds.2 found other
    let v := ((s.taking x rest).setSection i s.sections[i].dropLock).reserving rs
    let u := v.reporting (v.place (.elem (.track i))).reports
    have ends : ((Work.begin (s.taking x rest)).on fun s => ((s.setSection i s.sections[i].dropLock).lockGone ref
        (.track i)).place (.elem (.track i))).on (·.endReservation ref) = Work.begin u := by
      have dropped : (((s.taking x rest).setSection i s.sections[i].dropLock).lockGone ref (.track i)).place (.elem (.track i)) = u :=
        (congrArg (State.place · (.elem (.track i))) gone).trans (place_reporting v _)
      have stays : u.endReservation ref = u := congrArg u.reserving idle
      exact congrArg Work.begin ((congrArg (State.endReservation · ref) dropped).trans stays)
    show Arrives _ 1 ((Work.on _ (·.endReservation ref)).emit _).out
      { (Work.on _ (·.endReservation ref)).emit _ with out := [] } _
    rw [ends]
    refine arrives_assessReservation (u := u) (by simpa [u, v] using room) (by simp [u, v]) (by simp [u, v, ready.2])
      ⟨by simp [u, v], by simp [u, v], by simp [u, v], by simp [u, v], ?_⟩ (fun t rs h => h) marks
    rw [if_neg occupied]
    have section_eq : u.sections[i] = s.sections[i].dropLock := by simp [u, v]
    refine ⟨by rw [section_eq]; rfl, by rw [section_eq]; rfl, by rw [section_eq]; rfl, ?_⟩
    rw [show u.reservation ref = rs.find? (fun x => x.ref == ref) from rfl, left]
    dsimp only
    split <;> rfl

/-! ## Orphan timers (R139, R156) -/

/-- The state with another Claim Register. -/
def State.registering (s : State) (rs : List RegisterEntry) : State := { s with register := rs }

@[simp] theorem registering_resetHeld (s : State) (rs : List RegisterEntry) :
    (s.registering rs).resetHeld = s.resetHeld := rfl
@[simp] theorem registering_service (s : State) (rs : List RegisterEntry) :
    (s.registering rs).service = s.service := rfl
@[simp] theorem registering_address (s : State) (rs : List RegisterEntry) :
    (s.registering rs).address = s.address := rfl
@[simp] theorem registering_cfg (s : State) (rs : List RegisterEntry) : (s.registering rs).cfg = s.cfg := rfl
@[simp] theorem registering_sections (s : State) (rs : List RegisterEntry) :
    (s.registering rs).sections = s.sections := rfl
@[simp] theorem registering_points (s : State) (rs : List RegisterEntry) : (s.registering rs).points = s.points := rfl
@[simp] theorem registering_signals (s : State) (rs : List RegisterEntry) :
    (s.registering rs).signals = s.signals := rfl
@[simp] theorem registering_boundaries (s : State) (rs : List RegisterEntry) :
    (s.registering rs).boundaries = s.boundaries := rfl
@[simp] theorem registering_blocking (s : State) (rs : List RegisterEntry) :
    (s.registering rs).blocking = s.blocking := rfl
@[simp] theorem registering_remote (s : State) (rs : List RegisterEntry) : (s.registering rs).remote = s.remote := rfl
@[simp] theorem registering_instances (s : State) (rs : List RegisterEntry) :
    (s.registering rs).instances = s.instances := rfl
@[simp] theorem registering_lastEnded (s : State) (rs : List RegisterEntry) :
    (s.registering rs).lastEnded = s.lastEnded := rfl
@[simp] theorem registering_reservations (s : State) (rs : List RegisterEntry) :
    (s.registering rs).reservations = s.reservations := rfl
@[simp] theorem registering_recvQueue (s : State) (rs : List RegisterEntry) :
    (s.registering rs).recvQueue = s.recvQueue := rfl
@[simp] theorem registering_sendQueue (s : State) (rs : List RegisterEntry) :
    (s.registering rs).sendQueue = s.sendQueue := rfl
@[simp] theorem registering_tagCounter (s : State) (rs : List RegisterEntry) :
    (s.registering rs).tagCounter = s.tagCounter := rfl
@[simp] theorem registering_requests (s : State) (rs : List RegisterEntry) :
    (s.registering rs).requests = s.requests := rfl
@[simp] theorem registering_peers (s : State) (rs : List RegisterEntry) : (s.registering rs).peers = s.peers := rfl
@[simp] theorem registering_presenceTimer (s : State) (rs : List RegisterEntry) :
    (s.registering rs).presenceTimer = s.presenceTimer := rfl
@[simp] theorem registering_captureTimer (s : State) (rs : List RegisterEntry) :
    (s.registering rs).captureTimer = s.captureTimer := rfl
@[simp] theorem registering_reports (s : State) (rs : List RegisterEntry) :
    (s.registering rs).reports = s.reports := rfl
@[simp] theorem registering_firstFault (s : State) (rs : List RegisterEntry) :
    (s.registering rs).firstFault = s.firstFault := rfl
@[simp] theorem registering_counts (s : State) (rs : List RegisterEntry) : (s.registering rs).counts = s.counts := rfl
@[simp] theorem registering_alertArmed (s : State) (rs : List RegisterEntry) :
    (s.registering rs).alertArmed = s.alertArmed := rfl
@[simp] theorem registering_fresh (s : State) (rs : List RegisterEntry) : (s.registering rs).fresh = s.fresh := rfl
@[simp] theorem registering_agenda (s : State) (rs : List RegisterEntry) : (s.registering rs).agenda = s.agenda := rfl
@[simp] theorem registering_sending (s : State) (rs : List RegisterEntry) :
    (s.registering rs).sending = s.sending := rfl
@[simp] theorem registering_register (s : State) (rs : List RegisterEntry) : (s.registering rs).register = rs := rfl
@[simp] theorem keep_registering (u s : State) (rs : List RegisterEntry) :
    u.keep (s.registering rs) = (u.keep s).registering rs := rfl

/-- The entry whose orphan timer has expired. -/
def Reservation.timedOut (r : Reservation) : Reservation := { r with state := .orphaned none }

/-- The entry without its exit signal. -/
def Reservation.exitless (r : Reservation) : Reservation := { r with exitSignal := none }

section
variable {s : State} {ref : RouteRef} {r : Reservation} {w : Work} {i : Fin 16} {l : RouteLock} {left : Nat} {role : Role}
  {state : Required}

/-- Expiry of the orphan timer of a reservation that lists one section (R139). -/
theorem freeClaimIn_of_unclaimed {es : List ClaimEntry} (none : claimed ref es = false) : freeClaimIn ref es = es := by
  induction es with
  | nil => rfl
  | cons e es ih =>
    unfold claimed at none
    rw [List.any_cons, Bool.or_eq_false_iff] at none
    rw [freeClaimIn, if_neg (by simpa using none.1), ih none.2]

theorem becomeFree_claims (p : PointRec) : p.becomeFree.claims = p.claims := by
  unfold PointRec.becomeFree
  split
  · split <;> rfl
  · rfl

/-- One claim of the claimant goes, and the others stay (R10). -/
theorem dropClaim_claims (p : PointRec) : (p.dropClaim ref).claims = freeClaimIn ref p.claims := by
  unfold PointRec.dropClaim
  split
  · dsimp only
    split
    · rfl
    · split
      · exact becomeFree_claims _
      · rfl
  · next unclaimed => exact (freeClaimIn_of_unclaimed (Bool.eq_false_iff.mpr unclaimed)).symm

/-- A claim of a point is freed, and leaves its entry (R148, R150). -/
theorem unregister_points {p : Fin 8} : w.unregister ref (.points p) = w.on fun s =>
    (s.setPoint p (s.points[p].dropClaim ref)).registering
      ((s.register.map fun r => if r.ref = ref then { r with elems := r.elems.filter (·.elem != .points p) } else r).filter
        fun r => !(r.ref == ref && r.elems.isEmpty)) := rfl

theorem orphanExpires_section (found : w.st.reservation ref = some r) (orphaned : r.state = .orphaned (some left))
    (lists : r.elems = [⟨.track i, role, state⟩]) : w.orphanExpires ref =
      ((w.on (·.changeReservation ref Reservation.timedOut)).freeLock ref (.track i)).on fun s =>
        (s.changeReservation ref Reservation.exitless).endReservation ref := by
  have again : (w.on (·.changeReservation ref fun r => { r with state := .orphaned none })).st.reservation ref =
      some r.timedOut := changeReservation_found Reservation.timedOut (fun _ => rfl) found
  unfold Work.orphanExpires
  rw [found]
  dsimp only
  rw [orphaned]
  dsimp only
  unfold Work.freeReservation
  rw [again]
  dsimp only
  rw [show r.timedOut.elems = _ from lists]
  rfl

end

section
variable {s : State} {ref : RouteRef} {r : Reservation} {i : Fin 16} {l : RouteLock} {left : Nat} {role : Role}
  {state : Required}

/-- What an expired orphan timer leaves as it was. -/
structure OrphanLeaves (s u : State) : Prop where
  points : u.points = s.points
  signals : u.signals = s.signals
  instances : u.instances = s.instances
  kept : s.keep u = u
  agenda : u.agenda = s.agenda

/-- The section of an expired reservation under a train stays locked, release-pending (R9, R139). -/
theorem orphanExpires_occupied (holds : s.reservationsHold) (found : s.reservation ref = some r)
    (orphaned : r.state = .orphaned (some left)) (lists : r.elems = [⟨.track i, role, state⟩])
    (locked : s.sections[i].lock = some l) (mine : l.ref = ref) (occupied : s.sections[i].occupied = true) :
    ∃ u, (Work.begin s).orphanExpires ref = Work.begin u ∧ OrphanLeaves s u
      ∧ u.sections[i].lock = some { l with releasePending := true } ∧ u.reservation ref = some r.timedOut.exitless := by
  let v := s.changeReservation ref Reservation.timedOut
  have found' : v.reservation ref = some r.timedOut := changeReservation_found _ (fun _ => rfl) found
  have unique : (v.reservations.map (·.ref)).Nodup := (changeReservation_refs Reservation.timedOut fun _ => rfl).symm ▸ holds.2
  have freed := freeLock_track_occupied (w := Work.begin v) (i := i) (ref := ref) locked mine occupied
  let u := (v.setSection i { s.sections[i] with lock := some { l with releasePending := true } }).changeReservation ref
    Reservation.exitless
  have found_u : u.reservation ref = some r.timedOut.exitless := changeReservation_found _ (fun _ => rfl) found'
  have stays : u.endReservation ref = u :=
    endReservation_of_listed ((changeReservation_refs Reservation.exitless fun _ => rfl).symm ▸ unique) found_u
      (by simp [Reservation.timedOut, Reservation.exitless, lists])
  have all : (Work.begin s).orphanExpires ref = Work.begin u :=
    (orphanExpires_section found orphaned lists).trans
      ((congrArg (Work.on · fun s => (s.changeReservation ref Reservation.exitless).endReservation ref)
        freed).trans (congrArg Work.begin stays))
  exact ⟨u, all, ⟨rfl, rfl, rfl, rfl, rfl⟩, by simp [u], found_u⟩

/-- The CLEAR section of an expired reservation is freed, and the entry ends (R9, R139). -/
theorem orphanExpires_clear (holds : s.reservationsHold) (found : s.reservation ref = some r)
    (orphaned : r.state = .orphaned (some left)) (lists : r.elems = [⟨.track i, role, state⟩])
    (locked : s.sections[i].lock = some l) (mine : l.ref = ref) (other : ref.station ≠ s.own)
    (clear : s.sections[i].occupied = false) :
    ∃ u, (Work.begin s).orphanExpires ref = Work.begin u ∧ OrphanLeaves s u
      ∧ u.sections = s.sections.set i s.sections[i].dropLock ∧ u.reservation ref = none := by
  let v := s.changeReservation ref Reservation.timedOut
  have found' : v.reservation ref = some r.timedOut := changeReservation_found _ (fun _ => rfl) found
  have unique : (v.reservations.map (·.ref)).Nodup := (changeReservation_refs Reservation.timedOut fun _ => rfl).symm ▸ holds.2
  have freed := freeLock_track_clear (w := Work.begin v) (i := i) (ref := ref) locked mine clear
  obtain ⟨rs, gone, -, lost⟩ := lockGone_found (s := v.setSection i s.sections[i].dropLock) (e := .track i) unique
    ((reservation_of_list (s := v) rfl ref).trans found') ((own_of_address (s := s) rfl).symm ▸ other)
  let x := (v.setSection i s.sections[i].dropLock).reserving rs
  obtain ⟨qs, dropped⟩ : ∃ qs, (Work.begin v).freeLock ref (.track i) = Work.begin (x.reporting qs) :=
    ⟨_, freed.trans (congrArg Work.begin ((congrArg (State.place · (.elem (.track i))) gone).trans (place_reporting x _)))⟩
  let y := (x.reporting qs).changeReservation ref Reservation.exitless
  have gone_y : y.reservation ref = none := by
    refine (changeReservation_reservation (f := Reservation.exitless) fun _ => rfl).trans ?_
    have listed : (x.reporting qs).reservation ref = rs.find? (fun x => x.ref == ref) :=
      congrArg (List.find? (fun r : Reservation => r.ref == ref)) (by simp [x])
    rw [listed, lost, if_pos (by simp [Reservation.timedOut, lists])]
    rfl
  have ended := endReservation_of_none gone_y
  obtain ⟨rs', ends⟩ : ∃ rs', y.endReservation ref = y.reserving rs' := ⟨_, rfl⟩
  rw [ends] at ended
  have all : (Work.begin s).orphanExpires ref = Work.begin (y.reserving rs') :=
    (orphanExpires_section found orphaned lists).trans
      ((congrArg (Work.on · fun s => (s.changeReservation ref Reservation.exitless).endReservation ref) dropped).trans
        (congrArg Work.begin ends))
  exact ⟨y.reserving rs', all, ⟨by simp [y, x, v], by simp [y, x, v], by simp [y, x, v], by simp [y, x, v, State.keep_self],
    by simp [y, x, v]⟩, by simp [y, x, v, State.setSection, State.changeReservation], ended⟩

end

/-- Settles O33. -/
theorem orphanExpiryFreesElements : Obligations.OrphanExpiryFreesElements := by
  refine ⟨?_, ?_⟩
  · intro s ref i r role state l left ready holds found orphaned lists locked mine other
    by_cases occupied : s.sections[i].occupied = true
    · obtain ⟨u, all, leaves, lock, entry⟩ := orphanExpires_occupied holds found orphaned lists locked mine occupied
      refine .of_noted (b := u) (event_within (work := fun w => w.orphanExpires ref) ready rfl (.of_eq all) leaves.kept
        (leaves.agenda.trans ready.2)) fun n _ => ⟨leaves.points, leaves.signals, leaves.instances, ?_⟩
      rw [if_pos occupied]
      exact ⟨lock, entry⟩
    · obtain ⟨u, all, leaves, sections, entry⟩ := orphanExpires_clear holds found orphaned lists locked mine other
        (Bool.eq_false_iff.mpr occupied)
      refine .of_noted (b := u) (event_within (work := fun w => w.orphanExpires ref) ready rfl (.of_eq all) leaves.kept
        (leaves.agenda.trans ready.2)) fun n _ => ⟨leaves.points, leaves.signals, leaves.instances, ?_⟩
      rw [if_neg occupied, State.noting_sections, sections]
      exact ⟨by simp [SectionRec.dropLock], entry⟩
  · intro s ref p state tag mark left ready only
    let u := (s.setPoint p (s.points[p].dropClaim ref)).registering []
    have all : (Work.begin s).claimsExpire ref = Work.begin u := by
      unfold Work.claimsExpire State.registered
      rw [Work.begin_st, only, List.find?_cons_of_pos (by simp)]
      dsimp only
      rw [List.foldl_cons, List.foldl_nil, unregister_points]
      refine congrArg (fun rs => Work.begin ((s.setPoint p (s.points[p].dropClaim ref)).registering rs)) ?_
      rw [Work.begin_st, only]
      simp
    refine .of_noted (b := u) (event_within (work := fun w => w.claimsExpire ref) ready rfl (.of_eq all) rfl ready.2)
      fun n _ => ⟨rfl, ?_, rfl, rfl, rfl⟩
    have point_eq : u.points[p] = s.points[p].dropClaim ref := by simp [u]
    exact (congrArg PointRec.claims point_eq).trans (dropClaim_claims _)

end Sys2Proof.Machine
end

section
/-! PROOFS. Events followed by an invariant of their tasks, whatever their number; points called for a route or a claim;
FLANK CLAIM and FLANK RELEASE (O32). -/

namespace Sys2Proof.Machine

/-! ## Tasks that keep something -/

/-- Tasks of a kind that gives rise to no others keep what each of them, and the placing of subjects, keeps. -/
theorem settle_keeps {start : State} {H : Task → Prop} {I : Work → Prop}
    (place : ∀ w, I w → I { w.on (State.placeChanged start) with out := [] })
    (step : ∀ w x, H x → I w → w.out = [] → I (w.take x) ∧ ∀ y ∈ (w.take x).out, H y) (fuel : Nat) (ts : List Task) (w : Work)
    (all : ∀ x ∈ ts, H x) (holds : I w) : I (Work.settle start fuel ts w).1 := by
  induction fuel generalizing ts w with
  | zero =>
    cases ts with
    | nil => exact holds
    | cons x ts => exact holds
  | succ n ih =>
    cases ts with
    | nil => exact holds
    | cons x ts =>
      rw [settle_cons]
      obtain ⟨kept, more⟩ := step _ x (all x List.mem_cons_self) (place w holds) rfl
      refine ih _ _ (fun y known => ?_) kept
      rcases List.mem_append.mp known with new | old
      · exact more y new
      · exact all y (List.mem_cons_of_mem x old)

/-- An event keeps what its work reaches and its tasks keep, but for notes, the draining, and what its bound leaves over. -/
theorem event_invariant {before start : State} {work : Work → Work} {H : Task → Prop} {I : Work → Prop} (ready : before.ready)
    (begun : start.agenda = before.agenda) (all : ∀ x ∈ (work (Work.begin start)).out, H x) (reached : I (work (Work.begin start)))
    (place : ∀ w, I w → I { w.on (State.placeChanged start) with out := [] })
    (step : ∀ w x, H x → I w → w.out = [] → I (w.take x) ∧ ∀ y ∈ (w.take x).out, H y)
    (quiet : ∀ w, I w → w.returns = []) :
    ∃ w rest u, before.event start work = .next u.drained ∧ Noted (start.keep { w.st with agenda := rest }) u ∧ I w := by
  obtain ⟨u, ended, noted⟩ := event_noted (start := start) (work := work) ready.1
  have kept := settle_keeps place step taskBound (work (Work.begin start)).out (work (Work.begin start)) all reached
  have settled : (start.settled work).st = start.keep
      { (Work.settle start taskBound (work (Work.begin start)).out (work (Work.begin start))).1.st with
        agenda := (Work.settle start taskBound (work (Work.begin start)).out (work (Work.begin start))).2 } := by
    unfold State.settled
    dsimp only
    rw [begun, ready.2, List.nil_append, returnFlank_of_nil (quiet _ kept)]
    rfl
  exact ⟨_, _, u, ended, settled ▸ noted, kept⟩

/-! ## Points that are called (R40) -/

section
variable {w : Work} {p : Fin 8} {x : Position} {who : Requester} {r : PointRec} {c : PointCfg} {occupied : Bool}

/-- Joining a move in flight changes the requesters alone (R39). -/
theorem joinInPosition_eq (who : Requester) (r : PointRec) : ∃ rs, r.joinInPosition who = { r with requesters := rs } := by
  have joined : ∃ rs, r.join who = { r with requesters := rs } := by
    unfold PointRec.join
    split
    · exact ⟨r.requesters, rfl⟩
    · exact ⟨_, rfl⟩
  unfold PointRec.joinInPosition
  split
  · exact ⟨r.requesters, rfl⟩
  · exact ⟨r.requesters, rfl⟩
  · exact joined

/-- What a call makes of a point at REST elsewhere that no one waits for. -/
structure Calls (who : Requester) (x : Position) (r r' : PointRec) : Prop where
  lock : r'.lock = r.lock
  claims : r'.claims = r.claims
  commanded : r'.commanded = some x
  moves : r.detected ≠ some x → r'.drive.target = some x ∧ r'.requesters = [who]

/-- Detected where it is called, the point has achieved at once; else its move begins, and no one is told (R40). -/
theorem moveRequest_calls (rest : r.drive = .rest) (idle : r.requesters = []) (away : r.commanded ≠ some x) :
    ∃ r', Calls who x r r' ∧ (r.moveRequest c occupied x who = ⟨r', [(who, .achieved)], []⟩ ∧ proofChange r r' = some .regained
      ∨ r.moveRequest c occupied x who = ⟨r', [], []⟩ ∧ proofChange r r' = none) := by
  have detected_iff : r.detected = some x ↔ r.detection = .at x := by
    unfold PointRec.detected
    cases r.detection <;> simp [Detection.position]
  by_cases at_ : r.detection = .at x
  · have detected := detected_iff.mpr at_
    refine ⟨{ r with commanded := some x, returnPending := false, returnPosition := none, lastResult := .achieved },
      ⟨rfl, rfl, rfl, fun elsewhere => absurd detected elsewhere⟩, .inl ⟨?_, ?_⟩⟩
    · unfold PointRec.moveRequest
      rw [rest]
      exact if_pos at_
    · have old : r.supervision = .unproven := by
        simp only [PointRec.supervision, rest, detected]
        exact if_neg (by simp [away])
      have new : ({ r with commanded := some x, returnPending := false, returnPosition := none, lastResult := .achieved } :
          PointRec).supervision = .proven := by
        simp only [PointRec.supervision, rest]
        exact if_pos (by simpa [PointRec.detected, PointRec.detection] using detected.symm)
      simp [proofChange, old, new]
  · have off : r.outputOff c = r := by simp [PointRec.outputOff, PointRec.output, rest]
    let r₁ : PointRec := { r with
      commanded := some x, returnPosition := r.detected, returnPending := false, throwTimer := none
      overCurrentTimer := none, requesters := [who], lastResult := r.lastResult, drive := .dead x .throw }
    have waits (r' : PointRec) (drive : r'.drive ≠ .rest) (down : r'.supervision = .unproven) : proofChange r r' = none := by
      unfold proofChange
      rw [down]
      split
      · rfl
      · rw [if_neg (by decide), if_neg (by decide), if_neg fun h => drive h.2]
    have began : r.moveRequest c occupied x who =
        if r₁.lockedToward (otherPosition x) || occupied then ⟨r₁, [], []⟩
        else ⟨{ r₁ with drive := .throwing x }.startTimers c, [], []⟩ := by
      unfold PointRec.moveRequest
      rw [rest]
      refine (if_neg at_).trans ?_
      unfold PointRec.beginMove
      dsimp only
      rw [off, idle, if_pos rfl]
      exact if_neg at_
    by_cases held : (r₁.lockedToward (otherPosition x) || occupied) = true
    · exact ⟨r₁, ⟨rfl, rfl, rfl, fun _ => ⟨rfl, rfl⟩⟩, .inr ⟨began.trans (if_pos held), waits r₁ (by simp [r₁]) rfl⟩⟩
    · exact ⟨{ r₁ with drive := .throwing x }.startTimers c, ⟨rfl, rfl, rfl, fun _ => ⟨rfl, rfl⟩⟩,
        .inr ⟨began.trans (if_neg held), waits _ (by simp [PointRec.startTimers]) rfl⟩⟩

/-- A call writes the point, and tells what follows from it (R40, R48, R49). -/
theorem movePoint_calls (rest : w.st.points[p].drive = .rest) (idle : w.st.points[p].requesters = [])
    (away : w.st.points[p].commanded ≠ some x) : ∃ r' told, Calls who x w.st.points[p] r'
      ∧ w.movePoint p x who = { w with st := w.st.setPoint p r', out := w.out ++ told }
      ∧ (told = [] ∨ told = .result p who .achieved :: proofTasks p r' .regained) := by
  obtain ⟨r', calls, ⟨step, change⟩ | ⟨step, change⟩⟩ := moveRequest_calls (who := who) (c := w.st.pointCfg p)
    (occupied := w.st.pointOccupied p) rest idle away
  · refine ⟨r', _, calls, ?_, .inr rfl⟩
    rw [Work.movePoint, step, Work.takePoint]
    dsimp only
    rw [change]
    simp
  · refine ⟨r', _, calls, ?_, .inl rfl⟩
    rw [Work.movePoint, step, Work.takePoint]
    dsimp only
    rw [change]
    simp

end

/-! ## FLANK CLAIM and FLANK RELEASE (R147, R150) -/

section
variable {s : State} {w : Work} {p : Fin 8} {ref : RouteRef} {state : Required} {tag : Byte} {source : Nat} {role : Role} {e : Elem}

/-- The proof of a claimed element is told once, or nothing is done (R149). -/
theorem assessClaim_cases (room : w.said.contains (ref, some e) = true ∨ w.st.sendQueue.length < 32) :
    w.assessClaim ref e = w ∨ ∃ tag, w.assessClaim ref e =
      { w with
        st := (w.st.changeClaimed ref e fun c => { c with mark := .proven }).placing ref.station
          (.proven tag ref (some (elemNumber e)))
        said := (ref, some e) :: w.said } := by
  unfold Work.assessClaim
  split
  · next c _ =>
    split
    · next told =>
      have fresh : w.said.contains (ref, some e) = false := by
        rw [Bool.and_eq_true, Bool.not_eq_true'] at told
        exact told.2
      exact .inr ⟨c.tag, postProof_places (room.resolve_left (Bool.eq_false_iff.mp fresh))⟩
    · exact .inl rfl
  · exact .inl rfl

/-- What is claimed of a point is written to the point: it joins what is in flight, or is called (R10, R17). -/
theorem grantClaim_points (position : (requiredPosition state).isSome = true)
    (callable : w.st.points[p].commanded = requiredPosition state ∨ w.st.points[p].drive = .rest ∧ w.st.points[p].requesters = [])
    (alone : w.st.points[p].commanded ≠ requiredPosition state → w.st.points[p].lock = none ∧ w.st.points[p].claims = []) :
    ∃ r told, w.grantClaim ref (.points p) state = { w with st := w.st.setPoint p r, out := w.out ++ told }
      ∧ r.claims = addClaimIn ref state w.st.points[p].claims ∧ r.commanded = requiredPosition state
      ∧ (w.st.points[p].commanded = requiredPosition state → r.drive = w.st.points[p].drive)
      ∧ (w.st.points[p].commanded ≠ requiredPosition state → w.st.points[p].detected ≠ requiredPosition state →
          r.drive.target = requiredPosition state ∧ r.requesters = [.claimant ref])
      ∧ ∀ x ∈ told, x = .result p (.claimant ref) .achieved ∨ x = .proofToClaimant p ref .regained := by
  obtain ⟨x, needed⟩ := Option.isSome_iff_exists.mp position
  unfold Work.grantClaim
  dsimp only
  by_cases there : w.st.points[p].commanded = requiredPosition state
  · rw [if_pos there]
    obtain ⟨rs, joined⟩ := joinInPosition_eq (.claimant ref)
      { w.st.points[p] with claims := addClaimIn ref state w.st.points[p].claims }
    rw [joined]
    exact ⟨{ w.st.points[p] with claims := addClaimIn ref state w.st.points[p].claims, requesters := rs }, [],
      by rw [List.append_nil]; rfl, rfl, there, fun _ => rfl, fun away => absurd there away, fun x known => nomatch known⟩
  · rw [if_neg there, needed]
    dsimp only
    obtain ⟨rest, idle⟩ := callable.resolve_left there
    obtain ⟨lock, claims⟩ := alone there
    let w' := w.on (·.setPoint p { w.st.points[p] with claims := addClaimIn ref state w.st.points[p].claims })
    have point : w'.st.points[p] = { w.st.points[p] with claims := addClaimIn ref state w.st.points[p].claims } := by simp [w']
    obtain ⟨r, told, calls, moved, tasks⟩ := movePoint_calls (w := w') (p := p) (x := x) (who := .claimant ref)
      (by rw [point]; exact rest) (by rw [point]; exact idle) (by rw [point]; exact needed ▸ there)
    refine ⟨r, told, moved.trans ?_, by rw [calls.claims, point], calls.commanded, fun same => absurd same (needed ▸ there),
      fun _ away => calls.moves (by rw [point]; exact away), ?_⟩
    · simp [w', Work.on, State.setPoint]
    · have alone : r.claims = [⟨ref, state, 1⟩] := by rw [calls.claims, point, claims]; rfl
      have unlocked : r.lock = none := by rw [calls.lock, point]; exact lock
      rcases tasks with rfl | rfl
      · exact fun y known => nomatch known
      · simp [proofTasks, alone, unlocked]

/-- The entry that a first claim makes (R148). -/
def claimEntry (ref : RouteRef) (p : Fin 8) (state : Required) (tag : Byte) (mark : ProofMark) : RegisterEntry :=
  ⟨ref, .active, [⟨.points p, state, tag, mark⟩]⟩

theorem registerClaim_first (fresh : s.registered ref = none) : s.registerClaim ref (.points p) state tag =
    s.registering (s.register ++ [claimEntry ref p state tag .none]) := by
  unfold State.registerClaim
  rw [fresh]
  rfl

/-- The state that a granted claim of a point leaves (R147, R148). -/
def State.claiming (s : State) (source : Nat) (tag : Byte) (ref : RouteRef) (p : Fin 8) (state : Required) (r : PointRec)
    (index : Nat) : State :=
  { s with
    points := s.points.set p r
    register := s.register ++ [claimEntry ref p state tag .none]
    sendQueue := s.sendQueue ++ [placed source (.flankAnswer tag ref none index [(16 + p.val, none)])]
    fresh := s.fresh + 1 }

theorem placing_eq (s : State) (dest : Nat) (body : Body) :
    s.placing dest body = { s with sendQueue := s.sendQueue ++ [placed dest body] } := rfl

section
variable (source : Nat) (tag : Byte) (ref : RouteRef) (p : Fin 8) (state : Required) (r : PointRec) (index : Nat)

@[simp] theorem claiming_resetHeld (s : State) :
    (s.claiming source tag ref p state r index).resetHeld = s.resetHeld := rfl
@[simp] theorem claiming_service (s : State) :
    (s.claiming source tag ref p state r index).service = s.service := rfl
@[simp] theorem claiming_address (s : State) :
    (s.claiming source tag ref p state r index).address = s.address := rfl
@[simp] theorem claiming_cfg (s : State) :
    (s.claiming source tag ref p state r index).cfg = s.cfg := rfl
@[simp] theorem claiming_sections (s : State) :
    (s.claiming source tag ref p state r index).sections = s.sections := rfl
@[simp] theorem claiming_signals (s : State) :
    (s.claiming source tag ref p state r index).signals = s.signals := rfl
@[simp] theorem claiming_boundaries (s : State) :
    (s.claiming source tag ref p state r index).boundaries = s.boundaries := rfl
@[simp] theorem claiming_instances (s : State) :
    (s.claiming source tag ref p state r index).instances = s.instances := rfl
@[simp] theorem claiming_reservations (s : State) :
    (s.claiming source tag ref p state r index).reservations = s.reservations := rfl
@[simp] theorem claiming_recvQueue (s : State) :
    (s.claiming source tag ref p state r index).recvQueue = s.recvQueue := rfl
@[simp] theorem claiming_requests (s : State) :
    (s.claiming source tag ref p state r index).requests = s.requests := rfl
@[simp] theorem claiming_peers (s : State) :
    (s.claiming source tag ref p state r index).peers = s.peers := rfl
@[simp] theorem claiming_counts (s : State) :
    (s.claiming source tag ref p state r index).counts = s.counts := rfl
@[simp] theorem claiming_agenda (s : State) :
    (s.claiming source tag ref p state r index).agenda = s.agenda := rfl
@[simp] theorem claiming_sendQueue (s : State) : (s.claiming source tag ref p state r index).sendQueue =
    s.sendQueue ++ [placed source (.flankAnswer tag ref none index [(16 + p.val, none)])] := rfl
@[simp] theorem claiming_register (s : State) : (s.claiming source tag ref p state r index).register =
    s.register ++ [claimEntry ref p state tag .none] := rfl
@[simp] theorem keep_claiming (u s : State) : u.keep (s.claiming source tag ref p state r index) =
    (u.keep s).claiming source tag ref p state r index := rfl
theorem claiming_point (s : State) : (s.claiming source tag ref p state r index).points[p] = r := by
  simp [State.claiming]

end

/-- A FLANK CLAIM of one point that is granted (R147). -/
theorem takeFlankClaim_points (accepted : w.st.claimRefusal source ref [⟨16 + p.val, role, state⟩] = none)
    (fresh : w.st.registered ref = none) (granted : w.st.claimVerdict ref (.points p) state = none)
    (room : w.st.sendQueue.length < 32) {r : PointRec} {told : List Task}
    (claims : w.grantClaim ref (.points p) state = { w with st := w.st.setPoint p r, out := w.out ++ told }) :
    ∃ index, w.takeFlankClaim source tag ref [⟨16 + p.val, role, state⟩] =
      { w with st := w.st.claiming source tag ref p state r index, out := w.out ++ told ++ [.assessClaim ref (.points p)] } := by
  have judged : Work.judgeClaim ref tag (w, []) ⟨16 + p.val, role, state⟩ =
      ({ w with
          st := (w.st.setPoint p r).registering (w.st.register ++ [claimEntry ref p state tag .none]), out := w.out ++ told },
        [(16 + p.val, none)]) := by
    unfold Work.judgeClaim
    dsimp only
    rw [elemOfNumber_points, State.activeClaims, fresh]
    dsimp only [Option.filter_none, Option.map_none, Option.getD_none, List.find?_nil]
    rw [if_neg (by decide), granted]
    dsimp only
    rw [claims]
    exact congrArg (fun s => ({ w with st := s, out := w.out ++ told }, _)) (registerClaim_first (s := w.st.setPoint p r) fresh)
  refine ⟨w.st.freeByte, ?_⟩
  unfold Work.takeFlankClaim
  rw [accepted]
  dsimp only
  rw [List.foldl_cons, List.foldl_nil, judged]
  dsimp only
  rw [postProof_places (by exact room)]
  dsimp only [Work.on]
  rw [placing_eq]
  simp only [List.filter_cons, List.filter_nil, Option.isNone_none, if_true, List.filterMap_cons, List.filterMap_nil,
    elemOfNumber_points, Option.map_some]
  rfl

/-- What the telling of a claim's grant keeps: the claim, the register's entry, and the answer placed. -/
structure ClaimKept (s u : State) (source index : Nat) (tag : Byte) (ref : RouteRef) (p : Fin 8) (state : Required) (w : Work) :
    Prop where
  returns : w.returns = []
  address : w.st.address = s.address
  points : w.st.points = u.points
  sections : w.st.sections = s.sections
  signals : w.st.signals = s.signals
  instances : w.st.instances = s.instances
  entry : ∃ mark, w.st.registered ref = some (claimEntry ref p state tag mark)
  sent : ∃ more, w.st.sendQueue =
    s.sendQueue ++ placed source (.flankAnswer tag ref none index [(16 + p.val, none)]) :: more
  room : w.said.contains (ref, some (.points p)) = true ∨ w.st.sendQueue.length < 32

/-- The tasks of a granted claim. -/
def ofClaim (ref : RouteRef) (p : Fin 8) (x : Task) : Prop :=
  x = .result p (.claimant ref) .achieved ∨ x = .proofToClaimant p ref .regained ∨ x = .assessClaim ref (.points p)

theorem take_ofClaim {x : Task} (claim : ofClaim ref p x) (other : ref.station ≠ w.st.own) :
    w.take x = w.assessClaim ref (.points p) := by
  rcases claim with rfl | rfl | rfl
  · show w.tellClaimant p ref .achieved = _
    unfold Work.tellClaimant
    exact (if_neg other).trans (if_neg (by decide))
  · show w.tellClaimantProof p ref .regained = _
    unfold Work.tellClaimantProof
    exact if_neg other
  · rfl

theorem changeClaimed_entry {mark : ProofMark} (found : s.registered ref = some (claimEntry ref p state tag mark)) :
    (s.changeClaimed ref (.points p) fun c => { c with mark := .proven }).registered ref =
      some (claimEntry ref p state tag .proven) := by
  refine (find_map s.register ref _ (key := (·.ref)) fun x => ?_).trans ?_
  · dsimp only
    split <;> rfl
  rw [show s.register.find? (fun y => y.ref == ref) = some (claimEntry ref p state tag mark) from found]
  simp [claimEntry]

theorem ClaimKept.assess {u : State} {index : Nat} (h : ClaimKept s u source index tag ref p state w) :
    ClaimKept s u source index tag ref p state (w.assessClaim ref (.points p)) ∧
      (w.assessClaim ref (.points p)).out = w.out := by
  rcases assessClaim_cases (e := .points p) h.room with same | ⟨tag', told⟩
  · rw [same]
    exact ⟨h, rfl⟩
  · rw [told]
    obtain ⟨mark, entry⟩ := h.entry
    obtain ⟨more, sent⟩ := h.sent
    refine ⟨⟨h.returns, h.address, h.points, h.sections, h.signals, h.instances, ⟨_, changeClaimed_entry entry⟩,
      ⟨more ++ [placed ref.station (.proven tag' ref (some (elemNumber (.points p))))], ?_⟩, .inl (by simp)⟩, rfl⟩
    show w.st.sendQueue ++ _ = _
    rw [sent]
    simp

end

section
variable {s : State} {p : Fin 8} {ref : RouteRef} {state : Required} {source : Nat} {role : Role}

/-- A claim of a point that is not refused as a whole comes from its route's station and asks for a position (R147). -/
theorem claimRefusal_points (accepted : s.claimRefusal source ref [⟨16 + p.val, role, state⟩] = none) :
    ref.station = source ∧ (requiredPosition state).isSome = true := by
  unfold State.claimRefusal at accepted
  split at accepted
  · exact nomatch accepted
  · split at accepted
    · exact nomatch accepted
    · next from_ =>
      refine ⟨not_not.mp from_, ?_⟩
      split at accepted
      · exact nomatch accepted
      · split at accepted
        · exact nomatch accepted
        · split at accepted
          · exact nomatch accepted
          · unfold State.claimSetFault at accepted
            rw [elemOfNumber_points] at accepted
            dsimp only at accepted
            split at accepted
            · exact nomatch accepted
            · cases state with
              | normal => rfl
              | reverse => rfl
              | clear => exact absurd accepted (by simp)
              | stop => exact absurd accepted (by simp)
              | out => exact absurd accepted (by simp)

/-- A granted claim elsewhere finds the point without lock and claims (R17). -/
theorem claimVerdict_alone (granted : s.claimVerdict ref (.points p) state = none)
    (away : s.points[p].commanded ≠ requiredPosition state) : s.points[p].lock = none ∧ s.points[p].claims = [] := by
  unfold State.claimVerdict at granted
  dsimp only at granted
  rw [if_neg away] at granted
  split at granted
  · exact nomatch granted
  · next unlocked =>
    split at granted
    · exact nomatch granted
    · next unclaimed =>
      simp only [Option.isSome_iff_ne_none, ne_eq, not_not] at unlocked
      exact ⟨unlocked, by simpa using unclaimed⟩

end

/-- The register without an element of an entry, which ends when it lists none (R148). -/
def unregistered (ref : RouteRef) (e : Elem) (rs : List RegisterEntry) : List RegisterEntry :=
  (rs.map fun r => if r.ref = ref then { r with elems := r.elems.filter (·.elem != e) } else r).filter
    fun r => !(r.ref == ref && r.elems.isEmpty)

section
variable {rs : List RegisterEntry} {ref : RouteRef} {e : Elem} {r : RegisterEntry}

theorem find_unregistered (unique : (rs.map (·.ref)).Nodup) (found : rs.find? (fun x => x.ref == ref) = some r) :
    ((unregistered ref e rs).find? fun x => x.ref == ref) =
      if (r.elems.filter (·.elem != e)).isEmpty then none else some { r with elems := r.elems.filter (·.elem != e) } := by
  have named : r.ref = ref := by simpa using List.find?_some found
  let f := fun x : RegisterEntry => if x.ref = ref then { x with elems := x.elems.filter (·.elem != e) } else x
  have same (x : RegisterEntry) : (f x).ref = x.ref := by
    dsimp only [f]
    split <;> rfl
  have changed := find_map rs ref f (key := (·.ref)) same
  rw [found, Option.map_some] at changed
  have refs : ((rs.map f).map (·.ref)).Nodup := by
    rw [List.map_map]
    exact (List.map_congr_left fun x _ => same x) ▸ unique
  refine (find_filter (fun x => !(x.ref == ref && x.elems.isEmpty)) refs changed).trans ?_
  simp only [f, if_pos named]
  rw [named]
  by_cases empty : (r.elems.filter (·.elem != e)).isEmpty = true
  · simp [empty]
  · simp [empty]

theorem find_unregistered_other {other : RouteRef} (apart : other ≠ ref) :
    ((unregistered ref e rs).find? fun x => x.ref == other) = rs.find? fun x => x.ref == other := by
  unfold unregistered
  rw [List.find?_filter, List.find?_map]
  have same : ((fun x : RegisterEntry => decide ((!(x.ref == ref && x.elems.isEmpty)) = true ∧ (x.ref == other) = true)) ∘
      fun r => if r.ref = ref then { r with elems := r.elems.filter (·.elem != e) } else r) = fun x => x.ref == other := by
    funext x
    dsimp only [Function.comp]
    split
    next is => simp [is, apart.symm]
    next isnt => rw [Bool.eq_iff_iff]; simp [isnt]
  rw [same]
  cases found : rs.find? fun x => x.ref == other with
  | none => rfl
  | some x =>
    have named : x.ref = other := by simpa using List.find?_some found
    rw [Option.map_some, if_neg (named ▸ apart)]

end

/-- Settles O32: what a grant tells is told once, and changes the entry's mark alone. -/
theorem flankClaimEntersAndReleaseFrees : Obligations.FlankClaimEntersAndReleaseFrees := by
  refine ⟨?_, ?_⟩
  · intro s source tag ref p role state rest ready hands accepted fresh granted other callable room
    obtain ⟨station, position⟩ := claimRefusal_points accepted
    obtain ⟨x, -, done⟩ := exec_hands (c := .flankClaim) rfl hands
    let w := Work.begin (s.taking x rest)
    obtain ⟨r, told, claims, added, commanded, stays, moves, tasks⟩ := grantClaim_points (w := w) (p := p) (ref := ref) position
      (callable p (elemOfNumber_points p)) (claimVerdict_alone granted)
    obtain ⟨index, taken⟩ := takeFlankClaim_points (w := w) (tag := tag) accepted fresh granted (by show s.sendQueue.length < 32; omega) claims
    let u := (s.taking x rest).claiming source tag ref p state r index
    have far (w : Work) (same : w.st.address = s.address) : ref.station ≠ w.st.own := by
      rw [own_of_address same, station]
      exact other
    have reached : ClaimKept s u source index tag ref p state (w.takeFlankClaim source tag ref [⟨16 + p.val, role, state⟩]) := by
      rw [taken]
      refine ⟨rfl, by simp [w], rfl, by simp [w], by simp [w], by simp [w], ⟨.none, ?_⟩, ⟨[], by simp [w]⟩, .inr ?_⟩
      · unfold State.registered
        rw [claiming_register, List.find?_append, show w.st.register.find? (fun y => y.ref == ref) = none from fresh]
        simp [claimEntry]
      · rw [claiming_sendQueue, List.length_append]
        show s.sendQueue.length + 1 < 32
        omega
    have place (w : Work) (h : ClaimKept s u source index tag ref p state w) :
        ClaimKept s u source index tag ref p state { w.on (State.placeChanged { s with recvQueue := rest }) with out := [] } := by
      have reported : w.on (State.placeChanged { s with recvQueue := rest }) =
          w.reporting (State.placeChanged { s with recvQueue := rest } w.st).reports :=
        congrArg (fun t : State => { w with st := t }) (placeChanged_same _ _)
      rw [reported]
      exact ⟨h.returns, h.address, h.points, h.sections, h.signals, h.instances, h.entry, h.sent, h.room⟩
    have step (w : Work) (y : Task) (claim : ofClaim ref p y) (h : ClaimKept s u source index tag ref p state w) (quiet : w.out = []) :
        ClaimKept s u source index tag ref p state (w.take y) ∧ ∀ z ∈ (w.take y).out, ofClaim ref p z := by
      rw [take_ofClaim claim (far w h.address)]
      refine ⟨h.assess.1, ?_⟩
      rw [h.assess.2, quiet]
      exact fun z known => nomatch known
    have all : ∀ y ∈ (w.takeFlankClaim source tag ref [⟨16 + p.val, role, state⟩]).out, ofClaim ref p y := by
      rw [taken]
      intro y known
      rcases List.mem_append.mp known with call | own
      · exact (tasks y call).imp id .inl
      · exact .inr (.inr (List.mem_singleton.mp own))
    obtain ⟨w', left, v, ended, noted, kept⟩ := event_invariant (before := s) (start := { s with recvQueue := rest })
      (work := fun _ => w.takeFlankClaim source tag ref [⟨16 + p.val, role, state⟩]) ready rfl all reached place step
        fun w h => h.returns
    refine .of_noted (b := State.keep { s with recvQueue := rest } { w'.st with agenda := left })
      ⟨v, done.trans ended, noted⟩ fun n after => ?_
    obtain ⟨mark, entry⟩ := kept.entry
    obtain ⟨more, sent⟩ := kept.sent
    obtain ⟨more', sent'⟩ := after.sent
    have point : w'.st.points[p] = r := by rw [kept.points]; exact claiming_point ..
    refine ⟨rfl, (congrArg PointRec.claims point).trans added, ⟨(congrArg PointRec.commanded point).trans commanded,
      fun away elsewhere => ?_⟩, fun there => (congrArg PointRec.drive point).trans (stays there), kept.sections, kept.signals,
      kept.instances, ⟨mark, entry⟩, index, more ++ more', ?_⟩
    · show w'.st.points[p].drive.target = _ ∧ w'.st.points[p].requesters = _
      rw [point]
      exact moves away elsewhere
    · show n.sendQueue = _
      rw [sent']
      show w'.st.sendQueue ++ more' = _
      rw [sent]
      simp
  · intro s tag ref p r rest ready hands unique found active listed
    have freed (x : RawTelegram) : (Work.begin (s.taking x rest)).takeFlankRelease ref.station tag ref [16 + p.val] =
        Work.begin (((s.taking x rest).setPoint p (s.points[p].dropClaim ref)).registering
          (unregistered ref (.points p) s.register)) := by
      unfold Work.takeFlankRelease State.activeClaims
      rw [if_neg (not_not_intro rfl), List.foldl_cons, List.foldl_nil, elemOfNumber_points,
        show (Work.begin (s.taking x rest)).st.registered ref = some r from found, Option.filter_some, if_pos (by simp [active])]
      dsimp only
      rw [if_pos listed]
      rfl
    refine .of_hands rfl ready hands (fun x => ((s.taking x rest).setPoint p (s.points[p].dropClaim ref)).registering
      (unregistered ref (.points p) s.register)) (fun x => .of_eq (freed x)) (fun x => by simp) (fun x => by simp) fun x n _ => ?_
    refine ⟨by simp, ?_, ?_, fun other apart => find_unregistered_other apart, by simp, by simp, by simp⟩
    · simp [dropClaim_claims]
    · refine (congrArg (Option.map (·.elems)) (find_unregistered unique found)).trans ?_
      dsimp only
      split <;> rfl

end Sys2Proof.Machine
end

section
/-! PROOFS. Requirement sets written as route locks, and RESERVE (O30). -/

namespace Sys2Proof.Machine

/-! ## The locks of an admitted set (R14) -/

/-- The record of an element is as it was. -/
def State.sameAt (t s : State) : Elem → Prop
  | .track i => t.sections[i] = s.sections[i]
  | .points p => t.points[p] = s.points[p]
  | .signal g => t.signals[g] = s.signals[g]
  | .boundary _ => True

theorem State.sameAt.trans {s t u : State} {e : Elem} (h : t.sameAt s e) (k : u.sameAt t e) : u.sameAt s e := by
  cases e with
  | track i => exact Eq.trans k h
  | points p => exact Eq.trans k h
  | signal g => exact Eq.trans k h
  | boundary b => trivial

theorem State.sameAt.lockOf {s t : State} {e : Elem} (h : t.sameAt s e) : t.lockOf e = s.lockOf e := by
  cases e with
  | track i => exact congrArg SectionRec.lock h
  | points p => exact congrArg PointRec.lock h
  | signal g => exact congrArg SignalRec.lock h
  | boundary b => rfl

/-- The state with the records of sections, points and signals written. -/
def State.recording (s : State) (secs : Vector SectionRec 16) (pts : Vector PointRec 8) (sigs : Vector SignalRec 8) : State :=
  { s with sections := secs, points := pts, signals := sigs }

/-- Of sections and signals the locks alone have changed. -/
structure State.relocked (t s : State) : Prop where
  sections : ∀ i : Fin 16, ∃ l, t.sections[i] = { s.sections[i] with lock := l }
  signals : ∀ g : Fin 8, ∃ l, t.signals[g] = { s.signals[g] with lock := l }

theorem State.relocked.refl (s : State) : s.relocked s := ⟨fun i => ⟨s.sections[i].lock, rfl⟩, fun g => ⟨s.signals[g].lock, rfl⟩⟩

theorem State.relocked.trans {s t u : State} (h : t.relocked s) (k : u.relocked t) : u.relocked s := by
  refine ⟨fun i => ?_, fun g => ?_⟩
  · obtain ⟨l, first⟩ := h.sections i
    obtain ⟨m, second⟩ := k.sections i
    exact ⟨m, by rw [second, first]⟩
  · obtain ⟨l, first⟩ := h.signals g
    obtain ⟨m, second⟩ := k.signals g
    exact ⟨m, by rw [second, first]⟩

/-- A point that a requirement names is unlocked, and in position or at REST with no one waiting for it. -/
def LockReq.admitted (s : State) (q : LockReq) : Prop :=
  ∀ p, elemOfNumber q.elem = some (.points p) → (requiredPosition q.state).isSome = true ∧ s.points[p].lock = none
    ∧ (s.points[p].commanded = requiredPosition q.state ∨ s.points[p].drive = .rest ∧ s.points[p].requesters = [])
    ∧ (s.points[p].commanded ≠ requiredPosition q.state → s.points[p].claims = [])

/-- The requirement's lock is in place, and its point has been called. -/
structure LockReq.written (ref : RouteRef) (s t : State) (q : LockReq) (e : Elem) : Prop where
  lock : q.role ≠ .exit → (∀ b, e ≠ .boundary b) →
    ∃ l, t.lockOf e = some l ∧ l.ref = ref ∧ l.role = q.role ∧ l.releasePending = false
  called : ∀ p, e = .points p → t.called s p q.state (.holder ref)

/-- What a point called for a route tells its holder. -/
def ofCall (ref : RouteRef) (x : Task) : Prop :=
  ∃ p, x = .result p (.holder ref) .achieved ∨ x = .proofToHolder p ref .regained

section
variable {w : Work} {ref : RouteRef} {q : LockReq} {p : Fin 8}

theorem set_own {α : Type} {n : Nat} (v : Vector α n) (i : Fin n) (x : α) : (v.set i x)[i] = x := by simp

theorem set_other {α : Type} {n : Nat} (v : Vector α n) {i j : Fin n} (x : α) (apart : j ≠ i) : (v.set i x)[j] = v[j] :=
  Vector.getElem_set_ne i.isLt j.isLt fun same => apart (Fin.ext same.symm)

/-- A point is locked, and joined or called (R14, R39). -/
theorem writeLock_points (named : elemOfNumber q.elem = some (.points p)) (admitted : q.admitted w.st) :
    ∃ r told, w.writeLock ref q = { w with st := w.st.setPoint p r, out := w.out ++ told }
      ∧ r.lock = some ⟨ref, q.role, requiredPosition q.state, false⟩ ∧ r.commanded = requiredPosition q.state
      ∧ (w.st.points[p].commanded ≠ requiredPosition q.state → w.st.points[p].detected ≠ requiredPosition q.state →
          r.drive.target = requiredPosition q.state ∧ r.requesters = [.holder ref])
      ∧ (∀ x ∈ told, ofCall ref x) ∧ told.length ≤ 2 := by
  obtain ⟨position, unlocked, callable, alone⟩ := admitted p named
  obtain ⟨x, needed⟩ := Option.isSome_iff_exists.mp position
  unfold Work.writeLock
  rw [named]
  dsimp only
  rw [unlocked]
  dsimp only
  by_cases there : w.st.points[p].commanded = requiredPosition q.state
  · rw [if_pos there]
    obtain ⟨rs, joined⟩ := joinInPosition_eq (.holder ref) { w.st.points[p] with
      lock := some ⟨ref, q.role, requiredPosition q.state, false⟩ }
    refine ⟨{ w.st.points[p] with lock := some ⟨ref, q.role, requiredPosition q.state, false⟩, requesters := rs }, [], ?_, rfl,
      there, fun away => absurd there away, (fun _ known => nomatch known), Nat.zero_le 2⟩
    rw [List.append_nil]
    exact congrArg (fun r => w.on (·.setPoint p r)) joined
  · rw [if_neg there, needed]
    dsimp only
    obtain ⟨rest, idle⟩ := callable.resolve_left there
    let w' := w.on (·.setPoint p { w.st.points[p] with lock := some ⟨ref, q.role, some x, false⟩ })
    have point : w'.st.points[p] = { w.st.points[p] with lock := some ⟨ref, q.role, some x, false⟩ } := by simp [w']
    obtain ⟨r, told, calls, moved, tasks⟩ := movePoint_calls (w := w') (p := p) (x := x) (who := .holder ref)
      (by rw [point]; exact rest) (by rw [point]; exact idle) (by rw [point]; exact needed ▸ there)
    refine ⟨r, told, moved.trans ?_, by rw [calls.lock, point], calls.commanded,
      fun _ away => calls.moves (by rw [point]; exact away), ?_⟩
    · simp [w', Work.on, State.setPoint]
    · have unclaimed : r.claims = [] := by rw [calls.claims, point]; exact alone there
      have locked : r.lock = some ⟨ref, q.role, some x, false⟩ := by rw [calls.lock, point]
      rcases tasks with rfl | rfl
      · exact ⟨(fun _ known => nomatch known), Nat.zero_le 2⟩
      · refine ⟨fun y known => ?_, by simp [proofTasks, unclaimed, locked]⟩
        simp only [proofTasks, unclaimed, locked, List.map_nil, List.append_nil, List.mem_cons, List.not_mem_nil, or_false] at known
        exact ⟨p, known⟩

/-- One requirement is written at its own element (R14, R15). -/
theorem writeLock_writes {e : Elem} (named : elemOfNumber q.elem = some e) (admitted : q.admitted w.st) :
    ∃ secs pts sigs told, w.writeLock ref q = { w with st := w.st.recording secs pts sigs, out := w.out ++ told }
      ∧ (∀ f, f ≠ e → (w.st.recording secs pts sigs).sameAt w.st f)
      ∧ q.written ref w.st (w.st.recording secs pts sigs) e ∧ (∀ x ∈ told, ofCall ref x) ∧ told.length ≤ 2
      ∧ (w.st.recording secs pts sigs).relocked w.st := by
  cases e with
  | track i =>
    refine ⟨w.st.sections.set i { w.st.sections[i] with lock := some ⟨ref, q.role, none, false⟩ }, w.st.points, w.st.signals, [],
      ?_, ?_, ⟨fun _ _ => ⟨⟨ref, q.role, none, false⟩, ?_, rfl, rfl, rfl⟩, fun p is => nomatch is⟩, (fun _ known => nomatch known),
      Nat.zero_le 2, fun j => ?_, (State.relocked.refl w.st).signals⟩
    · unfold Work.writeLock
      rw [named, List.append_nil]
      rfl
    · intro f apart
      cases f with
      | track j => exact set_other _ _ fun same => apart (congrArg Elem.track same)
      | points p => rfl
      | signal g => rfl
      | boundary b => trivial
    · exact congrArg SectionRec.lock (set_own ..)
    · rcases eq_or_ne j i with rfl | apart
      · exact ⟨_, set_own ..⟩
      · exact ⟨w.st.sections[j].lock, set_other _ _ apart⟩
  | points p =>
    obtain ⟨r, told, wrote, locked, commanded, moves, tasks, few⟩ := writeLock_points named admitted
    have point : (w.st.points.set p r)[p] = r := set_own ..
    refine ⟨w.st.sections, w.st.points.set p r, w.st.signals, told, wrote, ?_,
      ⟨fun _ _ => ⟨_, (congrArg PointRec.lock point).trans locked, rfl, rfl, rfl⟩, ?_⟩, tasks, few,
      (State.relocked.refl w.st).sections, (State.relocked.refl w.st).signals⟩
    · intro f apart
      cases f with
      | track i => rfl
      | points k => exact set_other _ _ fun same => apart (congrArg Elem.points same)
      | signal g => rfl
      | boundary b => trivial
    · rintro k is
      obtain rfl : p = k := Elem.points.inj is
      refine ⟨(congrArg PointRec.commanded point).trans commanded, fun away elsewhere => ?_⟩
      show (w.st.points.set p r)[p].drive.target = _ ∧ (w.st.points.set p r)[p].requesters = _
      rw [point]
      exact moves away elsewhere
  | signal g =>
    by_cases exits : q.role = .exit
    · refine ⟨w.st.sections, w.st.points, w.st.signals, [], ?_, fun f _ => ?_,
        ⟨fun other => absurd exits other, fun p is => nomatch is⟩, (fun _ known => nomatch known), Nat.zero_le 2, .refl w.st⟩
      · unfold Work.writeLock
        rw [named, List.append_nil]
        exact if_pos exits
      · cases f <;> trivial
    · refine ⟨w.st.sections, w.st.points, w.st.signals.set g { w.st.signals[g] with lock := some ⟨ref, q.role, none, false⟩ }, [],
        ?_, ?_, ⟨fun _ _ => ⟨⟨ref, q.role, none, false⟩, ?_, rfl, rfl, rfl⟩, fun p is => nomatch is⟩, (fun _ known => nomatch known),
        Nat.zero_le 2, (State.relocked.refl w.st).sections, fun k => ?_⟩
      · unfold Work.writeLock
        rw [named, List.append_nil]
        exact if_neg exits
      · intro f apart
        cases f with
        | track i => rfl
        | points p => rfl
        | signal k => exact set_other _ _ fun same => apart (congrArg Elem.signal same)
        | boundary b => trivial
      · exact congrArg SignalRec.lock (set_own ..)
      · rcases eq_or_ne k g with rfl | apart
        · exact ⟨_, set_own ..⟩
        · exact ⟨w.st.signals[k].lock, set_other _ _ apart⟩
  | boundary b =>
    refine ⟨w.st.sections, w.st.points, w.st.signals, [], ?_, fun f _ => ?_,
      ⟨fun _ other => absurd rfl (other b), fun p is => nomatch is⟩, (fun _ known => nomatch known), Nat.zero_le 2, .refl w.st⟩
    · unfold Work.writeLock
      rw [named, List.append_nil]
      rfl
    · cases f <;> trivial

theorem LockReq.written.kept {s t u : State} {e : Elem} (h : q.written ref s t e) (same : u.sameAt t e) :
    q.written ref s u e := by
  refine ⟨fun locks inside => ?_, fun p is => ?_⟩
  · obtain ⟨l, lock, rest⟩ := h.lock locks inside
    exact ⟨l, same.lockOf.trans lock, rest⟩
  · subst is
    have point : u.points[p] = t.points[p] := same
    unfold State.called
    rw [point]
    exact h.called p rfl

theorem LockReq.written.since {s t u : State} {e : Elem} (h : q.written ref t u e) (same : t.sameAt s e) :
    q.written ref s u e := by
  refine ⟨h.lock, fun p is => ?_⟩
  subst is
  have point : t.points[p] = s.points[p] := same
  unfold State.called
  rw [← point]
  exact h.called p rfl

theorem LockReq.admitted.since {s t : State} (h : q.admitted s) (same : ∀ e, elemOfNumber q.elem = some e → t.sameAt s e) :
    q.admitted t := by
  intro p named
  have point : t.points[p] = s.points[p] := same _ named
  rw [point]
  exact h p named

/-- The requirements of a set, each on an element of its own, are written at their elements (R14). -/
theorem writeLocks_writes {qs : List LockReq} {w : Work} (named : ∀ q ∈ qs, (elemOfNumber q.elem).isSome = true)
    (apart : qs.Pairwise fun a b => elemOfNumber a.elem ≠ elemOfNumber b.elem) (admitted : ∀ q ∈ qs, q.admitted w.st) :
    ∃ secs pts sigs told, w.writeLocks ref qs = { w with st := w.st.recording secs pts sigs, out := w.out ++ told }
      ∧ (∀ f, (∀ q ∈ qs, elemOfNumber q.elem ≠ some f) → (w.st.recording secs pts sigs).sameAt w.st f)
      ∧ (∀ q ∈ qs, ∀ e, elemOfNumber q.elem = some e → q.written ref w.st (w.st.recording secs pts sigs) e)
      ∧ (∀ x ∈ told, ofCall ref x) ∧ told.length ≤ 2 * qs.length ∧ (w.st.recording secs pts sigs).relocked w.st := by
  induction qs generalizing w with
  | nil =>
    refine ⟨w.st.sections, w.st.points, w.st.signals, [], by rw [List.append_nil]; rfl, fun f _ => ?_, by simp, by simp,
      Nat.zero_le _, .refl w.st⟩
    cases f <;> trivial
  | cons q qs ih =>
    obtain ⟨e, element⟩ := Option.isSome_iff_exists.mp (named q List.mem_cons_self)
    obtain ⟨others, apart⟩ := List.pairwise_cons.mp apart
    obtain ⟨secs, pts, sigs, told, wrote, same, written, tasks, few, locks⟩ := writeLock_writes (ref := ref) element
      (admitted q List.mem_cons_self)
    have elsewhere (q' : LockReq) (known : q' ∈ qs) (e' : Elem) (element' : elemOfNumber q'.elem = some e') : e' ≠ e :=
      fun equal => others q' known (element.trans (equal ▸ element'.symm))
    obtain ⟨secs', pts', sigs', told', wrote', same', written', tasks', few', locks'⟩ := ih
      (w := { w with st := w.st.recording secs pts sigs, out := w.out ++ told })
      (fun q' known => named q' (List.mem_cons_of_mem q known)) apart fun q' known =>
        (admitted q' (List.mem_cons_of_mem q known)).since fun e' element' => same e' (elsewhere q' known e' element')
    refine ⟨secs', pts', sigs', told ++ told', ?_, fun f away => ?_, fun q' known e' element' => ?_, fun x known => ?_,
      ?_, locks.trans locks'⟩
    · show Work.writeLocks (w.writeLock ref q) ref qs = _
      rw [wrote, wrote', ← List.append_assoc]
      rfl
    · refine (same f fun equal => ?_).trans (same' f fun q' known => away q' (List.mem_cons_of_mem q known))
      exact away q List.mem_cons_self (element.trans (congrArg some equal.symm))
    · rcases List.mem_cons.mp known with rfl | known
      · obtain rfl : e = e' := Option.some.inj (element.symm.trans element')
        exact written.kept (same' e fun q'' known equal => elsewhere q'' known e equal rfl)
      · exact (written' q' known e' element').since (same e' (elsewhere q' known e' element'))
    · rcases List.mem_append.mp known with old | new
      · exact tasks x old
      · exact tasks' x new
    · rw [List.length_append, List.length_cons]
      omega

end

/-! ## What a judgement finds (R14, R15) -/

section
variable {s : State} {entry : Option (Fin 8)} {q : LockReq} {e : Elem} {seen : List Elem}

/-- What passes is equipped, fits its element, and names it first (R14). -/
theorem judgeOne_none (passes : s.judgeOne entry seen e q = none) :
    s.equipped e = true ∧ fits e q.role q.state = true ∧ e ∉ seen := by
  unfold State.judgeOne at passes
  split at passes
  · exact nomatch passes
  · next equipped =>
    split at passes
    · exact nomatch passes
    · next fit =>
      simp only [Bool.or_eq_true, Bool.not_eq_true', not_or, Bool.not_eq_false, List.contains_iff_mem] at fit
      exact ⟨by simpa using equipped, fit⟩

/-- A set that passes names elements, each of its own, and each requirement passes. -/
theorem judge_none {qs : List LockReq} (passes : s.judge entry seen qs = none) :
    (∀ q ∈ qs, ∃ e seen', elemOfNumber q.elem = some e ∧ s.judgeOne entry seen' e q = none ∧ e ∉ seen)
      ∧ qs.Pairwise fun a b => elemOfNumber a.elem ≠ elemOfNumber b.elem := by
  induction qs generalizing seen with
  | nil => exact ⟨by simp, .nil⟩
  | cons q qs ih =>
    unfold State.judge at passes
    cases named : elemOfNumber q.elem with
    | none =>
      rw [named] at passes
      exact nomatch passes
    | some e =>
      rw [named] at passes
      dsimp only at passes
      cases first : s.judgeOne entry seen e q with
      | some reason =>
        rw [first] at passes
        exact nomatch passes
      | none =>
        rw [first] at passes
        obtain ⟨each, apart⟩ := ih passes
        refine ⟨fun q' known => ?_, List.pairwise_cons.mpr ⟨fun q' known same => ?_, apart⟩⟩
        · rcases List.mem_cons.mp known with rfl | known
          · exact ⟨e, seen, named, first, (judgeOne_none first).2.2⟩
          · obtain ⟨e', seen', named', passes', fresh⟩ := each q' known
            exact ⟨e', seen', named', passes', fun old => fresh (List.mem_cons_of_mem e old)⟩
        · obtain ⟨e', seen', named', passes', fresh⟩ := each q' known
          rw [named, named'] at same
          exact fresh (Option.some.inj same ▸ List.mem_cons_self)

/-- A requirement on a point that passes asks for a position; the point is unlocked but for a takeover, and where it
stands elsewhere no claim holds it. -/
theorem judgeOne_points {p : Fin 8} (passes : s.judgeOne entry seen (.points p) q = none) :
    (requiredPosition q.state).isSome = true
      ∧ (s.takesOver entry (.points p) q = false → s.points[p].lock = none)
      ∧ (s.points[p].commanded ≠ requiredPosition q.state → s.points[p].claims = []) := by
  obtain ⟨-, fit, -⟩ := judgeOne_none passes
  have position : q.state = .normal ∨ q.state = .reverse := by
    unfold fits at fit
    cases role : q.role <;> simp [role] at fit <;> exact fit
  have checks : ((s.lockOf (.points p)).isSome && !s.takesOver entry (.points p) q) = false
      ∧ s.kindCheck (.points p) q = none := by
    unfold State.judgeOne at passes
    split at passes
    · exact nomatch passes
    · split at passes
      · exact nomatch passes
      · dsimp only at passes
        split at passes
        · exact nomatch passes
        · split at passes
          · exact nomatch passes
          · next unlocked =>
            split at passes
            · exact nomatch passes
            · exact ⟨Bool.eq_false_iff.mpr unlocked, passes⟩
  obtain ⟨locks, kind⟩ := checks
  refine ⟨by rcases position with is | is <;> rw [is] <;> rfl, fun own => ?_, fun away => ?_⟩
  · rw [own, Bool.not_false, Bool.and_true] at locks
    exact Option.isNone_iff_eq_none.mp (by simpa [State.lockOf] using locks)
  · unfold State.kindCheck at kind
    dsimp only at kind
    split at kind
    · exact nomatch kind
    · split at kind
      · exact nomatch kind
      · split at kind
        · exact nomatch kind
        · next unclaimed => simpa using unclaimed

end

/-! ## RESERVE (R97, R98) -/

section
variable {s : State} {w : Work} {ref : RouteRef} {tag : Byte} {source : Nat} {reqs : List WireReq}

/-- The proof of a reservation is told once, or nothing is done (R100). -/
theorem assessReservation_once (room : w.said.contains (ref, none) = true ∨ w.st.sendQueue.length < 32) :
    w.assessReservation ref = w ∨ ∃ tag, w.assessReservation ref =
      { w with
        st := (w.st.changeReservation ref fun r => { r with mark := .proven }).placing ref.station (.proven tag ref none)
        said := (ref, none) :: w.said } := by
  unfold Work.assessReservation
  split
  · next r _ =>
    split
    · next told =>
      have fresh : w.said.contains (ref, none) = false := by
        rw [Bool.and_eq_true, Bool.not_eq_true'] at told
        exact told.2
      exact .inr ⟨r.tag, postProof_places (room.resolve_left (Bool.eq_false_iff.mp fresh))⟩
    · exact .inl rfl
  · exact .inl rfl

/-- The entry of an admitted RESERVE (R98). -/
def reservedEntry (ref : RouteRef) (tag : Byte) (reqs : List WireReq) (mark : ProofMark) : Reservation :=
  ⟨ref, tag, lockedElems reqs, reservedExit reqs, mark, .active⟩

/-- The answer to an admitted RESERVE. -/
def grantedBody (tag : Byte) (ref : RouteRef) (reqs : List WireReq) (index : Nat) : Body :=
  .reserveAnswer tag ref none index ((lockedElems reqs).map fun x => elemNumber x.elem)

/-- The state that an admitted RESERVE leaves (R98). -/
def State.admitting (s : State) (source : Nat) (tag : Byte) (ref : RouteRef) (reqs : List WireReq)
    (secs : Vector SectionRec 16) (pts : Vector PointRec 8) (sigs : Vector SignalRec 8) (index : Nat) : State :=
  { s with
    sections := secs
    points := pts
    signals := sigs
    reservations := s.reservations ++ [reservedEntry ref tag reqs .none]
    sendQueue := s.sendQueue ++ [placed source (grantedBody tag ref reqs index)]
    fresh := s.fresh + 1 }

section
variable (source : Nat) (tag : Byte) (ref : RouteRef) (reqs : List WireReq) (secs : Vector SectionRec 16)
  (pts : Vector PointRec 8) (sigs : Vector SignalRec 8) (index : Nat)

@[simp] theorem admitting_resetHeld (s : State) :
    (s.admitting source tag ref reqs secs pts sigs index).resetHeld = s.resetHeld := rfl
@[simp] theorem admitting_service (s : State) :
    (s.admitting source tag ref reqs secs pts sigs index).service = s.service := rfl
@[simp] theorem admitting_address (s : State) :
    (s.admitting source tag ref reqs secs pts sigs index).address = s.address := rfl
@[simp] theorem admitting_cfg (s : State) : (s.admitting source tag ref reqs secs pts sigs index).cfg = s.cfg := rfl
@[simp] theorem admitting_boundaries (s : State) :
    (s.admitting source tag ref reqs secs pts sigs index).boundaries = s.boundaries := rfl
@[simp] theorem admitting_instances (s : State) :
    (s.admitting source tag ref reqs secs pts sigs index).instances = s.instances := rfl
@[simp] theorem admitting_register (s : State) :
    (s.admitting source tag ref reqs secs pts sigs index).register = s.register := rfl
@[simp] theorem admitting_recvQueue (s : State) :
    (s.admitting source tag ref reqs secs pts sigs index).recvQueue = s.recvQueue := rfl
@[simp] theorem admitting_requests (s : State) :
    (s.admitting source tag ref reqs secs pts sigs index).requests = s.requests := rfl
@[simp] theorem admitting_peers (s : State) :
    (s.admitting source tag ref reqs secs pts sigs index).peers = s.peers := rfl
@[simp] theorem admitting_counts (s : State) :
    (s.admitting source tag ref reqs secs pts sigs index).counts = s.counts := rfl
@[simp] theorem admitting_agenda (s : State) :
    (s.admitting source tag ref reqs secs pts sigs index).agenda = s.agenda := rfl
@[simp] theorem admitting_sendQueue (s : State) : (s.admitting source tag ref reqs secs pts sigs index).sendQueue =
    s.sendQueue ++ [placed source (grantedBody tag ref reqs index)] := rfl
@[simp] theorem admitting_reservations (s : State) : (s.admitting source tag ref reqs secs pts sigs index).reservations =
    s.reservations ++ [reservedEntry ref tag reqs .none] := rfl

end

/-- A RESERVE that is admitted (R97, R98). -/
theorem takeReserve_admitted (accepted : w.st.reserveRefusal source ref reqs = none) (fresh : w.st.reservation ref = none)
    (admitted : w.st.admissionRefusal ref reqs = none) (room : w.st.sendQueue.length < 32) {secs : Vector SectionRec 16}
    {pts : Vector PointRec 8} {sigs : Vector SignalRec 8} {told : List Task}
    (locks : w.writeLocks ref (reserveSet reqs) = { w with st := w.st.recording secs pts sigs, out := w.out ++ told }) :
    ∃ index, w.takeReserve source tag ref reqs =
      { w with
        st := w.st.admitting source tag ref reqs secs pts sigs index
        out := w.out ++ told ++ [.assessReservation ref] } := by
  refine ⟨w.st.freeByte, ?_⟩
  have inactive : (w.st.activeReservation ref).isSome = false := by
    unfold State.activeReservation
    rw [fresh]
    rfl
  unfold Work.takeReserve
  rw [accepted]
  dsimp only
  rw [inactive]
  rw [if_neg (by decide), admitted]
  dsimp only
  unfold Work.admitReserve
  dsimp only
  rw [locks, postProof_places (by exact room)]
  dsimp only [Work.on]
  rw [placing_eq]
  rfl

/-- What the telling of an admitted RESERVE keeps: the records, the entry, and the answer placed. -/
structure ReserveKept (s u : State) (source index : Nat) (tag : Byte) (ref : RouteRef) (reqs : List WireReq) (w : Work) :
    Prop where
  returns : w.returns = []
  address : w.st.address = s.address
  sections : w.st.sections = u.sections
  points : w.st.points = u.points
  signals : w.st.signals = u.signals
  instances : w.st.instances = s.instances
  register : w.st.register = s.register
  boundaries : w.st.boundaries = s.boundaries
  entry : ∃ mark, w.st.reservation ref = some (reservedEntry ref tag reqs mark)
  sent : ∃ more, w.st.sendQueue = s.sendQueue ++ placed source (grantedBody tag ref reqs index) :: more
  room : w.said.contains (ref, none) = true ∨ w.st.sendQueue.length < 32

theorem ReserveKept.assess {u : State} {index : Nat} (h : ReserveKept s u source index tag ref reqs w) :
    ReserveKept s u source index tag ref reqs (w.assessReservation ref) ∧ (w.assessReservation ref).out = w.out := by
  rcases assessReservation_once h.room with same | ⟨tag', told⟩
  · rw [same]
    exact ⟨h, rfl⟩
  · rw [told]
    obtain ⟨mark, entry⟩ := h.entry
    obtain ⟨more, sent⟩ := h.sent
    refine ⟨⟨h.returns, h.address, h.sections, h.points, h.signals, h.instances, h.register, h.boundaries,
      ⟨_, changeReservation_found (fun r => { r with mark := .proven }) (fun _ => rfl) entry⟩,
      ⟨more ++ [placed ref.station (.proven tag' ref none)], ?_⟩, .inl (by simp)⟩, rfl⟩
    show w.st.sendQueue ++ _ = _
    rw [sent]
    simp

/-- The tasks of an admitted RESERVE. -/
def ofReserve (ref : RouteRef) (x : Task) : Prop := ofCall ref x ∨ x = .assessReservation ref

/-- A task of an admitted RESERVE assesses its proof, or does nothing (R48, R49). -/
theorem take_ofReserve {x : Task} (task : ofReserve ref x) (other : ref.station ≠ w.st.own) :
    w.take x = w ∨ w.take x = w.assessReservation ref := by
  rcases task with ⟨p, rfl | rfl⟩ | rfl
  · left
    show w.tellHolder p ref .achieved = _
    unfold Work.tellHolder
    exact (if_neg other).trans (if_neg (by decide))
  · right
    show w.tellHolderProof ref .regained = _
    unfold Work.tellHolderProof
    exact if_neg other
  · exact .inr rfl

theorem offending_none {qs : List WireReq} {index : Nat} {seen : Bool} (none : offending index seen qs = Option.none) :
    ∀ q ∈ qs, ¬(32 ≤ q.elem ∧ q.elem ≤ 35) := by
  induction qs generalizing index seen with
  | nil => simp
  | cons q qs ih =>
    unfold offending at none
    split at none
    · exact nomatch none
    · next fine =>
      intro q' known
      rcases List.mem_cons.mp known with rfl | known
      · exact fun boundary => fine (.inr (.inl boundary))
      · exact ih none q' known

/-- A RESERVE whose form is right comes from its route's station and names no boundary (R97). -/
theorem reserveRefusal_none (accepted : s.reserveRefusal source ref reqs = none) :
    ref.station = source ∧ ∀ q ∈ reqs, ¬(32 ≤ q.elem ∧ q.elem ≤ 35) := by
  unfold State.reserveRefusal at accepted
  split at accepted
  · exact nomatch accepted
  · split at accepted
    · exact nomatch accepted
    · next from_ =>
      refine ⟨not_not.mp from_, ?_⟩
      unfold shapeFault at accepted
      split at accepted
      · exact nomatch accepted
      · exact offending_none (Option.map_eq_none_iff.mp accepted)

theorem admissionRefusal_none (admitted : s.admissionRefusal ref reqs = none) : s.judge none [] (reserveSet reqs) = none := by
  unfold State.admissionRefusal at admitted
  split at admitted
  · exact nomatch admitted
  · split at admitted
    · exact nomatch admitted
    · exact admitted

/-- The requirements of a RESERVE are those of its set. -/
theorem mem_reserveSet {q : LockReq} (known : q ∈ reserveSet reqs) :
    ∃ x ∈ reqs, q.elem = x.elem ∧ q.role = x.role ∧ q.state = x.state := by
  obtain ⟨⟨x, k⟩, listed, rfl⟩ := List.mem_map.mp known
  exact ⟨x, List.fst_mem_of_mem_zipIdx listed, rfl, rfl, rfl⟩

theorem reserveSet_of_mem {x : WireReq} (known : x ∈ reqs) : ∃ k, ⟨k, x.elem, x.role, x.state⟩ ∈ reserveSet reqs := by
  obtain ⟨n, at_⟩ := List.mem_iff_getElem?.mp known
  exact ⟨1 + n, List.mem_map.mpr ⟨(x, 1 + n), List.mk_add_mem_zipIdx_iff_getElem?.mpr at_, rfl⟩⟩

/-- An element that a reservation lists is one of its requirements, and no EXIT. -/
theorem mem_lockedElems {x : ReservedElem} (known : x ∈ lockedElems reqs) :
    ∃ q ∈ reqs, q.role ≠ .exit ∧ elemOfNumber q.elem = some x.elem ∧ q.role = x.role ∧ q.state = x.state := by
  obtain ⟨q, listed, made⟩ := List.mem_filterMap.mp known
  obtain ⟨e, named, rfl⟩ := Option.map_eq_some_iff.mp made
  obtain ⟨member, locks⟩ := List.mem_filter.mp listed
  exact ⟨q, member, by simpa using locks, named, rfl, rfl⟩

end

section
variable {s : State} {ref : RouteRef} {reqs : List WireReq}

theorem elemNumber_of {n : Nat} {e : Elem} (named : elemOfNumber n = some e) : n = elemNumber e := by
  unfold elemOfNumber at named
  split at named
  · cases named
    rfl
  · split at named
    · cases named
      show n = 16 + (n - 16)
      omega
    · split at named
      · cases named
        show n = 24 + (n - 24)
        omega
      · split at named
        · cases named
          show n = 32 + (n - 32)
          omega
        · exact nomatch named

theorem admissionRefusal_taking (s : State) (x : RawTelegram) (rest : List RawTelegram) (ref : RouteRef) (reqs : List WireReq) :
    (s.taking x rest).admissionRefusal ref reqs = s.admissionRefusal ref reqs := by
  unfold State.admissionRefusal
  rw [judge_of_one (s := s) (t := s.taking x rest) fun _ _ _ _ => by rfl]
  rfl

/-- The points that an admitted set names are as the writing of its locks needs them. -/
theorem admitted_of_judge (passes : s.judge none [] (reserveSet reqs) = none) (callable : ∀ q ∈ reqs, s.callable q.elem q.state)
    (q : LockReq) (known : q ∈ reserveSet reqs) : q.admitted s := by
  intro p named
  obtain ⟨e, seen, named', passes', -⟩ := (judge_none passes).1 q known
  obtain rfl : Elem.points p = e := Option.some.inj (named.symm.trans named')
  obtain ⟨position, unlocked, unclaimed⟩ := judgeOne_points passes'
  obtain ⟨x, member, elem, -, state⟩ := mem_reserveSet known
  exact ⟨position, unlocked rfl, state ▸ callable x member p (elem ▸ named), unclaimed⟩

/-- The elements that a reservation lists are locked and called once the set is written. -/
theorem lockedElems_written {t : State} (written : ∀ q ∈ reserveSet reqs, ∀ e, elemOfNumber q.elem = some e → q.written ref s t e)
    (inside : ∀ q ∈ reqs, ¬(32 ≤ q.elem ∧ q.elem ≤ 35)) {x : ReservedElem} (known : x ∈ lockedElems reqs) :
    (∃ l, t.lockOf x.elem = some l ∧ l.ref = ref ∧ l.role = x.role ∧ l.releasePending = false)
      ∧ ∀ p : Fin 8, x.elem = .points p → t.called s p x.state (.holder ref) := by
  obtain ⟨q, member, locks, named, role, state⟩ := mem_lockedElems known
  obtain ⟨k, listed⟩ := reserveSet_of_mem member
  have holds := written _ listed _ named
  refine ⟨role ▸ holds.lock locks fun b is => ?_, state ▸ holds.called⟩
  have number : q.elem = elemNumber x.elem := elemNumber_of named
  rw [is] at number
  exact inside q member ⟨by rw [number]; exact Nat.le_add_right .., by rw [number]; show 32 + b.val ≤ 35; omega⟩

end

/-- Settles O30: what the locks tell is taken once the entry stands, and its proof is told once. -/
theorem reserveLocksAndGrantsOrRefuses : Obligations.ReserveLocksAndGrantsOrRefuses := by
  refine ⟨?_, ?_⟩
  · intro s source tag ref reqs rest ready hands accepted fresh admitted room other callable
    obtain ⟨station, inside⟩ := reserveRefusal_none accepted
    have passes := admissionRefusal_none admitted
    obtain ⟨each, apart⟩ := judge_none passes
    obtain ⟨x, -, done⟩ := exec_hands (c := .reserve) rfl hands
    let w := Work.begin (s.taking x rest)
    obtain ⟨secs, pts, sigs, told, locks, -, written, tasks, -, -⟩ := writeLocks_writes (w := w) (ref := ref) (qs := reserveSet reqs)
      (fun q known => by obtain ⟨e, -, named, -⟩ := each q known; rw [named]; rfl) apart
      (admitted_of_judge (s := s) passes callable)
    obtain ⟨index, taken⟩ := takeReserve_admitted (w := w) (tag := tag) accepted fresh
      ((admissionRefusal_taking ..).trans admitted)
      (by show s.sendQueue.length < 32; omega) locks
    let u := (s.taking x rest).admitting source tag ref reqs secs pts sigs index
    have far (w : Work) (same : w.st.address = s.address) : ref.station ≠ w.st.own := by
      rw [own_of_address same, station]
      exact other
    have reached : ReserveKept s u source index tag ref reqs (w.takeReserve source tag ref reqs) := by
      rw [taken]
      refine ⟨rfl, by simp [w], rfl, rfl, rfl, by simp [w], by simp [w], by simp [w], ⟨.none, ?_⟩, ⟨[], by simp [w]⟩, .inr ?_⟩
      · unfold State.reservation
        rw [admitting_reservations, List.find?_append, show w.st.reservations.find? (fun y => y.ref == ref) = none from fresh]
        simp [reservedEntry]
      · rw [admitting_sendQueue, List.length_append]
        show s.sendQueue.length + 1 < 32
        omega
    have place (w : Work) (h : ReserveKept s u source index tag ref reqs w) :
        ReserveKept s u source index tag ref reqs { w.on (State.placeChanged { s with recvQueue := rest }) with out := [] } := by
      have reported : w.on (State.placeChanged { s with recvQueue := rest }) =
          w.reporting (State.placeChanged { s with recvQueue := rest } w.st).reports :=
        congrArg (fun t : State => { w with st := t }) (placeChanged_same _ _)
      rw [reported]
      exact ⟨h.returns, h.address, h.sections, h.points, h.signals, h.instances, h.register, h.boundaries, h.entry, h.sent, h.room⟩
    have step (w : Work) (y : Task) (task : ofReserve ref y) (h : ReserveKept s u source index tag ref reqs w) (quiet : w.out = []) :
        ReserveKept s u source index tag ref reqs (w.take y) ∧ ∀ z ∈ (w.take y).out, ofReserve ref z := by
      rcases take_ofReserve task (far w h.address) with same | assessed
      · rw [same, quiet]
        exact ⟨h, fun z known => nomatch known⟩
      · rw [assessed, h.assess.2, quiet]
        exact ⟨h.assess.1, fun z known => nomatch known⟩
    have all : ∀ y ∈ (w.takeReserve source tag ref reqs).out, ofReserve ref y := by
      rw [taken]
      intro y known
      rcases List.mem_append.mp known with call | own
      · exact .inl (tasks y call)
      · exact .inr (List.mem_singleton.mp own)
    obtain ⟨w', left, v, ended, noted, kept⟩ := event_invariant (before := s) (start := { s with recvQueue := rest })
      (work := fun _ => w.takeReserve source tag ref reqs) ready rfl all reached place step fun w h => h.returns
    refine .of_noted (b := State.keep { s with recvQueue := rest } { w'.st with agenda := left })
      ⟨v, done.trans ended, noted⟩ fun n after => ?_
    obtain ⟨mark, entry⟩ := kept.entry
    obtain ⟨more, sent⟩ := kept.sent
    obtain ⟨more', sent'⟩ := after.sent
    let t := State.noting (State.keep { s with recvQueue := rest } { w'.st with agenda := left }) n
    have same (e : Elem) : t.sameAt (w.st.recording secs pts sigs) e := by
      cases e with
      | track i => exact congrArg (·[i]) kept.sections
      | points p => exact congrArg (·[p]) kept.points
      | signal g => exact congrArg (·[g]) kept.signals
      | boundary b => trivial
    have there (q : LockReq) (known : q ∈ reserveSet reqs) (e : Elem) (named : elemOfNumber q.elem = some e) :
        q.written ref s t e :=
      ((written q known e named).kept (same e)).since (by cases e with
        | track i => rfl
        | points p => rfl
        | signal g => rfl
        | boundary b => trivial)
    refine ⟨rfl, ⟨_, entry, rfl, rfl, rfl, rfl⟩, fun x known => (lockedElems_written there inside known).1,
      fun x known => (lockedElems_written there inside known).2, kept.instances, kept.register, kept.boundaries, index,
      more ++ more', ?_⟩
    show n.sendQueue = _
    rw [sent']
    show w'.st.sendQueue ++ more' = _
    rw [sent, grantedBody]
    simp
  · intro s source tag ref reqs rest f ready hands room refused
    refine .of_hands rfl ready hands (fun x => (s.taking x rest).placing source (.reserveAnswer tag ref (some f.reason) f.index []))
      (fun x => ?_) (fun x => by simp) (fun x => by simp) (fun x => by simp) (fun x => by simp) fun x rs => ?_
    · have answered : (Work.begin (s.taking x rest)).takeReserve source tag ref reqs =
          (Work.begin (s.taking x rest)).postProof source (.reserveAnswer tag ref (some f.reason) f.index []) := by
        unfold Work.takeReserve
        dsimp only
        rcases refused with form | ⟨form, inactive, full⟩
        · rw [show (Work.begin (s.taking x rest)).st.reserveRefusal source ref reqs = some f from form]
        · rw [show (Work.begin (s.taking x rest)).st.reserveRefusal source ref reqs = none from form]
          dsimp only
          rw [show (Work.begin (s.taking x rest)).st.activeReservation ref = none from inactive]
          rw [if_neg (by decide), show (Work.begin (s.taking x rest)).st.admissionRefusal ref reqs = some f from
            (admissionRefusal_taking ..).trans full]
      exact answered.trans (postProof_places room)
    · exact ⟨by simp, ⟨by simp, by simp, by simp⟩, ⟨by simp, by simp, by simp, by simp, by simp⟩, by simp, by simp⟩

end Sys2Proof.Machine
end

section
/-! PROOFS. CANCEL and EMERGENCY_RELEASE of a route past setting (O44, O45). -/

namespace Sys2Proof.Machine

section
variable {s t b : State} {c : Instr} {w v : Work} {g : Fin 8} {i : RouteInst} {r : RouteRecord} {P : State → Prop}

/-! ## Commands whose work is known -/

/-- A row of the desk's commands is the event of its owner. -/
theorem exec_command {command : Command} {owner : Nat → Body → Work → Work} {desk : Nat} {tag : Byte} {rest : List RawTelegram}
    (row : exec c s = s.takeTelegram (·.isCommand (commandCode command)) owner) (hands : s.handsCommand desk tag command rest) :
    ∃ x, exec c s = s.event { s with recvQueue := rest } fun w => owner desk (.command tag command) (w.on (·.handed x)) := by
  obtain ⟨x, queue, rfl, own, passed⟩ := hands
  exact ⟨x, row.trans (takeFront_hands queue own passed)⟩

/-- An event whose work gives rise to no tasks completes in the state of its work. -/
theorem Completes.of_work {start : State} {work : Work → Work} (ready : s.ready) (done : exec c s = s.event start work)
    (begun : start.agenda = s.agenda) (work_eq : work (Work.begin start) = v) (quiet : v.out = []) (returns : v.returns = [])
    (kept : start.keep v.st = v.st) (left : v.st.agenda = []) (h : ∀ n : Notes, n.After v.st → P (v.st.noting n)) :
    Completes c s P := by
  refine .of_noted (b := v.st) ?_ h
  rw [done]
  have cleared : { v with out := [] } = v := by rw [← quiet]
  exact event_leads (v := v) (k := 0) ready begun (.of_eq work_eq) (by decide) (by rw [quiet, cleared]; exact .done) returns
    kept left

/-! ## A signal replaced (R59) -/

/-- A signal whose STOP lamp does not prove at once is replaced, or at STOP already. -/
theorem replaceSignal_stops (dark : w.st.signals[g].aspect = .proceed → w.st.signals[g].stopInput = false) :
    ∃ (x : SignalRec) (turned : List (Fin 8)), w.replaceSignal g = { w with st := w.st.setSignal g x, turned := turned }
      ∧ x.aspect = .stop ∧ (w.st.signals[g].aspect = .stop → x = w.st.signals[g]) := by
  cases shown : w.st.signals[g].aspect with
  | proceed => exact ⟨_, _, replaceSignal_awaits shown (dark shown), rfl, fun stop => nomatch stop⟩
  | stop =>
    refine ⟨w.st.signals[g], w.turned, ?_, shown, fun _ => rfl⟩
    rw [show w.st.setSignal g w.st.signals[g] = w.st by simp [State.setSignal]]
    exact if_neg (by rw [shown]; decide)

/-- With a signal and an instance rewritten alone, a signal at STOP is stopped as a statement says. -/
theorem signalStopped_of {x : SignalRec} {j : Option RouteInst} {n : Notes} (signals : b.signals = s.signals)
    (sections : b.sections = s.sections) (points : b.points = s.points) (stop : x.aspect = .stop)
    (same : s.signals[g].aspect = .stop → x = s.signals[g]) :
    (((b.setSignal g x).setInstance g j).noting n).signalStopped s g := by
  have own : (b.signals.set g x)[g] = x := set_own ..
  refine ⟨(congrArg SignalRec.aspect own).trans stop, fun there => own.trans (same there), fun h apart => ?_, sections, points⟩
  exact (set_other (v := b.signals) _ apart).trans (congrArg (·[h]) signals)

theorem instance_written {x : SignalRec} {j : Option RouteInst} {n : Notes} :
    (((b.setSignal g x).setInstance g j).noting n).instances[g] = j := set_own (v := b.instances) g j

/-! ## The approach release delay (R130 to R133) -/

theorem validSpan_bounds {d : Nat} (span : s.validSpan r = some d) : 1 ≤ d ∧ d ≤ 60000 := by
  unfold State.validSpan at span
  dsimp only at span
  split at span
  · split at span
    · next valid =>
      simp only [Bool.and_eq_true, decide_eq_true_eq] at valid
      exact Option.some.inj span ▸ valid.2
    · exact nomatch span
  · exact nomatch span

theorem delayOf_eq (r : RouteRecord) (v : Nat) : delayOf r v =
    min r.tMax (max r.tMin (((v * 100 + r.decel - 1) / r.decel + 99) / 100 + r.margin)) := rfl

/-- The four stages of D (R133). -/
theorem approachDelay_stages (s : State) (r : RouteRecord) (decel : 10 ≤ r.decel) (length : 10 ≤ r.distantLength)
    (ordered : r.tMin ≤ r.tMax) :
    let stopTime := fun v : Nat => (v * 100 + r.decel - 1) / r.decel
    let delay := fun v : Nat => min r.tMax (max r.tMin ((stopTime v + 99) / 100 + r.margin))
    r.tMin ≤ (s.approachDelay r).1 ∧ (s.approachDelay r).1 ≤ r.tMax
      ∧ (∀ d, s.validSpan r = some d →
          let v := min 9999 (r.distantLength * 10000 / d)
          s.approachDelay r = (delay v, some v) ∧ 1 ≤ v ∧ v ≤ 9999 ∧ 1 ≤ stopTime v ∧ stopTime v ≤ 99990)
      ∧ (∀ x, s.validSpan r = none → s.sections[r.approach].train = some x → x.speed ≠ 0 →
          s.approachDelay r = (delay x.speed, some x.speed))
      ∧ (s.validSpan r = none → (∀ x, s.sections[r.approach].train = some x → x.speed = 0) →
          s.approachDelay r = (r.tMax, none)) := by
  refine ⟨?_, ?_, fun d span => ?_, fun x span train moves => ?_, fun span still => ?_⟩
  · unfold State.approachDelay
    cases s.delaySpeed r with
    | none => exact ordered
    | some v => exact le_min ordered (le_max_left _ _)
  · unfold State.approachDelay
    cases s.delaySpeed r with
    | none => exact le_refl _
    | some v => exact min_le_left _ _
  · obtain ⟨low, high⟩ := validSpan_bounds span
    have fast : 1 ≤ r.distantLength * 10000 / d := (Nat.one_le_div_iff (by omega)).mpr (by omega)
    refine ⟨?_, by omega, by omega, (Nat.one_le_div_iff (by omega)).mpr (by omega),
      Nat.le_of_lt_succ ((Nat.div_lt_iff_lt_mul (by omega)).mpr (by omega))⟩
    simp only [State.approachDelay, State.delaySpeed, span]
    rfl
  · simp only [State.approachDelay, State.delaySpeed, span, train, if_neg moves]
    rfl
  · unfold State.approachDelay State.delaySpeed
    rw [span]
    dsimp only
    cases train : s.sections[r.approach].train with
    | none => rfl
    | some x => simp only [still x train, if_true]

/-- Entering elements leaves the routes of a configuration alone. -/
theorem enterElem_routes (es : List ImageElem) (c : AreaConfig) : (es.foldl enterElem c).routes = c.routes :=
  List.foldlRecOn (motive := fun x : AreaConfig => x.routes = c.routes) es _ rfl fun t e x _ => by
    rw [← e]
    cases x <;> rfl

theorem ordered_times (x : ImageRoute) : x.ordered.1.tMin ≤ x.ordered.1.tMax := by
  unfold ImageRoute.ordered
  split
  · exact le_refl _
  · exact Nat.le_of_not_lt ‹_›

/-- The routes of an image that is clamped have T_min at most T_max (R191). -/
theorem clamped_times (im : Image) : ∀ r ∈ im.clamped.1.toConfig.routes, r.tMin ≤ r.tMax := by
  intro r known
  rw [Image.toConfig, enterElem_routes] at known
  obtain ⟨x, member, rfl⟩ := List.mem_map.mp known
  obtain ⟨y, final, rfl⟩ := List.mem_map.mp member
  obtain ⟨z, -, rfl⟩ := List.mem_map.mp final
  exact ordered_times z

/-! ## CANCEL and EMERGENCY_RELEASE -/

/-- A CANCEL of an OPEN or HELD route with its approach occupied replaces the signal and runs the delay (R127). -/
theorem cancel_delays (there : w.st.instances[g] = some i) (past : i.state = .open ∨ i.state = .held)
    (occupied : w.st.approachOccupied ⟨0, r.approach.val⟩ = true ∨ w.st.approachOccupied r.distant = true)
    (dark : w.st.signals[g].aspect = .proceed → w.st.signals[g].stopInput = false) :
    ∃ (x : SignalRec) (turned : List (Fin 8)), w.cancel g i r = { w with
        st := (w.st.setSignal g x).setInstance g (some { i with
          inStep := false, state := .cancelling, delay := some (w.st.approachDelay r).1
          speedUsed := (w.st.approachDelay r).2, approachTimer := some ((w.st.approachDelay r).1 * 100) })
        turned := turned }
      ∧ x.aspect = .stop ∧ (w.st.signals[g].aspect = .stop → x = w.st.signals[g]) := by
  obtain ⟨x, turned, replaced, stop, same⟩ := replaceSignal_stops dark
  refine ⟨x, turned, ?_, stop, same⟩
  have waits : (w.st.approachOccupied ⟨0, r.approach.val⟩ || w.st.approachOccupied r.distant) = true := by
    rw [Bool.or_eq_true]
    exact occupied
  unfold Work.cancel
  have still : (w.st.setSignal g x).instances[g] = some i := there
  rcases past with e | e <;> rw [e] <;> dsimp only <;> rw [if_pos waits, replaced, Work.on] <;>
    dsimp only <;> rw [changeInstance_some still]

/-- An EMERGENCY_RELEASE of a route past setting replaces the signal and runs the emergency timer (R134). -/
theorem emergencyRelease_runs (there : w.st.instances[g] = some i) (past : i.beingSet = false)
    (dark : w.st.signals[g].aspect = .proceed → w.st.signals[g].stopInput = false) :
    ∃ (x : SignalRec) (turned : List (Fin 8)), w.emergencyRelease g i r = { w with
        st := (w.st.setSignal g x).setInstance g (some { i with
          inStep := false, settingTimer := none, approachTimer := none, overlapTimer := .stopped
          emergencyTimer := .running (r.tMax * 100), state := .emergency })
        turned := turned }
      ∧ x.aspect = .stop ∧ (w.st.signals[g].aspect = .stop → x = w.st.signals[g]) := by
  obtain ⟨x, turned, replaced, stop, same⟩ := replaceSignal_stops dark
  refine ⟨x, turned, ?_, stop, same⟩
  unfold Work.emergencyRelease
  dsimp only
  have still : (w.st.setSignal g x).instances[g] = some i := there
  rw [past, if_neg (by decide), replaced, Work.on]
  dsimp only
  rw [changeInstance_some still]

theorem cancelRefusal_none {n : Nat} (service : s.service = .inService) (known : s.routeRecord n = some r)
    (found : s.instanceOf n = some (g, i)) (past : i.state = .open ∨ i.state = .held) (marks : i.faultMarks = []) :
    s.cancelRefusal n = none := by
  unfold State.cancelRefusal State.routeRefusal
  rw [if_neg (not_not_intro service), known, found]
  rcases past with e | e <;> simp [e, marks]

theorem routeRefusal_none {n : Nat} (service : s.service = .inService) (known : s.routeRecord n = some r) :
    s.routeRefusal n = none := by
  unfold State.routeRefusal
  rw [if_neg (not_not_intro service), known]
  rfl

/-- A command accepted is answered before its effects (log entry 15). -/
theorem decide_accepts {desk : Nat} {tag : Byte} {code : Nat} {accepted : Work → Work} (room : w.st.sendQueue.length + 4 ≤ 32) :
    w.decide desk tag code none accepted =
      accepted (w.noting (w.st.answerNotes desk (.commandAnswer tag code none w.st.freeByte []))) :=
  congrArg (fun t : State => accepted { w with st := t }) (answerDesk_of_room _ _ _ _ _ _ room)

end

/-- Settles O44: the approach is read before the signal is replaced, and D then stands in the instance. -/
theorem cancelRunsApproachDelay : Obligations.CancelRunsApproachDelay := by
  refine ⟨?_, approachDelay_stages, clamped_times⟩
  intro s desk tag n r g i rest ready hands service known found past marks dark occupied room
  obtain ⟨x, done⟩ := exec_command (c := .cancel) rfl hands
  have there := (instanceOf_get found).1
  let body := Body.commandAnswer tag 2 none s.freeByte []
  let w := (Work.begin (s.taking x rest)).noting ((s.taking x rest).answerNotes desk body)
  obtain ⟨y, turned, cancels, stop, same⟩ := cancel_delays (w := w) (g := g) (r := r) there past occupied dark
  rw [show w.st.approachDelay r = s.approachDelay r from rfl] at cancels
  refine .of_work ready done rfl (v := w.cancel g i r) ?_ (by rw [cancels]; rfl) (by rw [cancels]; rfl) (by rw [cancels]; rfl)
    (by rw [cancels]; exact ready.2) fun n' after => ?_
  · show (Work.begin (s.taking x rest)).decide desk tag 2 ((s.taking x rest).cancelRefusal n) _ = _
    rw [show (s.taking x rest).cancelRefusal n = none from cancelRefusal_none (s := s) service known found past marks,
      decide_accepts (by exact room)]
    rw [show ((Work.begin (s.taking x rest)).noting _).st.instanceOf n = some (g, i) from found,
      show ((Work.begin (s.taking x rest)).noting _).st.routeRecord n = some r from known]
    rfl
  · rw [cancels] at after ⊢
    refine ⟨by simp [w], signalStopped_of rfl rfl rfl stop same, by simp [w], ?_, ?_⟩
    · exact answered_of_after (index := s.freeByte) (contents := []) after (by simp [w, body])
    · exact instance_written

/-- Settles O45: a route already in EMERGENCY is answered alone. -/
theorem emergencyReleaseRunsTmax : Obligations.EmergencyReleaseRunsTmax := by
  intro s desk tag n r g i rest ready hands service known found past dark room
  obtain ⟨x, done⟩ := exec_command (c := .emergencyRelease) rfl hands
  have there := (instanceOf_get found).1
  let body := Body.commandAnswer tag 3 none s.freeByte []
  let w := (Work.begin (s.taking x rest)).noting ((s.taking x rest).answerNotes desk body)
  have decided : (Work.begin (s.taking x rest)).decide desk tag 3 ((s.taking x rest).routeRefusal n) (fun w =>
      match w.st.instanceOf n, w.st.routeRecord n with
      | some (g, i), some r => if i.state = .emergency then w else w.emergencyRelease g i r
      | _, _ => w) = if i.state = .emergency then w else w.emergencyRelease g i r := by
    rw [show (s.taking x rest).routeRefusal n = none from routeRefusal_none (s := s) service known,
      decide_accepts (by exact room)]
    rw [show ((Work.begin (s.taking x rest)).noting _).st.instanceOf n = some (g, i) from found,
      show ((Work.begin (s.taking x rest)).noting _).st.routeRecord n = some r from known]
    rfl
  by_cases already : i.state = .emergency
  · rw [if_pos already] at decided
    exact .of_work ready done rfl decided rfl rfl rfl ready.2 fun n' after =>
      ⟨by simp [w], by simp [w], answered_of_after (index := s.freeByte) (contents := []) after (by simp [w, body]),
        fun _ => ⟨by simp [w], by simp [w], by simp [w], by simp [w]⟩, fun other => absurd already other⟩
  · rw [if_neg already] at decided
    obtain ⟨y, turned, releases, stop, same⟩ := emergencyRelease_runs (w := w) (g := g) (r := r) there past dark
    refine .of_work ready done rfl decided (by rw [releases]; rfl) (by rw [releases]; rfl) (by rw [releases]; rfl)
      (by rw [releases]; exact ready.2) fun n' after => ?_
    rw [releases] at after ⊢
    exact ⟨by simp [w], by simp [w], answered_of_after (index := s.freeByte) (contents := []) after (by simp [w, body]),
      fun same => absurd same already, fun _ => ⟨signalStopped_of rfl rfl rfl stop same, instance_written⟩⟩

end Sys2Proof.Machine
end

section
/-! PROOFS. Lamps that prove and fail (O18, O19), and PROVEN and LAPSE at the route's controller (O39). -/

namespace Sys2Proof.Machine

section
variable {s t b : State} {c : Instr} {w v v' : Work} {g h : Fin 8} {i : RouteInst} {r : RouteRecord} {ref : RouteRef}
  {P : State → Prop} {lamp : Lamp}

/-- An event whose tasks lead its work to `v'` completes there. -/
theorem Completes.of_leads {start : State} {work : Work → Work} {k : Nat} (ready : s.ready) (done : exec c s = s.event start work)
    (begun : start.agenda = s.agenda) (near : Near v (work (Work.begin start))) (few : k < taskBound)
    (leads : Leads start k v.out { v with out := [] } v') (returns : v'.returns = []) (kept : start.keep v'.st = v'.st)
    (left : v'.st.agenda = []) (h : ∀ n : Notes, n.After v'.st → P (v'.st.noting n)) : Completes c s P := by
  refine .of_noted (b := v'.st) ?_ h
  rw [done]
  exact event_leads ready begun near few leads returns kept left

/-- One task that gives rise to none. -/
theorem Leads.one {start : State} {x : Task} {m : Notes} (quiet : v.out = []) (same : ∀ n, (v.noting n).take x = v'.noting n)
    (last : v'.out = []) : Leads start 1 [x] (v.noting m) (v'.noting m) := by
  have cleared : { v' with out := [] } = v' := by rw [← last]
  refine .exact quiet same ?_
  rw [last, cleared]
  exact .done

/-! ## Lamps (R53 to R60) -/

/-- A lamp interrupted proves again: nothing but its record changes (R55). -/
theorem lampLit_interrupted (lit : w.st.signals[g].litLamp = .interrupted) :
    w.lampLit g = w.on (·.setSignal g { w.st.signals[g].withLitLamp .lit with provingTimer := none }) := if_pos lit

/-- A PROCEED lamp that proves from AWAITING tells its clearing route; the exit proof stood already (R55, R58). -/
theorem lampLit_opens {x : SignalRec} (record : w.st.signals[g] = x) (proceed : x.aspect = .proceed)
    (waits : x.proceedLamp = .awaiting) (proof : x.exitProof = true) (clearing : x.clearingRoute = some ref) :
    w.lampLit g = (w.on (·.setSignal g { x with proceedLamp := .lit, provingTimer := none, exitProof := true })).emit
      [.cleared g ref] := by
  have lamp : x.litLamp = .awaiting := by rw [SignalRec.litLamp, proceed]; exact waits
  unfold Work.lampLit SignalRec.withLitLamp
  dsimp only
  rw [record, lamp, if_neg (by decide), proceed, clearing, proof]
  rfl

/-- A lamp proving input that has been noted. -/
theorem withInput_aspect (x : SignalRec) (lamp : Lamp) (active : Bool) : (x.withInput lamp active).aspect = x.aspect
    ∧ (x.withInput lamp active).litLamp = x.litLamp ∧ (x.withInput lamp active).exitProof = x.exitProof := by
  cases lamp <;> exact ⟨rfl, rfl, rfl⟩

theorem withLitLamp_lit (x : SignalRec) (l : LampState) : (x.withLitLamp l).litLamp = l
    ∧ (x.withLitLamp l).aspect = x.aspect ∧ (x.withLitLamp l).exitProof = x.exitProof := by
  unfold SignalRec.withLitLamp SignalRec.litLamp
  cases x.aspect <;> exact ⟨rfl, rfl, rfl⟩

/-- The lit lamp of a signal rewritten, with its proving timer. -/
theorem litLamp_written (x : SignalRec) (l : LampState) (timer : Option Nat) :
    ({ x.withLitLamp l with provingTimer := timer } : SignalRec).litLamp = l
      ∧ ({ x.withLitLamp l with provingTimer := timer } : SignalRec).aspect = x.aspect
      ∧ ({ x.withLitLamp l with provingTimer := timer } : SignalRec).exitProof = x.exitProof := by
  obtain ⟨lit, aspect, proof⟩ := withLitLamp_lit x l
  exact ⟨lit, aspect, proof⟩

theorem supervision_of_proven {x : SignalRec} {l : LampState} (lit : x.litLamp = l) (proven : l.proven = true) :
    x.supervision = .proven := by
  rw [SignalRec.supervision, lit, proven]
  rfl

/-- The input of the lit lamp drops (R55). -/
theorem lampInput_drops (shown : w.st.signals[g].aspect = lampAspect lamp) (lit : w.st.signals[g].litLamp = .lit)
    (active : w.st.signals[g].input (lampAspect lamp) = true) : w.lampInput g lamp false =
      w.on (·.setSignal g { (w.st.signals[g].withInput lamp false).withLitLamp .interrupted with
        provingTimer := some (w.st.signalCfg g).provingTime }) := by
  unfold Work.lampInput
  dsimp only
  rw [active, shown, if_neg (by simp), lit]
  simp [Work.on]

/-- The input of a lamp that is not lit comes back (R55). -/
theorem lampInput_proves (shown : w.st.signals[g].aspect = lampAspect lamp)
    (waits : w.st.signals[g].litLamp = .awaiting ∨ w.st.signals[g].litLamp = .interrupted)
    (inactive : w.st.signals[g].input (lampAspect lamp) = false) : w.lampInput g lamp true =
      (w.on (·.setSignal g (w.st.signals[g].withInput lamp true))).lampLit g := by
  unfold Work.lampInput
  dsimp only
  rw [inactive, shown, if_neg (by simp)]
  rcases waits with e | e <;> rw [e]

theorem equipped_of_signal {x : SignalCfg} (named : s.cfg.signals[g] = some x) : s.equipped (.signal g) = true := by
  simp [State.equipped, named]

theorem signalCfg_of {x : SignalCfg} (named : s.cfg.signals[g] = some x) : s.signalCfg g = x := by
  simp [State.signalCfg, named]

/-- An event at a signal that rewrites its record alone. -/
theorem Completes.of_signal {work : Work → Work} {x : SignalRec} (ready : s.ready) (done : exec c s = s.event s work)
    (writes : work (Work.begin s) = Work.begin (s.setSignal g x))
    (h : ∀ t : State, t.signals[g] = x → t.points = s.points → t.sections = s.sections → t.sameRoutes s → P t) :
    Completes c s P :=
  .of_work ready done rfl writes rfl rfl rfl ready.2 fun _ _ =>
    h _ (set_own (v := s.signals) g x) rfl rfl ⟨rfl, rfl, rfl, rfl, rfl⟩

/-- The route in step is told that its PROCEED lamp has proven: it is OPEN (R106). -/
theorem take_cleared (there : w.st.instances[g] = some i) (step : i.inStep = true) (own : ref = w.st.ownRef i.route) :
    w.take (.cleared g ref) =
      w.on (·.setInstance g (some { i with state := .open, inStep := false, settingTimer := none })) := by
  show w.opened g ref = _
  unfold Work.opened
  rw [there]
  dsimp only
  rw [if_pos ⟨step, own⟩]
  exact congrArg (fun t : State => { w with st := t }) (changeInstance_some there)

/-- A route, OPEN or in step, that is told that its PROCEED lamp has failed is HELD (R107 to R109). -/
theorem take_lampFailed (found : w.st.instanceOf ref.route = some (h, i)) (past : i.state = .open ∨ i.inStep = true) :
    w.take (.lampFailed ref) =
      w.on (·.setInstance h (some { i with state := .held, inStep := false, settingTimer := none })) := by
  show w.lampHolds ref.route = _
  unfold Work.lampHolds
  rw [found]
  dsimp only
  rw [if_pos past]
  exact congrArg (fun t : State => { w with st := t }) (changeInstance_some (instanceOf_get found).1)

/-- Recording a fault notes it, and counts it. -/
theorem recordFault_notes (s : State) (k : FaultKind) (x : Subject) : s.recordFault k x = s.noting (s.recordFault k x).notes :=
  recordFaults_noting s [k] x

end

/-- Settles O18: with its exit proof standing the lamp tells its clearing route alone. -/
theorem litLampFlickersProven : Obligations.LitLampFlickersProven := by
  refine ⟨fun g s i sampled equipped proceed waits inactive proof there step clearing => ?_,
    fun g lamp s c sampled named shown => ⟨fun lit active => ?_, fun lit inactive => ?_⟩⟩
  · let x : SignalRec := { s.signals[g] with
      proceedInput := true, proceedLamp := .lit, provingTimer := none, exitProof := true }
    let w := Work.begin (s.setSignal g x)
    have lights : (Work.begin s).lampInput g .proceed true = w.emit [.cleared g (s.ownRef i.route)] := by
      have lamp : s.signals[g].litLamp = .awaiting := by rw [SignalRec.litLamp, proceed]; exact waits
      have record : (s.signals.set g (s.signals[g].withInput .proceed true))[g] = s.signals[g].withInput .proceed true := set_own ..
      rw [lampInput_proves (by exact proceed) (.inl lamp) (by exact inactive),
        lampLit_opens (ref := s.ownRef i.route) (x := s.signals[g].withInput .proceed true) record proceed waits proof clearing, Work.on, Work.on]
      dsimp only
      rw [Work.begin_st, setSignal_setSignal]
      rfl
    have leads := Leads.one (start := s) (v := w) (x := .cleared g (s.ownRef i.route)) (m := w.st.notes)
      (v' := w.on (·.setInstance g (some { i with state := .open, inStep := false, settingTimer := none }))) rfl
      (fun n => take_cleared (w := w.noting n) there step rfl) rfl
    refine .of_leads (work := fun w => w.lampInput g .proceed true) (v := w.emit [.cleared g (s.ownRef i.route)])
      sampled.1 (if_pos ⟨sampled.2, equipped⟩) rfl (.of_eq lights) (by decide) leads rfl rfl sampled.1.2 fun n _ => ?_
    have own : (s.signals.set g x)[g] = x := set_own ..
    refine ⟨?_, ?_, ?_, ?_, rfl, rfl, rfl, set_own ..⟩
    · exact (congrArg SignalRec.aspect own).trans proceed
    · exact congrArg SignalRec.proceedLamp own
    · exact congrArg SignalRec.provingTimer own
    · exact (congrArg SignalRec.supervision own).trans (supervision_of_proven (l := .lit)
        (by rw [SignalRec.litLamp, show x.aspect = .proceed from proceed]) rfl)
  · obtain ⟨noted, -, before⟩ := withInput_aspect s.signals[g] lamp false
    obtain ⟨lamp', aspect, proof⟩ := litLamp_written (s.signals[g].withInput lamp false) .interrupted (some c.provingTime)
    refine .of_signal (g := g) sampled.1 (if_pos ⟨sampled.2, equipped_of_signal named⟩)
      ((lampInput_drops (w := Work.begin s) shown lit active).trans (by rw [signalCfg_of (s := (Work.begin s).st) named]; rfl))
      fun t record points sections routes => ?_
    rw [record]
    exact ⟨lamp', rfl, supervision_of_proven lamp' rfl, aspect.trans noted, proof.trans before, points, sections, routes⟩
  · obtain ⟨noted, still, before⟩ := withInput_aspect s.signals[g] lamp true
    obtain ⟨lamp', aspect, proof⟩ := litLamp_written (s.signals[g].withInput lamp true) .lit none
    have own : (s.signals.set g (s.signals[g].withInput lamp true))[g] = s.signals[g].withInput lamp true := set_own ..
    refine .of_signal (g := g) sampled.1 (if_pos ⟨sampled.2, equipped_of_signal named⟩)
      (x := { (s.signals[g].withInput lamp true).withLitLamp .lit with provingTimer := none }) ?_
      fun t record points sections routes => ?_
    · rw [lampInput_proves (w := Work.begin s) shown (.inr lit) inactive, lampLit_interrupted]
      · refine congrArg Work.begin ?_
        show (s.setSignal g (s.signals[g].withInput lamp true)).setSignal g
          { ((s.signals.set g (s.signals[g].withInput lamp true))[g]).withLitLamp .lit with provingTimer := none } = _
        rw [own, setSignal_setSignal]
      · exact (congrArg SignalRec.litLamp own).trans (still.trans lit)
    · rw [record]
      exact ⟨lamp', rfl, supervision_of_proven lamp' rfl, aspect.trans noted, proof.trans before, points, sections,
        routes⟩

/-- Settles O19: a PROCEED lamp that fails tells its clearing route once the signal is replaced. -/
theorem unprovenStopLampFails : Obligations.UnprovenStopLampFails := by
  refine ⟨fun g s ref h i sampled equipped proceed waits timer dark clearing found past => ?_,
    fun g s sampled equipped stop waits timer unused => ?_⟩
  · have lamp : (s.signals[g].litLamp == .awaiting || s.signals[g].litLamp == .interrupted) = true := by
      rw [SignalRec.litLamp, proceed]
      dsimp only
      rcases waits with e | e <;> rw [e] <;> rfl
    let u := s.recordFault .lampProceedFail (.elem (.signal g))
    have u_eq : u = s.noting u.notes := recordFault_notes ..
    have counted : u.counts[faultIndex .lampProceedFail] = min 255 (s.counts[faultIndex .lampProceedFail] + 1) :=
      recordFault_count _ _ _ (by decide)
    let x := s.signals[g].replaced (s.signalCfg g)
    let w := ((Work.begin s).turn g).on (·.setSignal g x)
    have fails : (Work.begin s).lampExpiry g = (w.noting u.notes).emit [.lampFailed ref] := by
      unfold Work.lampExpiry
      dsimp only
      rw [Work.begin_st, timer, lamp, if_pos (by rfl), proceed]
      dsimp only
      unfold Work.proceedLampFails
      dsimp only
      rw [Work.begin_st, clearing, Work.on, Work.begin_st, show s.recordFault .lampProceedFail (.elem (.signal g)) = s.noting u.notes from u_eq,
        replaceSignal_awaits (by exact proceed) (by exact dark)]
      rfl
    have leads := Leads.one (start := s) (v := w) (x := .lampFailed ref) (m := u.notes)
      (v' := w.on (·.setInstance h (some { i with state := .held, inStep := false, settingTimer := none }))) rfl
      (fun n => take_lampFailed (w := w.noting n) found past) rfl
    refine .of_leads (work := fun w => w.lampExpiry g) (v := (w.noting u.notes).emit [.lampFailed ref])
      sampled.1 (if_pos ⟨sampled.2, equipped⟩) rfl (.of_eq fails) (by decide) leads rfl rfl sampled.1.2 fun n after => ?_
    have own : (s.signals.set g x)[g] = x := set_own ..
    refine ⟨congrArg SignalRec.aspect own, congrArg SignalRec.stopLamp own, congrArg SignalRec.proceedLamp own,
      congrArg SignalRec.clearingRoute own, rfl, rfl, set_own .., ?_⟩
    exact (after.counts .lampProceedFail (by decide)).trans counted
  · have lamp : (s.signals[g].litLamp == .awaiting || s.signals[g].litLamp == .interrupted) = true := by
      rw [SignalRec.litLamp, stop]
      dsimp only
      rcases waits with e | e <;> rw [e] <;> rfl
    let x : SignalRec := { s.signals[g] with stopLamp := .out, provingTimer := none, exitProof := false }
    let u := (s.setSignal g x).recordFault .lampStopFail (.elem (.signal g))
    have u_eq : u = (s.setSignal g x).noting u.notes := recordFault_notes ..
    have nobody : u.exitTasks g false = [] := by
      rw [u_eq]
      exact unused
    have counted : u.counts[faultIndex .lampStopFail] = min 255 (s.counts[faultIndex .lampStopFail] + 1) :=
      recordFault_count (s.setSignal g x) _ _ (by decide)
    have fails : (Work.begin s).lampExpiry g = Work.begin u := by
      unfold Work.lampExpiry
      dsimp only
      rw [Work.begin_st, timer, lamp, if_pos (by rfl), stop]
      dsimp only
      unfold Work.stopLampFails
      dsimp only
      rw [Work.on, Work.begin_st, nobody, emit_nil, ite_self]
      rfl
    have own : u.signals[g] = x := by
      rw [u_eq]
      exact set_own (v := s.signals) g x
    refine .of_work (work := fun w => w.lampExpiry g) sampled.1 (if_pos ⟨sampled.2, equipped⟩) rfl fails rfl rfl
      (by rw [Work.begin_st, u_eq]; rfl) (by rw [Work.begin_st, u_eq]; exact sampled.1.2) fun n after => ?_
    refine ⟨own, ?_, ?_, ?_, ?_, ?_⟩
    · refine (congrArg SignalRec.supervision own).trans ?_
      rw [SignalRec.supervision, SignalRec.litLamp, show x.aspect = .stop from stop]
      rfl
    · show u.points = _
      rw [u_eq]
      rfl
    · show u.sections = _
      rw [u_eq]
      rfl
    · show (u.noting n).sameRoutes s
      rw [u_eq]
      exact ⟨rfl, rfl, rfl, rfl, rfl⟩
    · exact (after.counts .lampStopFail (by decide)).trans counted

end Sys2Proof.Machine
end

section
/-! PROOFS. PROVEN and LAPSE at the route's controller (O39). -/

namespace Sys2Proof.Machine

section
variable {s t : State} {w v : Work} {g : Fin 8} {i : RouteInst} {r : RouteRecord} {ref : RouteRef} {source : Nat} {tag : Byte}
  {p : Portion}

/-- The portion that a PROVEN or LAPSE reaches (R102). -/
theorem portionTold_of (own : ref.station = s.own) (found : s.instanceOf ref.route = some (g, i)) (member : p ∈ i.portions)
    (owner : p.owner = source) (tagged : p.tag = some tag) (holding : p.state.holding = true) :
    s.portionTold source tag ref = some (g, i) := by
  have told : (i.portions.any fun p => p.owner == source && p.tag == some tag && p.state.holding) = true :=
    List.any_eq_true.mpr ⟨p, member, by simp [owner, tagged, holding]⟩
  unfold State.portionTold
  rw [if_neg (not_not_intro own), found, Option.filter_some, if_pos told]

/-- What reaches a route is at most placed in the report queue (R117). -/
theorem reportEntered_near (w : Work) (g : Fin 8) : Near w (w.reportEntered g) := by
  unfold Work.reportEntered
  split
  · exact (Near.refl w).noted (noted_place w.st _)
  · exact .refl w

/-- A work with more noted gives rise to the same tasks. -/
theorem Near.emit (h : Near v w) (ts : List Task) : Near (v.emit ts) (w.emit ts) := h.map (f := fun w => w.emit ts) fun _ => rfl

theorem on_changePortion {f : Portion → Portion} (there : w.st.instances[g] = some i) :
    w.on (·.changePortion g source f) = w.on (·.setInstance g (some (i.withPortions source f))) :=
  congrArg (fun t : State => { w with st := t }) (changePortion_eq there)

/-- A PROVEN marks its portion, and the proof of the route is assessed (R102). -/
theorem portionProven_near (told : w.st.portionTold source tag ref = some (g, i)) (there : w.st.instances[g] = some i) :
    Near ((w.on (·.setInstance g (some (i.withPortions source fun p => { p with state := .proven })))).emit [.assess g])
      (w.portionProven source tag ref) := by
  unfold Work.portionProven
  rw [told]
  dsimp only
  rw [on_changePortion there]
  exact (reportEntered_near _ g).emit _

/-- The proof of a route that is not in POSITIONING is not assessed (R105). -/
theorem assess_idle (there : w.st.instances[g] = some i) (other : i.state ≠ .positioning) : w.assess g = w := by
  unfold Work.assess
  split
  · rfl
  · next j r runs =>
    obtain ⟨same, -⟩ := running_some runs
    obtain rfl : i = j := Option.some.inj (there.symm.trans same)
    exact if_neg fun all => other all.1

/-- The proof of a route in POSITIONING is complete and its clearing admitted: it asks for PROCEED (R57, R105). -/
theorem assess_clears (runs : w.st.running g = some (i, r)) (state : i.state = .positioning) (before : i.inStep = false)
    (complete : w.st.firstMissing g i r = none) (admitted : w.st.clearRefusal g (w.st.ownRef i.route) = none)
    (dark : w.st.signals[g].proceedInput = false) :
    w.assess g = (w.turn g).on fun s => (s.setInstance g (some { i with inStep := true })).setSignal g
      (w.st.signals[g].clearing (w.st.signalCfg g) (w.st.ownRef i.route)) := by
  have still : ((w.on (·.setInstance g (some { i with inStep := true }))).st.signals[g]).proceedInput = false := dark
  unfold Work.assess
  rw [runs]
  dsimp only
  rw [if_pos ⟨state, by simp [before], complete⟩, admitted]
  dsimp only
  rw [Work.stepIntoOpen, Work.on, changeInstance_some (running_some runs).1]
  exact clearSignal_awaits still

/-- An OPEN route that loses its proof is HELD, and its signal replaced (R108). -/
theorem loseProof_holds (there : w.st.instances[g] = some i) (isOpen : i.state = .open)
    (proceed : w.st.signals[g].aspect = .proceed) (dark : w.st.signals[g].stopInput = false) :
    w.loseProof g = (w.turn g).on fun s => (s.setSignal g (w.st.signals[g].replaced (w.st.signalCfg g))).setInstance g
      (some { i with state := .held }) := by
  have still : (w.st.setSignal g (w.st.signals[g].replaced (w.st.signalCfg g))).instances[g] = some i := there
  unfold Work.loseProof
  rw [there]
  dsimp only
  rw [if_pos isOpen, replaceSignal_awaits proceed dark]
  exact congrArg (fun t : State => { w.turn g with st := t }) (changeInstance_some still)

/-- Noting changes no step that a lapse of an OPEN route makes (R102, R108). -/
theorem portionLapsed_near {reason : LapseReason} (told : w.st.portionTold source tag ref = some (g, i))
    (there : w.st.instances[g] = some i) (isOpen : i.state = .open) (proceed : w.st.signals[g].aspect = .proceed)
    (dark : w.st.signals[g].stopInput = false) :
    Near ((w.turn g).on fun s => (s.setSignal g (w.st.signals[g].replaced (w.st.signalCfg g))).setInstance g
        (some { i.withPortions source fun p => { p with state := .lapsed reason } with state := .held }))
      (w.portionLapsed source tag ref reason) := by
  let j := i.withPortions source fun p => { p with state := .lapsed reason }
  let u := w.on (·.setInstance g (some j))
  have lapsed : Near u ((w.on (·.changePortion g source fun p => { p with state := .lapsed reason })).reportEntered g) := by
    rw [on_changePortion there]
    exact reportEntered_near u g
  have early : ¬ (i.beingSet = true ∧ reason = .failed) := by simp [RouteInst.beingSet, isOpen]
  have held (m : Notes) : (u.noting m).st.instances[g] = some j := set_own (v := w.st.instances) g (some j)
  have holds (m : Notes) : (u.noting m).loseProof g = (((w.turn g).on fun s =>
      (s.setSignal g (w.st.signals[g].replaced (w.st.signalCfg g))).setInstance g (some { j with state := .held })).noting m) := by
    rw [loseProof_holds (held m) isOpen (by exact proceed) (by exact dark)]
    simp [u, Work.on, Work.turn, State.setInstance, State.setSignal, Work.noting, State.noting, State.signalCfg]
  have near : Near ((w.turn g).on fun s => (s.setSignal g (w.st.signals[g].replaced (w.st.signalCfg g))).setInstance g
      (some { j with state := .held })) (((w.on (·.changePortion g source fun p => { p with state := .lapsed reason })).reportEntered g).loseProof g) := by
    have now := holds u.st.notes
    rw [show u.noting u.st.notes = u from rfl] at now
    have moved := lapsed.map (f := fun w => w.loseProof g) fun m => (holds m).trans (by rw [now]; rfl)
    rw [now] at moved
    exact moved
  unfold Work.portionLapsed
  rw [told]
  dsimp only
  rw [if_neg early]
  exact near

end

/-- Settles O39: a PROVEN leads to one assessment, and a LAPSE is a loss of proof at once. -/
theorem proofAndLapseReachPortion : Obligations.ProofAndLapseReachPortion := by
  intro s source tag ref g i p rest ready own found member owner tagged holding proven
  have there := (instanceOf_get found).1
  have route := (instanceOf_get found).2
  have told (x : RawTelegram) : (s.taking x rest).portionTold source tag ref = some (g, i) :=
    portionTold_of (own.trans (own_of_address (State.taking_address s x rest)).symm) found member owner tagged holding
  have proving (x : RawTelegram) := portionProven_near (w := Work.begin (s.taking x rest)) (told x) (by exact there)
  have held (x : RawTelegram) : ((s.taking x rest).setInstance g (some proven)).instances[g] = some proven :=
    set_own (v := s.instances) g (some proven)
  refine ⟨fun hands other => ?_, fun r hands runs state before complete admitted dark => ?_,
    fun reason hands isOpen proceed dark => ?_⟩
  · obtain ⟨x, -, done⟩ := exec_hands (c := .proven) rfl hands
    let w := Work.begin ((s.taking x rest).setInstance g (some proven))
    have leads := Leads.one (start := { s with recvQueue := rest }) (v := w) (x := .assess g) (m := w.st.notes) (v' := w) rfl
      (fun n => assess_idle (w := w.noting n) (held x) other) rfl
    refine .of_leads (v := w.emit [.assess g]) ready done rfl (proving x) (by decide) leads rfl rfl ready.2 fun n _ => ?_
    exact ⟨by simp [w], ⟨by simp [w], by simp [w], by simp [w]⟩, by simp [w], set_own (v := s.instances) g (some proven)⟩
  · obtain ⟨x, -, done⟩ := exec_hands (c := .proven) rfl hands
    let w := Work.begin ((s.taking x rest).setInstance g (some proven))
    let signal := s.signals[g].clearing (s.signalCfg g) ref
    have sameRef : (s.taking x rest).ownRef proven.route = ref := by
      rw [taking_ownRef, show proven.route = ref.route from route, State.ownRef, ← own]
    let v := (w.turn g).on fun t => (t.setInstance g (some { proven with inStep := true })).setSignal g signal
    have clears (n : Notes) : (w.noting n).take (.assess g) = v.noting n := by
      refine (assess_clears (w := w.noting n) (r := r) (running_of (held x) ?_) state before ?_ ?_ dark).trans ?_
      · exact (running_some runs).2
      · exact complete
      · rw [show (w.noting n).st.ownRef proven.route = ref from sameRef]
        exact admitted
      · rw [show (w.noting n).st.ownRef proven.route = ref from sameRef]
        rfl
    have leads := Leads.one (start := { s with recvQueue := rest }) (v := w) (x := .assess g) (m := w.st.notes) rfl clears rfl
    refine .of_leads (v := w.emit [.assess g]) (v' := v.noting w.st.notes) ready done rfl (proving x) (by decide) leads rfl
      (by simp [v, w]) (by simp [v, w, ready.2]) fun n _ => ?_
    have shown : (s.signals.set g signal)[g] = signal := set_own ..
    refine ⟨by simp [v, w], by simp [v, w], by simp [v, w], by simp [v, w], ?_, ?_, ?_, ?_⟩
    · exact set_own (v := s.instances.set g (some proven)) g _
    · exact congrArg SignalRec.aspect shown
    · exact congrArg SignalRec.proceedLamp shown
    · exact congrArg SignalRec.clearingRoute shown
  · obtain ⟨x, -, done⟩ := exec_hands (c := .lapse) rfl hands
    let signal := s.signals[g].replaced (s.signalCfg g)
    let v := ((Work.begin (s.taking x rest)).turn g).on fun t => (t.setSignal g signal).setInstance g
      (some { i.withPortions source fun p => { p with state := .lapsed reason } with state := .held })
    have lapsed : Near v _ := portionLapsed_near (w := Work.begin (s.taking x rest)) (reason := reason) (told x) (by exact there)
      isOpen (by exact proceed) (by exact dark)
    refine .of_leads (v := v) (v' := v) (k := 0) ready done rfl lapsed (by decide) .done rfl rfl ready.2 fun n _ => ?_
    have shown : (s.signals.set g signal)[g] = signal := set_own ..
    refine ⟨by simp [v], congrArg SignalRec.aspect shown, congrArg SignalRec.stopLamp shown,
      congrArg SignalRec.proceedLamp shown, by simp [v], by simp [v], ?_⟩
    exact set_own (v := s.instances) g _

end Sys2Proof.Machine
end

section
/-! PROOFS. An accepted SET (O42). -/

namespace Sys2Proof.Machine

/-! ## Events that change no section and no signal but their locks -/

section
variable {s t b start : State} {k : Nat} {ts : List Task} {w : Work} {P : Work → Prop} {Q : State → Prop}

/-- Locks are not shown: where nothing else of signals and sections has changed, the end of an event places subjects
alone. -/
theorem conclude_relocked {before : State} (locks : w.st.relocked before) (turned : w.turned = []) (answers : w.answers = []) :
    State.conclude before w = State.placeChanged before w.st := by
  have still {α : Type} {f : State → α → State} (same : ∀ x, f w.st x = w.st) (xs : List α) : xs.foldl f w.st = w.st := by
    induction xs with
    | nil => rfl
    | cons x xs ih => rw [List.foldl_cons, same, ih]
  have signals (g : Fin 8) : State.notifySignal before w.turned w.st g = w.st := by
    obtain ⟨l, only⟩ := locks.signals g
    refine if_pos ⟨?_, by simp [turned]⟩
    unfold State.signalNotice
    rw [only]
  have sections (i : Fin 16) : State.notifySection before w.st i = w.st := by
    obtain ⟨l, only⟩ := locks.sections i
    unfold State.notifySection
    dsimp only
    rw [only]
    exact if_pos ⟨rfl, rfl⟩
  unfold State.conclude
  dsimp only
  rw [still signals, still sections, answers]
  rfl

/-- The work ends an event that began in `before`, having changed no section and no signal but their locks. -/
structure RestsLocked (before start : State) (Q : State → Prop) (w : Work) : Prop where
  returns : w.returns = []
  turned : w.turned = []
  answers : w.answers = []
  kept : start.keep w.st = w.st
  left : w.st.agenda = []
  locks : w.st.relocked before
  holds : Q w.st

/-- An event whose tasks arrive there ends with the subjects placed and the report queue drained. -/
theorem event_locks {before : State} {work : Work → Work} (ready : before.ready) (begun : start.agenda = before.agenda)
    (few : k < taskBound) (arrives : Arrives start k (work (Work.begin start)).out
      { work (Work.begin start) with out := [] } (RestsLocked before start Q)) :
    ∃ b, before.event start work = .next (State.placeChanged before b).drained ∧ Q b := by
  obtain ⟨w', done, rests⟩ := arrives taskBound few
  rw [taskBound, ← List.append_nil (Work.out _), ← settle_out start 4095] at done
  have settled : start.settled work = w' := by
    unfold State.settled
    dsimp only
    rw [begun, ready.2, List.nil_append, taskBound, ← List.append_nil (Work.out _), done, returnFlank_of_nil rests.returns]
    show ({ w' with st := start.keep { w'.st with agenda := [] } } : Work) = w'
    rw [← rests.left, rests.kept]
  refine ⟨w'.st, ?_, rests.holds⟩
  rw [event_of_live ready.1, settled, conclude_relocked rests.locks rests.turned rests.answers]

theorem Follows.of_eq {ts' : List Task} (h : Follows start k ts w P) (same : ts = ts') : Follows start k ts' w P := same ▸ h

/-- Tasks that do nothing but give rise to one that does nothing are passed over. -/
theorem Follows.told (quiet : w.out = []) (xs : List Task)
    (each : ∀ x ∈ xs, ∃ ys : List Task, ys.length ≤ 1 ∧ (∀ rs, (w.reporting rs).take x = (w.emit ys).reporting rs)
      ∧ ∀ y ∈ ys, ∀ rs, (w.reporting rs).take y = w.reporting rs)
    (rest : Follows start k ts w P) : Follows start (k + 2 * xs.length) (xs ++ ts) w P := by
  have same : ({ w with out := [] } : Work) = w := by rw [← quiet]
  induction xs with
  | nil => exact rest
  | cons x xs ih =>
    obtain ⟨ys, few, taken, idle⟩ := each x List.mem_cons_self
    have next := ih fun y known => each y (List.mem_cons_of_mem x known)
    have passed := (Follows.idle quiet ys idle next).mono (k' := k + 2 * xs.length + 1) (by omega)
    refine (Follows.step (w₁ := w.emit ys) (fun rs => ?_) ?_ : Follows start (k + 2 * xs.length + 1 + 1) _ _ _)
    · rw [same]
      exact taken rs
    · rw [show (w.emit ys).out = ys by simp [Work.emit, quiet], show ({ w.emit ys with out := [] } : Work) = w from same]
      exact passed

end

/-! ## The routes that a set begins (R92) -/

/-- The state with locks written, a route instance created and a command answered. -/
def State.setting (s : State) (secs : Vector SectionRec 16) (pts : Vector PointRec 8) (sigs : Vector SignalRec 8) (g : Fin 8)
    (j : RouteInst) (desk : Nat) (body : Body) : State :=
  { s with
    sections := secs, points := pts, signals := sigs, instances := s.instances.set g (some j)
    sendQueue := s.sendQueue ++ [placed desk body], fresh := s.fresh + 1 }

/-- The state in which a boundary has begun to ask its neighbour for a route (R160). -/
def State.seeking (s : State) (b : Fin 4) (n : Nat) (c : BoundaryCfg) : State :=
  { s with
    tagCounter := s.newTag
    sendQueue := s.sendQueue ++ [placed c.neighbour (.directionRequest s.newTag c.neighbourIndex)]
    requests := s.requests ++ [⟨s.newTag, c.neighbour, .direction b, .queued⟩]
    boundaries := s.boundaries.set b { s.boundaries[b] with
      direction := .asking .neutral, waiting := s.boundaries[b].waiting ++ [n] } }

section
variable {secs : Vector SectionRec 16} {pts : Vector PointRec 8} {sigs : Vector SignalRec 8} {g : Fin 8} {j : RouteInst}
  {desk : Nat} {body : Body} {b : Fin 4} {n : Nat} {c : BoundaryCfg}

@[simp] theorem setting_resetHeld (s : State) : (s.setting secs pts sigs g j desk body).resetHeld = s.resetHeld := rfl
@[simp] theorem setting_service (s : State) : (s.setting secs pts sigs g j desk body).service = s.service := rfl
@[simp] theorem setting_address (s : State) : (s.setting secs pts sigs g j desk body).address = s.address := rfl
@[simp] theorem setting_cfg (s : State) : (s.setting secs pts sigs g j desk body).cfg = s.cfg := rfl
@[simp] theorem setting_boundaries (s : State) :
    (s.setting secs pts sigs g j desk body).boundaries = s.boundaries := rfl
@[simp] theorem setting_remote (s : State) : (s.setting secs pts sigs g j desk body).remote = s.remote := rfl
@[simp] theorem setting_lastEnded (s : State) : (s.setting secs pts sigs g j desk body).lastEnded = s.lastEnded := rfl
@[simp] theorem setting_reservations (s : State) :
    (s.setting secs pts sigs g j desk body).reservations = s.reservations := rfl
@[simp] theorem setting_register (s : State) : (s.setting secs pts sigs g j desk body).register = s.register := rfl
@[simp] theorem setting_recvQueue (s : State) : (s.setting secs pts sigs g j desk body).recvQueue = s.recvQueue := rfl
@[simp] theorem setting_tagCounter (s : State) :
    (s.setting secs pts sigs g j desk body).tagCounter = s.tagCounter := rfl
@[simp] theorem setting_requests (s : State) : (s.setting secs pts sigs g j desk body).requests = s.requests := rfl
@[simp] theorem setting_peers (s : State) : (s.setting secs pts sigs g j desk body).peers = s.peers := rfl
@[simp] theorem setting_reports (s : State) : (s.setting secs pts sigs g j desk body).reports = s.reports := rfl
@[simp] theorem setting_agenda (s : State) : (s.setting secs pts sigs g j desk body).agenda = s.agenda := rfl
theorem setting_points (s : State) : (s.setting secs pts sigs g j desk body).points = pts := rfl
@[simp] theorem setting_sendQueue (s : State) :
    (s.setting secs pts sigs g j desk body).sendQueue = s.sendQueue ++ [placed desk body] := rfl
theorem setting_instance (s : State) : (s.setting secs pts sigs g j desk body).instances[g] = some j := set_own ..
@[simp] theorem setting_newTag (s : State) : (s.setting secs pts sigs g j desk body).newTag = s.newTag := rfl
@[simp] theorem setting_ownRef (s : State) (n : Nat) : (s.setting secs pts sigs g j desk body).ownRef n = s.ownRef n := rfl
@[simp] theorem setting_routeRecord (s : State) (n : Nat) :
    (s.setting secs pts sigs g j desk body).routeRecord n = s.routeRecord n := rfl
@[simp] theorem setting_isPresent (s : State) (a : Nat) :
    (s.setting secs pts sigs g j desk body).isPresent a = s.isPresent a := rfl
@[simp] theorem keep_setting (u s : State) :
    u.keep (s.setting secs pts sigs g j desk body) = (u.keep s).setting secs pts sigs g j desk body := rfl

@[simp] theorem seeking_resetHeld (s : State) : (s.seeking b n c).resetHeld = s.resetHeld := rfl
@[simp] theorem seeking_service (s : State) : (s.seeking b n c).service = s.service := rfl
@[simp] theorem seeking_address (s : State) : (s.seeking b n c).address = s.address := rfl
@[simp] theorem seeking_cfg (s : State) : (s.seeking b n c).cfg = s.cfg := rfl
@[simp] theorem seeking_sections (s : State) : (s.seeking b n c).sections = s.sections := rfl
@[simp] theorem seeking_points (s : State) : (s.seeking b n c).points = s.points := rfl
@[simp] theorem seeking_signals (s : State) : (s.seeking b n c).signals = s.signals := rfl
@[simp] theorem seeking_remote (s : State) : (s.seeking b n c).remote = s.remote := rfl
@[simp] theorem seeking_instances (s : State) : (s.seeking b n c).instances = s.instances := rfl
@[simp] theorem seeking_lastEnded (s : State) : (s.seeking b n c).lastEnded = s.lastEnded := rfl
@[simp] theorem seeking_reservations (s : State) : (s.seeking b n c).reservations = s.reservations := rfl
@[simp] theorem seeking_register (s : State) : (s.seeking b n c).register = s.register := rfl
@[simp] theorem seeking_recvQueue (s : State) : (s.seeking b n c).recvQueue = s.recvQueue := rfl
@[simp] theorem seeking_peers (s : State) : (s.seeking b n c).peers = s.peers := rfl
@[simp] theorem seeking_reports (s : State) : (s.seeking b n c).reports = s.reports := rfl
@[simp] theorem seeking_agenda (s : State) : (s.seeking b n c).agenda = s.agenda := rfl
@[simp] theorem seeking_tagCounter (s : State) : (s.seeking b n c).tagCounter = s.newTag := rfl
@[simp] theorem seeking_requests (s : State) :
    (s.seeking b n c).requests = s.requests ++ [⟨s.newTag, c.neighbour, .direction b, .queued⟩] := rfl
@[simp] theorem seeking_sendQueue (s : State) : (s.seeking b n c).sendQueue =
    s.sendQueue ++ [placed c.neighbour (.directionRequest s.newTag c.neighbourIndex)] := rfl
theorem seeking_boundary (s : State) : (s.seeking b n c).boundaries[b] = { s.boundaries[b] with
    direction := .asking .neutral, waiting := s.boundaries[b].waiting ++ [n] } := set_own ..
theorem keep_seeking {u s : State} (kept : u.keep s = s) : u.keep (s.seeking b n c) = s.seeking b n c := by
  conv_rhs => rw [← kept]
  rfl

end

section
variable {s t : State} {w : Work} {secs : Vector SectionRec 16} {pts : Vector PointRec 8} {sigs : Vector SignalRec 8}
  {told : List Task} {r : RouteRecord} {desk n : Nat} {tag : Byte} {b : Fin 4} {c : BoundaryCfg}

/-- A boundary that is NEUTRAL asks its neighbour for a route (R160). -/
theorem askDirection_seeks (neutral : w.st.boundaries[b].direction = .neutral) (named : w.st.cfg.boundaries[b] = some c)
    (there : w.st.isPresent c.neighbour = true) (free : w.st.requests.length < 16) (room : w.st.sendQueue.length + 2 ≤ 32) :
    w.askDirection b n = w.on (·.seeking b n c) := by
  have asked : (w.st.request c.neighbour (.direction b) fun tag => .directionRequest tag c.neighbourIndex)
      = (w.st.requesting c.neighbour w.st.newTag (.direction b) (.directionRequest w.st.newTag c.neighbourIndex),
          w.st.newTag, none) :=
    request_places (fun _ => there) free (room_of_le (cls := Kind.directionRequest.cls) room)
  unfold Work.askDirection
  dsimp only
  rw [neutral]
  dsimp only
  rw [named]
  dsimp only
  rw [asked]
  rfl

/-- An admitted SET that takes over nothing, up to what follows its answer (R92). -/
theorem startRoute_sets (alone : w.st.takeovers r = [])
    (wrote : w.writeLocks (w.st.ownRef r.number) (localPart r) =
      { w with st := w.st.recording secs pts sigs, out := w.out ++ told }) (room : w.st.sendQueue.length + 4 ≤ 32) :
    let answer := Body.commandAnswer tag 1 none w.st.freeByte []
    let j := newInstance r w.st.cfg.settingLimit
    w.startRoute r desk tag = match exitBoundary r with
      | some b => ({ w with
          st := w.st.setting secs pts sigs r.entry { j with awaitingDirection := true } desk answer
          out := w.out ++ told } : Work).askDirection b r.number
      | none => ({ w with st := w.st.setting secs pts sigs r.entry j desk answer, out := w.out ++ told } : Work).emit
          [.goOn r.entry] := by
  intro answer j
  unfold Work.startRoute
  dsimp only
  rw [alone, wrote, List.foldl_nil]
  have answered : (({ w with st := w.st.recording secs pts sigs, out := w.out ++ told } : Work).on fun s =>
      s.setInstance r.entry (some (newInstance r s.cfg.settingLimit))).on (·.answerDesk desk tag 1 none) =
      { w with st := w.st.setting secs pts sigs r.entry j desk answer, out := w.out ++ told } :=
    congrArg (fun t : State => ({ w with st := t, out := w.out ++ told } : Work)) (answerDesk_of_room _ _ _ _ _ _ room)
  rw [answered]
  cases exitBoundary r with
  | none => rfl
  | some b =>
    have waits : (w.st.setting secs pts sigs r.entry j desk answer).changeInstance r.entry (fun i =>
        { i with awaitingDirection := true }) =
        w.st.setting secs pts sigs r.entry { j with awaitingDirection := true } desk answer := by
      rw [changeInstance_some (setting_instance ..)]
      simp [State.setting, State.setInstance]
    exact congrArg (fun t : State => ({ w with st := t, out := w.out ++ told } : Work).askDirection b r.number) waits

/-- What reaches a route in SETTING is not reported (R117). -/
theorem reportRoute_setting (setting : ∀ g i, w.st.instanceOf n = some (g, i) → i.state = .setting) : w.reportRoute n = w := by
  cases found : w.st.instanceOf n with
  | none =>
    unfold Work.reportRoute
    rw [found]
  | some x => exact reportRoute_of_not_entered found (by rw [setting _ _ found]; decide)

/-- A point that has come to its position tells a route in SETTING nothing that has an effect (R48, R103). -/
theorem take_achieved {p : Fin 8} (setting : ∀ g i, w.st.instanceOf n = some (g, i) → i.state = .setting) :
    w.take (.result p (.holder (w.st.ownRef n)) .achieved) = w := by
  have quiet : w.reportRoute (w.st.ownRef n).route = w := reportRoute_setting setting
  show w.tellHolder p (w.st.ownRef n) .achieved = w
  unfold Work.tellHolder
  dsimp only
  rw [if_pos (show (w.st.ownRef n).station = w.st.own from rfl), quiet]
  split
  · exact if_neg Bool.false_ne_true
  · rfl

/-- The route of a point that is proven is assessed (R49, R103). -/
theorem take_regained {p : Fin 8} (setting : ∀ g i, w.st.instanceOf n = some (g, i) → i.state = .setting) :
    w.take (.proofToHolder p (w.st.ownRef n) .regained) = w.emit ((w.st.instanceOf n).elim [] fun x => [.assess x.1]) := by
  have quiet : w.reportRoute (w.st.ownRef n).route = w := reportRoute_setting setting
  show w.tellHolderProof (w.st.ownRef n) .regained = _
  unfold Work.tellHolderProof
  dsimp only
  rw [if_pos (show (w.st.ownRef n).station = w.st.own from rfl), quiet, show (w.st.ownRef n).route = n from rfl]
  cases w.st.instanceOf n with
  | none => exact (emit_nil w).symm
  | some x => rfl

/-- What the points called for a route in SETTING tell it has no effect (R48, R49, R105). -/
theorem follows_called {start u : State} {k : Nat} {ts : List Task} {P : Work → Prop}
    (setting : ∀ g i, u.instanceOf n = some (g, i) → i.state = .setting) (calls : ∀ x ∈ told, ofCall (u.ownRef n) x)
    (rest : Follows start k ts (Work.begin u) P) : Follows start (k + 2 * told.length) (told ++ ts) (Work.begin u) P := by
  refine .told rfl told (fun x known => ?_) rest
  obtain ⟨p, rfl | rfl⟩ := calls x known
  · exact ⟨[], by simp, fun rs => take_achieved (w := Work.begin (u.reporting rs)) setting, by simp⟩
  · refine ⟨(u.instanceOf n).elim [] fun x => [.assess x.1], ?_,
      fun rs => take_regained (w := Work.begin (u.reporting rs)) setting, fun y mine rs => ?_⟩
    · cases u.instanceOf n <;> simp
    · cases found : u.instanceOf n with
      | none => simp [found] at mine
      | some x =>
        obtain rfl : y = .assess x.1 := by simpa [found] using mine
        exact assess_idle (w := Work.begin (u.reporting rs)) (instanceOf_get found).1 (by rw [setting _ _ found]; decide)

/-! ## What an admitted SET has found (R14, R16, R91) -/

/-- A local requirement passes with its point unlocked, where nothing is taken over. -/
theorem admitted_of_local (passes : s.judge (some r.entry) [] (localPart r) = none) (alone : s.takeovers r = [])
    (callable : ∀ q ∈ localPart r, s.callable q.elem q.state) : ∀ q ∈ localPart r, q.admitted s := by
  intro q known p named
  obtain ⟨e, seen, element, passed, -⟩ := (judge_none passes).1 q known
  obtain rfl : e = .points p := Option.some.inj (element.symm.trans named)
  obtain ⟨position, unlocked, unclaimed⟩ := judgeOne_points passed
  refine ⟨position, ?_, callable q known p named, unclaimed⟩
  cases takes : s.takesOver (some r.entry) (.points p) q with
  | false => exact unlocked takes
  | true =>
    have none := List.filterMap_eq_nil_iff.mp alone q known
    rw [named] at none
    dsimp only at none
    rw [takes, if_pos rfl] at none
    exact Option.map_eq_none_iff.mp none

/-- A set names at most the 36 elements of an area (R2). -/
theorem judged_few {entry : Option (Fin 8)} {qs : List LockReq} (passes : s.judge entry [] qs = none) : qs.length ≤ 36 := by
  obtain ⟨each, apart⟩ := judge_none passes
  have once : (qs.map (·.elem)).Nodup := by
    refine List.pairwise_map.mpr (apart.imp fun differ same => differ ?_)
    rw [same]
  have inside : qs.map (·.elem) ⊆ List.range 36 := by
    intro k known
    obtain ⟨q, member, rfl⟩ := List.mem_map.mp known
    obtain ⟨e, -, element, -⟩ := each q member
    refine List.mem_range.mpr ?_
    rw [elemNumber_of element]
    cases e with
    | track i => show i.val < 36; omega
    | points p => show 16 + p.val < 36; omega
    | signal g => show 24 + g.val < 36; omega
    | boundary b => show 32 + b.val < 36; omega
  have few := (once.subperm inside).length_le
  rwa [List.length_map, List.length_range] at few

theorem route_of_none {g : Fin 8} {i : RouteInst} (fresh : s.instanceOf n = none) (there : s.instances[g] = some i) :
    i.route ≠ n := by
  intro route
  have all : ∀ g : Fin 8, g ∈ allEight := by decide
  have missing := List.findSome?_eq_none_iff.mp fresh g (all g)
  rw [there] at missing
  dsimp only at missing
  rw [if_pos route] at missing
  exact nomatch missing

theorem routeRecord_number (known : s.routeRecord n = some r) : r.number = n := by
  have named := List.find?_some known
  simpa using named

/-- Where a SET is not refused every owner is PRESENT, and so is the neighbour that is to be asked (R91). -/
theorem setRefusal_none (passes : s.setRefusal r = none) :
    (∀ o ∈ ownersOf r, s.isPresent o = true) ∧ ∀ b c, exitBoundary r = some b → s.cfg.boundaries[b] = some c →
      s.boundaries[b].direction = .neutral → s.isPresent c.neighbour = true := by
  unfold State.setRefusal at passes
  dsimp only at passes
  have owners (absent : ((ownersOf r).find? fun o => !s.isPresent o).map
      (fun o => (⟨.peerAbsent, (ownedIndices r o).headD 0⟩ : Failure)) = none) : ∀ o ∈ ownersOf r, s.isPresent o = true := by
    intro o known
    simpa using List.find?_eq_none.mp (Option.map_eq_none_iff.mp absent) o known
  split at passes
  · next exit => exact ⟨owners passes, fun b c is => by rw [exit] at is; exact nomatch is⟩
  · next b exit =>
    split at passes
    · exact nomatch passes
    · split at passes
      · exact nomatch passes
      · split at passes
        · next missing =>
          rw [passes] at missing
          exact nomatch missing
        · next found =>
          split at passes
          · exact nomatch passes
          · next asked =>
            refine ⟨owners (Option.not_isSome_iff_eq_none.mp found), fun b' c is named neutral => ?_⟩
            obtain rfl : b = b' := Option.some.inj (exit.symm.trans is)
            have asks : (s.boundaries[b].direction != .out) = true := by rw [neutral]; rfl
            by_contra away
            refine asked ?_
            rw [asks, named]
            simpa using away

end

/-- Settles O42: what the called points tell the new route has no effect, and then the route asks. -/
theorem acceptedSetLocksAndAsks : Obligations.AcceptedSetLocksAndAsks := by
  intro s desk tag n r rest ready hands service known free fresh accepted passes alone callable room few locked
  obtain ⟨x, done⟩ := exec_command (c := .set) rfl hands
  have number := routeRecord_number known
  obtain ⟨owners, neighbour⟩ := setRefusal_none accepted
  obtain ⟨each, apart⟩ := judge_none passes
  let u := s.taking x rest
  obtain ⟨secs, pts, sigs, told, wrote, -, written, calls, short, locks⟩ := writeLocks_writes (w := Work.begin u)
    (ref := s.ownRef n) (qs := localPart r) (fun q member => by obtain ⟨e, -, named, -⟩ := each q member; rw [named]; rfl) apart
    (admitted_of_local (s := s) passes alone callable)
  have most := judged_few passes
  have begins : (Work.begin u).takeSet desk tag n = (Work.begin u).startRoute r desk tag := by
    refine (takeSet_of_free service known free ((setRefusal_taking s rest x r).trans accepted)).trans ?_
    rw [judge_of_one (s := s) (fun _ _ _ _ => by rfl), passes]
  have starts := startRoute_sets (w := Work.begin u) (r := r) (desk := desk) (tag := tag) (secs := secs) (pts := pts) (sigs := sigs)
    (told := told) alone (by rw [number]; exact wrote) room
  let answer := Body.commandAnswer tag 1 none s.freeByte []
  have settingIs (j : RouteInst) (state : j.state = .setting) (g : Fin 8) (i : RouteInst)
      (found : (u.setting secs pts sigs r.entry j desk answer).instanceOf n = some (g, i)) : i.state = .setting := by
    obtain ⟨there, route⟩ := instanceOf_get found
    rcases eq_or_ne g r.entry with rfl | other
    · rw [setting_instance] at there
      exact Option.some.inj there ▸ state
    · exact absurd route (route_of_none fresh ((set_other (v := s.instances) _ other).symm.trans there))
  have calls' (x : Task) (member : x ∈ told) : ofCall (u.ownRef n) x := calls x member
  have lockedIn (t : State) (sections : t.sections = secs) (points : t.points = pts) (signals : t.signals = sigs) : locked t := by
    have same (e : Elem) : t.sameAt (u.recording secs pts sigs) e := by
      cases e with
      | track i => exact congrArg (·[i]) sections
      | points p => exact congrArg (·[p]) points
      | signal g => exact congrArg (·[g]) signals
      | boundary b => trivial
    refine ⟨fun q member role e element inside => ?_, fun q member p element => ?_⟩
    · obtain ⟨l, lock, ref, kind, -⟩ := ((written q member e element).kept (same e)).lock role inside
      exact ⟨l, lock, ref, kind⟩
    · exact (written q member _ element).kept (same _) |>.called p rfl
  have ended (v : State) (ts : List Task) (b : State) (k : Nat) (small : k < taskBound)
      (taken : (Work.begin u).takeSet desk tag n = (Work.begin b).emit ts)
      (follows : Follows { s with recvQueue := rest } k ts (Work.begin b)
        (RestsLocked s { s with recvQueue := rest } fun t => ∃ rs, t = v.reporting rs)) (P : State → Prop)
      (h : ∀ rs, P (v.reporting rs)) : CompletesDraining .set s P := by
    obtain ⟨t, ends, rs, rfl⟩ := event_locks (work := fun _ => (Work.begin b).emit ts) (before := s)
      (start := { s with recvQueue := rest }) ready rfl small (follows b.reports)
    exact .of_placed (done.trans ((event_congr taken).trans ends)) fun rs' => h rs'
  refine ⟨fun o os exit order => ?_, fun b c exit named neutral => ?_⟩
  · let j := newInstance r s.cfg.settingLimit
    let b := u.setting secs pts sigs r.entry j desk answer
    let p : Portion := ⟨o, ownedIndices r o, .none, none⟩
    let v := b.askingOwner r.entry j r p
    rw [exit] at starts
    replace starts : (Work.begin u).startRoute r desk tag = (Work.begin b).emit (told ++ [.goOn r.entry]) := starts
    have first : j.portions = p :: os.map fun o => ⟨o, ownedIndices r o, .none, none⟩ := by
      show (ownersOf r).map _ = _
      rw [order]
      rfl
    have runs : b.running r.entry = some (j, r) :=
      running_of (setting_instance ..) (by rw [setting_routeRecord, show j.route = n from number]; exact known)
    refine ended v (told ++ [.goOn r.entry]) b (1 + 2 * told.length) (by rw [taskBound]; omega) (begins.trans starts)
      (follows_called (settingIs j rfl) calls' (follows_goOn_asks (n := p) runs rfl ?_ ?_ few ?_ fun rs => ?_)) _ fun rs => ?_
    · rw [first]
      rfl
    · rw [setting_isPresent]
      exact (taking_isPresent ..).trans (owners o (by rw [order]; exact List.mem_cons_self))
    · rw [setting_sendQueue, List.length_append]
      show s.sendQueue.length + 1 + 2 ≤ 32
      omega
    · exact ⟨rfl, rfl, rfl, (keep_reporting ..).trans (congrArg (State.reporting · rs) (keep_askingOwner (by simp [b, u]))),
        by simp [b, u, ready.2], ⟨locks.sections, locks.signals⟩, rs, rfl⟩
    · refine ⟨by simp [v, b, u], lockedIn _ rfl rfl rfl, ?_, by simp [v, b, u], by simp [v, b, u], s.freeByte, ?_⟩
      · refine ⟨_, askingOwner_instance .., number, rfl, rfl, rfl, rfl, ?_⟩
        show (j.portions.map _).head? = _
        rw [first]
        simp [p, v]
      · simp [v, b, u, answer, p, j, show (newInstance r s.cfg.settingLimit).route = n from number]
  · let j := { newInstance r s.cfg.settingLimit with awaitingDirection := true }
    let d := u.setting secs pts sigs r.entry j desk answer
    let v := d.seeking b n c
    rw [exit] at starts
    have taken : (Work.begin u).takeSet desk tag n = (Work.begin v).emit told := by
      rw [begins, starts, number]
      refine (askDirection_seeks (w := { Work.begin u with st := d, out := told }) neutral named ?_ few ?_).trans rfl
      · rw [setting_isPresent]
        exact (taking_isPresent ..).trans (neighbour b c exit named neutral)
      · show (d.sendQueue).length + 2 ≤ 32
        rw [setting_sendQueue, List.length_append]
        show s.sendQueue.length + 1 + 2 ≤ 32
        omega
    refine ended v told v (0 + 2 * told.length) (by rw [taskBound]; omega) taken ?_ _ fun rs => ?_
    · refine (?_ : Follows _ _ (told ++ []) _ _).of_eq (List.append_nil told)
      refine follows_called (u := v) (settingIs j rfl) calls' (.done fun rs => ?_)
      exact ⟨rfl, rfl, rfl, (keep_reporting ..).trans (congrArg (State.reporting · rs) (keep_seeking (by simp [d, u]))),
        ready.2, ⟨locks.sections, locks.signals⟩, rs, rfl⟩
    · refine ⟨by simp [v, d, u], lockedIn _ rfl rfl rfl, by simp [v, d, u], ?_, ?_, ?_, s.freeByte, ?_⟩
      · exact ⟨j, set_own (v := s.instances) r.entry (some j), number, rfl, rfl, rfl, rfl⟩
      · exact seeking_boundary (c := c) d
      · simp [v, d, u]
      · simp [v, d, u, answer]

end Sys2Proof.Machine
end

section
/-! PROOFS. What the release of requirements does (R9, R116): `Frees` says what freeing elements, telegrams to owners
and pending requests withdrawn leave as it was, and which locks they take away. -/

namespace Sys2Proof.Machine

/-! ## Freeing (R9) -/

/-- A route instance but for its fault marks. -/
def RouteInst.unmarked (i : RouteInst) : RouteInst := { i with faultMarks := [] }

/-- A lock is as it was; or it is gone; or it was the route's, and is release-pending under a train (R9). -/
def State.lockKept (ref : RouteRef) (s t : State) (e : Elem) : Prop :=
  t.lockOf e = s.lockOf e ∨ t.lockOf e = none
    ∨ ∃ l, s.lockOf e = some l ∧ l.ref = ref ∧ t.lockOf e = some { l with releasePending := true } ∧ s.underTrain e = true

/-- What a release leaves as it was. -/
structure Releases (ref : RouteRef) (s t : State) : Prop where
  cfg : t.cfg = s.cfg
  address : t.address = s.address
  peers : t.peers = s.peers
  reservations : t.reservations = s.reservations
  counts : ∀ k, k ≠ .undelivered → t.counts[faultIndex k] = s.counts[faultIndex k]
  filter : ∀ i : Fin 16, t.sections[i].filter = s.sections[i].filter
  train : ∀ i : Fin 16, t.sections[i].train = none
    ∨ t.sections[i].train = s.sections[i].train ∧ (t.sections[i].lock = none → s.sections[i].lock = none)
  drive : ∀ p : Fin 8, t.points[p].drive = s.points[p].drive
  aspect : ∀ g : Fin 8, s.signals[g].aspect = .stop → t.signals[g].aspect = .stop
  locks : ∀ e, s.lockKept ref t e

/-- What freeing elements leaves as it was, besides. -/
structure Frees (ref : RouteRef) (s t : State) : Prop extends Releases ref s t where
  boundaries : t.boundaries = s.boundaries
  marks : ∀ g : Fin 8, t.instances[g].map RouteInst.unmarked = s.instances[g].map RouteInst.unmarked

/-- Of the route's locks on an element none is left but one that is release-pending under a train (R9). -/
def State.isFreed (ref : RouteRef) (s t : State) (e : Elem) : Prop :=
  ∀ l, t.lockOf e = some l → l.ref = ref → l.releasePending = true ∧ s.underTrain e = true

section
variable {ref : RouteRef} {s t u : State} {e : Elem} {g : Fin 8}

theorem underTrain_of (cfg : t.cfg = s.cfg) (filter : ∀ i : Fin 16, t.sections[i].filter = s.sections[i].filter) (e : Elem) :
    t.underTrain e = s.underTrain e := by
  have occupied (i : Fin 16) : t.sections[i].occupied = s.sections[i].occupied :=
    congrArg (· != FilterState.clear) (filter i)
  cases e with
  | track i => exact occupied i
  | points p =>
    show t.sections[(t.pointCfg p).track].occupied = s.sections[(s.pointCfg p).track].occupied
    have same : t.pointCfg p = s.pointCfg p := by rw [State.pointCfg, State.pointCfg, cfg]
    exact (occupied _).trans (congrArg (fun c : PointCfg => s.sections[c.track].occupied) same)
  | signal g => rfl
  | boundary b => rfl

theorem Releases.underTrain (h : Releases ref s t) (e : Elem) : t.underTrain e = s.underTrain e := underTrain_of h.cfg h.filter e

/-- Of a state that differs in no field of these. -/
theorem Frees.of_fields (cfg : t.cfg = s.cfg) (address : t.address = s.address) (peers : t.peers = s.peers)
    (boundaries : t.boundaries = s.boundaries) (reservations : t.reservations = s.reservations)
    (counts : ∀ k, k ≠ .undelivered → t.counts[faultIndex k] = s.counts[faultIndex k])
    (sections : t.sections = s.sections) (points : t.points = s.points) (signals : t.signals = s.signals)
    (instances : t.instances = s.instances) : Frees ref s t where
  cfg := cfg
  address := address
  peers := peers
  boundaries := boundaries
  reservations := reservations
  counts := counts
  filter i := by rw [sections]
  train i := .inr (by rw [sections]; exact ⟨rfl, id⟩)
  drive p := by rw [points]
  aspect g stop := by rw [signals]; exact stop
  locks e := .inl (by cases e <;> simp [State.lockOf, sections, points, signals])
  marks g := by rw [instances]

theorem Frees.refl (ref : RouteRef) (s : State) : Frees ref s s :=
  .of_fields rfl rfl rfl rfl rfl (fun _ _ => rfl) rfl rfl rfl rfl

/-- Noting is no freeing. -/
theorem Frees.noted (h : Noted s t) : Frees ref s t := by
  have counts := h.counts
  have same := h.noting
  generalize t.notes = n at same
  subst same
  exact .of_fields rfl rfl rfl rfl rfl counts rfl rfl rfl rfl

theorem Releases.trans (h : Releases ref s t) (k : Releases ref t u) : Releases ref s u where
  cfg := k.cfg.trans h.cfg
  address := k.address.trans h.address
  peers := k.peers.trans h.peers
  reservations := k.reservations.trans h.reservations
  counts x other := (k.counts x other).trans (h.counts x other)
  filter i := (k.filter i).trans (h.filter i)
  train i := by
    rcases k.train i with none | ⟨same, locked⟩
    · exact .inl none
    · rcases h.train i with none | ⟨same', locked'⟩
      · exact .inl (same.trans none)
      · exact .inr ⟨same.trans same', locked' ∘ locked⟩
  drive p := (k.drive p).trans (h.drive p)
  aspect g stop := k.aspect g (h.aspect g stop)
  locks e := by
    rcases k.locks e with same | gone | ⟨l, before, mine, after, under⟩
    · unfold State.lockKept
      rw [same]
      exact h.locks e
    · exact .inr (.inl gone)
    · rcases h.locks e with same' | gone' | ⟨l', before', mine', after', under'⟩
      · exact .inr (.inr ⟨l, same'.symm.trans before, mine, after, (h.underTrain e) ▸ under⟩)
      · rw [gone'] at before
        exact nomatch before
      · obtain rfl : { l' with releasePending := true } = l := Option.some.inj (after'.symm.trans before)
        exact .inr (.inr ⟨l', before', mine', after, under'⟩)

theorem Frees.trans (h : Frees ref s t) (k : Frees ref t u) : Frees ref s u where
  toReleases := h.toReleases.trans k.toReleases
  boundaries := k.boundaries.trans h.boundaries
  marks g := (k.marks g).trans (h.marks g)

/-- What is freed stays freed. -/
theorem State.isFreed.kept (h : s.isFreed ref t e) (k : Releases ref t u) (under : ∀ e, t.underTrain e = s.underTrain e) :
    s.isFreed ref u e := by
  intro l lock mine
  rcases k.locks e with same | gone | ⟨m, before, owned, after, train⟩
  · exact h l (same ▸ lock) mine
  · rw [gone] at lock
    exact nomatch lock
  · obtain rfl : { m with releasePending := true } = l := Option.some.inj (after.symm.trans lock)
    exact ⟨rfl, (under e) ▸ train⟩

/-- An instance is still there, with other fault marks. -/
theorem Frees.instance_marked {i : RouteInst} (h : Frees ref s t) (there : s.instances[g] = some i) :
    ∃ m, t.instances[g] = some { i with faultMarks := m } := by
  have marks := h.marks g
  rw [there] at marks
  cases after : t.instances[g] with
  | none =>
    rw [after] at marks
    exact nomatch marks
  | some j =>
    rw [after] at marks
    refine ⟨j.faultMarks, congrArg some ?_⟩
    have same : j.unmarked = i.unmarked := Option.some.inj marks
    calc j = { j.unmarked with faultMarks := j.faultMarks } := rfl
      _ = { i.unmarked with faultMarks := j.faultMarks } := by rw [same]

theorem Frees.running {i : RouteInst} {r : RouteRecord} (h : Frees ref s t) (runs : s.running g = some (i, r)) :
    ∃ m, t.running g = some ({ i with faultMarks := m }, r) := by
  obtain ⟨there, named⟩ := running_some runs
  obtain ⟨m, there'⟩ := h.instance_marked there
  refine ⟨m, running_of there' ?_⟩
  unfold State.routeRecord
  rw [h.cfg]
  exact named

theorem Releases.ownRef (h : Releases ref s t) (n : Nat) : t.ownRef n = s.ownRef n := by
  unfold State.ownRef
  rw [own_of_address h.address]

theorem Releases.isPresent (h : Releases ref s t) (a : Nat) : t.isPresent a = s.isPresent a := by
  unfold State.isPresent State.peer
  rw [h.peers]

end

/-! ## One lock freed (R9) -/

section
variable {ref : RouteRef} {s t : State} {e : Elem} {g : Fin 8} {v w : Work}

/-- A lock gone takes fault marks of routes of this station with it (R124). -/
theorem lockGone_unmarks (own : ref.station = s.own) : ∃ is : Vector (Option RouteInst) 8,
    s.lockGone ref e = { s with instances := is }
      ∧ ∀ h : Fin 8, is[h].map RouteInst.unmarked = s.instances[h].map RouteInst.unmarked := by
  unfold State.lockGone
  rw [if_pos own]
  split
  · next k i r found named =>
    refine ⟨_, rfl, fun h => ?_⟩
    rcases eq_or_ne h k with rfl | apart
    · rw [set_own, (instanceOf_get found).1]
      rfl
    · rw [set_other _ _ apart]
  · exact ⟨s.instances, rfl, fun _ => rfl⟩

/-- What a signal's exit users are told when its STOP lamp proves (R61). -/
def ofExit (x : Task) : Prop := (∃ g u, x = .exitToRoute g u true) ∨ ∃ g ref, x = .exitToReservation g ref true

theorem exitTasks_ofExit : ∀ x ∈ s.exitTasks g true, ofExit x := by
  intro x known
  unfold State.exitTasks at known
  rcases List.mem_append.mp known with route | reservation
  · obtain ⟨u, -, rfl⟩ := List.mem_map.mp route
    exact .inl ⟨g, u, rfl⟩
  · obtain ⟨r, -, rfl⟩ := List.mem_map.mp reservation
    exact .inr ⟨g, r.ref, rfl⟩

/-- A replacement writes the signal, leaves its lock and claims, and may tell its exit users; at STOP it does nothing
(R59). -/
theorem replaceSignal_writes : ∃ (x : SignalRec) (turned : List (Fin 8)) (told : List Task),
    w.replaceSignal g = { w with st := w.st.setSignal g x, turned := turned, out := w.out ++ told }
      ∧ x.lock = w.st.signals[g].lock ∧ x.claims = w.st.signals[g].claims ∧ x.aspect = .stop
      ∧ (w.st.signals[g].aspect = .stop → x = w.st.signals[g]) ∧ (∀ y ∈ told, ofExit y)
      ∧ (w.st.signals[g].aspect = .stop ∨ w.st.exitTasks g true = [] → told = []) := by
  cases shown : w.st.signals[g].aspect with
  | stop =>
    refine ⟨w.st.signals[g], w.turned, [], ?_, rfl, rfl, shown, fun _ => rfl, by simp, fun _ => rfl⟩
    rw [show w.st.setSignal g w.st.signals[g] = w.st by simp [State.setSignal], List.append_nil]
    exact if_neg (by rw [shown]; decide)
  | proceed =>
    by_cases lit : w.st.signals[g].stopInput = true
    · let r : SignalRec := { w.st.signals[g] with clearingRoute := none }
      let v := (w.turn g).on (·.setSignal g r)
      let x : SignalRec := { r with
        aspect := .stop, stopLamp := .lit, proceedLamp := .dark, provingTimer := none, exitProof := true }
      let told := if r.exitProof then [] else w.st.exitTasks g true
      have replaced : w.replaceSignal g = { w with st := w.st.setSignal g x, turned := w.turned ++ [g], out := w.out ++ told } := by
        have begun : v.st.signals[g] = r := set_own (v := w.st.signals) g r
        let y : SignalRec := { r with
          aspect := .stop, stopLamp := .awaiting, proceedLamp := .dark
          provingTimer := some (v.st.signalCfg g).provingTime }
        have now : (v.on (·.setSignal g y)).st.signals[g] = y := set_own (v := v.st.signals) g y
        have set : v.setAspect g .stop = (v.on (·.setSignal g y)).lampLit g := by
          rw [setAspect_proves (by rw [begun]; exact lit), begun]
          rfl
        refine (if_pos shown).trans (set.trans ?_)
        unfold Work.lampLit SignalRec.withLitLamp
        dsimp only
        have lamp : y.litLamp ≠ .interrupted := nofun
        rw [now]
        by_cases proof : r.exitProof = true
        · rw [if_neg lamp, if_pos (show y.exitProof = true from proof)]
          simp [v, x, y, told, proof, Work.on, Work.turn]
        · rw [if_neg lamp, if_neg (show ¬ y.exitProof = true from proof)]
          simp [v, x, y, told, proof, Work.on, Work.turn, Work.emit]
      refine ⟨x, w.turned ++ [g], told, replaced, rfl, rfl, rfl, (fun stop => nomatch stop), fun y known => ?_, fun silent => ?_⟩
      · by_cases proof : r.exitProof = true
        · rw [show told = [] from if_pos proof] at known
          exact nomatch known
        · rw [show told = _ from if_neg proof] at known
          exact exitTasks_ofExit y known
      · rw [show told = if r.exitProof then [] else w.st.exitTasks g true from rfl, silent.resolve_left (by decide), ite_self]
    · refine ⟨w.st.signals[g].replaced (w.st.signalCfg g), w.turned ++ [g], [], (replaceSignal_awaits shown (Bool.eq_false_of_not_eq_true lit)).trans ?_, rfl, rfl, rfl,
        (fun stop => nomatch stop), by simp, fun _ => rfl⟩
      rw [List.append_nil]
      rfl

/-- Writing a section's record. -/
theorem Frees.ofSection {i : Fin 16} {r : SectionRec} (filter : r.filter = s.sections[i].filter)
    (train : r.train = none ∨ r.train = s.sections[i].train ∧ (r.lock = none → s.sections[i].lock = none))
    (lock : r.lock = none ∨ ∃ l, s.sections[i].lock = some l ∧ l.ref = ref ∧ r.lock = some { l with releasePending := true }
      ∧ s.sections[i].occupied = true) : Frees ref s (s.setSection i r) where
  cfg := rfl
  address := rfl
  peers := rfl
  boundaries := rfl
  reservations := rfl
  counts _ _ := rfl
  filter j := by
    rcases eq_or_ne j i with rfl | apart
    · exact (congrArg SectionRec.filter (set_own (v := s.sections) j r)).trans filter
    · exact congrArg SectionRec.filter (set_other (v := s.sections) r apart)
  train j := by
    rcases eq_or_ne j i with rfl | apart
    · rw [show (s.setSection j r).sections[j] = r from set_own (v := s.sections) j r]
      exact train
    · exact .inr (by rw [show (s.setSection i r).sections[j] = s.sections[j] from set_other (v := s.sections) r apart]; exact ⟨rfl, id⟩)
  drive _ := rfl
  aspect _ stop := stop
  locks f := by
    cases f with
    | track j =>
      rcases eq_or_ne j i with rfl | apart
      · have own : (s.setSection j r).lockOf (.track j) = r.lock := congrArg SectionRec.lock (set_own (v := s.sections) j r)
        rcases lock with gone | ⟨l, before, mine, after, under⟩
        · exact .inr (.inl (own.trans gone))
        · exact .inr (.inr ⟨l, before, mine, own.trans after, under⟩)
      · exact .inl (congrArg SectionRec.lock (set_other (v := s.sections) r apart))
    | points p => exact .inl rfl
    | signal g => exact .inl rfl
    | boundary b => exact .inl rfl
  marks _ := rfl

/-- Writing a point's record. -/
theorem Frees.point {p : Fin 8} {r : PointRec} (drive : r.drive = s.points[p].drive)
    (lock : r.lock = s.points[p].lock ∨ r.lock = none ∨ ∃ l, s.points[p].lock = some l ∧ l.ref = ref
      ∧ r.lock = some { l with releasePending := true } ∧ s.pointOccupied p = true) : Frees ref s (s.setPoint p r) where
  cfg := rfl
  address := rfl
  peers := rfl
  boundaries := rfl
  reservations := rfl
  counts _ _ := rfl
  filter _ := rfl
  train _ := .inr ⟨rfl, id⟩
  drive k := by
    rcases eq_or_ne k p with rfl | apart
    · exact (congrArg PointRec.drive (set_own (v := s.points) k r)).trans drive
    · exact congrArg PointRec.drive (set_other (v := s.points) r apart)
  aspect _ stop := stop
  locks f := by
    cases f with
    | points k =>
      rcases eq_or_ne k p with rfl | apart
      · have own : (s.setPoint k r).lockOf (.points k) = r.lock := congrArg PointRec.lock (set_own (v := s.points) k r)
        rcases lock with same | gone | ⟨l, before, mine, after, under⟩
        · exact .inl (own.trans same)
        · exact .inr (.inl (own.trans gone))
        · exact .inr (.inr ⟨l, before, mine, own.trans after, under⟩)
      · exact .inl (congrArg PointRec.lock (set_other (v := s.points) r apart))
    | track i => exact .inl rfl
    | signal g => exact .inl rfl
    | boundary b => exact .inl rfl
  marks _ := rfl

/-- Writing a signal's record. -/
theorem Frees.signal {x : SignalRec} (aspect : s.signals[g].aspect = .stop → x.aspect = .stop)
    (lock : x.lock = s.signals[g].lock ∨ x.lock = none) : Frees ref s (s.setSignal g x) where
  cfg := rfl
  address := rfl
  peers := rfl
  boundaries := rfl
  reservations := rfl
  counts _ _ := rfl
  filter _ := rfl
  train _ := .inr ⟨rfl, id⟩
  drive _ := rfl
  aspect h stop := by
    rcases eq_or_ne h g with rfl | apart
    · exact (congrArg SignalRec.aspect (set_own (v := s.signals) h x)).trans (aspect stop)
    · exact (congrArg SignalRec.aspect (set_other (v := s.signals) x apart)).trans stop
  locks f := by
    cases f with
    | signal h =>
      rcases eq_or_ne h g with rfl | apart
      · have own : (s.setSignal h x).lockOf (.signal h) = x.lock := congrArg SignalRec.lock (set_own (v := s.signals) h x)
        rcases lock with same | gone
        · exact .inl (own.trans same)
        · exact .inr (.inl (own.trans gone))
      · exact .inl (congrArg SignalRec.lock (set_other (v := s.signals) x apart))
    | track i => exact .inl rfl
    | points p => exact .inl rfl
    | boundary b => exact .inl rfl
  marks _ := rfl

/-- What is told where a lock is gone, and the subject placed (R3, R124). -/
theorem lockGone_frees (own : ref.station = s.own) : Frees ref s ((s.lockGone ref e).place (.elem e))
    ∧ ((s.lockGone ref e).place (.elem e)).sendQueue = s.sendQueue
    ∧ ((s.lockGone ref e).place (.elem e)).requests = s.requests
    ∧ ((s.lockGone ref e).place (.elem e)).remote = s.remote
    ∧ ∀ f, ((s.lockGone ref e).place (.elem e)).lockOf f = s.lockOf f := by
  obtain ⟨is, gone, marks⟩ := lockGone_unmarks (e := e) own
  rw [gone, place_reporting]
  exact ⟨⟨⟨rfl, rfl, rfl, rfl, fun _ _ => rfl, fun _ => rfl, fun _ => .inr ⟨rfl, id⟩, fun _ => rfl, fun _ stop => stop,
    fun f => .inl (by cases f <;> rfl)⟩, rfl, marks⟩, rfl, rfl, rfl, fun f => by cases f <;> rfl⟩

theorem becomeFree_keeps (r : PointRec) : r.becomeFree.drive = r.drive ∧ r.becomeFree.lock = r.lock := by
  unfold PointRec.becomeFree
  split
  · split <;> exact ⟨rfl, rfl⟩
  · exact ⟨rfl, rfl⟩

/-- A point record without its lock. -/
theorem dropLock_keeps (r : PointRec) : r.dropLock.drive = r.drive ∧ r.dropLock.lock = none := by
  unfold PointRec.dropLock
  split
  · dsimp only
    split
    · exact becomeFree_keeps _
    · exact ⟨rfl, rfl⟩
  · next none => exact ⟨rfl, none⟩

/-- What freeing locks does to a work: it may tell exit users (R9, R61). -/
structure LocksFree (ref : RouteRef) (v w : Work) : Prop where
  frees : Frees ref v.st w.st
  queue : w.st.sendQueue = v.st.sendQueue
  requests : w.st.requests = v.st.requests
  remote : w.st.remote = v.st.remote
  returns : w.returns = v.returns
  told : ∃ told, w.out = v.out ++ told ∧ ∀ y ∈ told, ofExit y
  quiet : (∀ g : Fin 8, v.st.signals[g].aspect = .stop) → w.out = v.out

theorem LocksFree.refl (ref : RouteRef) (w : Work) : LocksFree ref w w :=
  ⟨.refl ref w.st, rfl, rfl, rfl, rfl, ⟨[], by simp⟩, fun _ => rfl⟩

theorem LocksFree.trans {x : Work} (h : LocksFree ref w v) (k : LocksFree ref v x) : LocksFree ref w x := by
  obtain ⟨told, out, exits⟩ := h.told
  obtain ⟨told', out', exits'⟩ := k.told
  exact ⟨h.frees.trans k.frees, k.queue.trans h.queue, k.requests.trans h.requests, k.remote.trans h.remote,
    k.returns.trans h.returns,
    ⟨told ++ told', by rw [out', out, List.append_assoc], fun y known => (List.mem_append.mp known).elim (exits y) (exits' y)⟩,
    fun stop => (k.quiet fun g => h.frees.aspect g (stop g)).trans (h.quiet stop)⟩

/-- A write to the state alone, of none of the queues. -/
theorem LocksFree.on {f : State → State} (frees : Frees ref w.st (f w.st)) (queue : (f w.st).sendQueue = w.st.sendQueue)
    (requests : (f w.st).requests = w.st.requests) (remote : (f w.st).remote = w.st.remote) : LocksFree ref w (w.on f) :=
  ⟨frees, queue, requests, remote, rfl, ⟨[], by simp [Work.on]⟩, fun _ => rfl⟩

/-- A lock is written away, which is told (R3, R99, R124). -/
theorem LocksFree.gone {f : State → State} (own : ref.station = w.st.own) (frees : Frees ref w.st (f w.st))
    (queue : (f w.st).sendQueue = w.st.sendQueue) (requests : (f w.st).requests = w.st.requests)
    (remote : (f w.st).remote = w.st.remote) (none : (f w.st).lockOf e = none) :
    LocksFree ref w (w.on fun s => ((f s).lockGone ref e).place (.elem e))
      ∧ w.st.isFreed ref (w.on fun s => ((f s).lockGone ref e).place (.elem e)).st e := by
  obtain ⟨gone, queue', requests', remote', locks⟩ := lockGone_frees (s := f w.st) (e := e)
    (own.trans (own_of_address frees.address.symm))
  exact ⟨.on (f := fun s => ((f s).lockGone ref e).place (.elem e)) (frees.trans gone) (queue'.trans queue)
    (requests'.trans requests) (remote'.trans remote), fun l lock => nomatch none.symm.trans ((locks e).symm.trans lock)⟩

theorem replaceSignal_frees (w : Work) (g : Fin 8) : LocksFree ref w (w.replaceSignal g)
    ∧ (w.replaceSignal g).st.signals[g].aspect = .stop
    ∧ ((w.replaceSignal g).st.signals[g].lock = w.st.signals[g].lock) := by
  obtain ⟨x, turned, told, replaced, lock, -, stop, same, exits, quiet⟩ := replaceSignal_writes (w := w) (g := g)
  have now : (w.replaceSignal g).st.signals[g] = x := by rw [replaced]; exact set_own (v := w.st.signals) g x
  refine ⟨?_, (congrArg SignalRec.aspect now).trans stop, (congrArg SignalRec.lock now).trans lock⟩
  rw [replaced]
  exact ⟨.signal (fun _ => stop) (.inl lock), rfl, rfl, rfl, rfl, ⟨told, rfl, exits⟩,
    fun all => (congrArg (w.out ++ ·) (quiet (.inl (all g)))).trans (List.append_nil _)⟩

/-- A lock freed: the element keeps none of the route's, or one that is release-pending under a train (R9). -/
theorem freeLock_frees (w : Work) (e : Elem) (own : ref.station = w.st.own) :
    LocksFree ref w (w.freeLock ref e) ∧ w.st.isFreed ref (w.freeLock ref e).st e := by
  unfold Work.freeLock
  cases lock : w.st.lockOf e with
  | none => exact ⟨.refl ref w, fun l there => nomatch lock.symm.trans there⟩
  | some l =>
    dsimp only
    by_cases mine : l.ref = ref
    · rw [if_neg (not_not_intro mine)]
      cases e with
      | track i =>
        dsimp only
        by_cases occupied : w.st.sections[i].occupied = true
        · rw [if_pos occupied]
          refine ⟨.on (.ofSection rfl (.inr ⟨rfl, nofun⟩) (.inr ⟨l, lock, mine, rfl, occupied⟩)) rfl rfl rfl, fun m after _ => ?_⟩
          have own' := congrArg SectionRec.lock (set_own (v := w.st.sections) i
            { w.st.sections[i] with lock := some { l with releasePending := true } })
          exact ⟨Option.some.inj (own'.symm.trans after) ▸ rfl, occupied⟩
        · rw [if_neg occupied]
          exact LocksFree.gone (f := fun s => s.setSection i w.st.sections[i].dropLock) own
            (.ofSection rfl (.inl rfl) (.inl rfl)) rfl rfl rfl
            (congrArg SectionRec.lock (set_own (v := w.st.sections) i w.st.sections[i].dropLock))
      | points p =>
        dsimp only
        obtain ⟨drive, dropped⟩ := dropLock_keeps w.st.points[p]
        by_cases occupied : w.st.pointOccupied p = true
        · rw [if_pos occupied]
          refine ⟨.on (.point rfl (.inr (.inr ⟨l, lock, mine, rfl, occupied⟩))) rfl rfl rfl, fun m after _ => ?_⟩
          have own' := congrArg PointRec.lock (set_own (v := w.st.points) p
            { w.st.points[p] with lock := some { l with releasePending := true } })
          exact ⟨Option.some.inj (own'.symm.trans after) ▸ rfl, occupied⟩
        · rw [if_neg occupied]
          exact LocksFree.gone (f := fun s => s.setPoint p w.st.points[p].dropLock) own
            (.point drive (.inr (.inl dropped))) rfl rfl rfl
            ((congrArg PointRec.lock (set_own (v := w.st.points) p w.st.points[p].dropLock)).trans dropped)
      | signal g =>
        dsimp only
        have first : LocksFree ref w (if l.role = .entry then w.replaceSignal g else w) := by
          split
          · exact (replaceSignal_frees w g).1
          · exact .refl ref w
        generalize (if l.role = .entry then w.replaceSignal g else w) = v at first
        have own' : ref.station = v.st.own := own.trans (own_of_address first.frees.address.symm)
        obtain ⟨gone, freed⟩ := LocksFree.gone (w := v) (e := .signal g)
          (f := fun s => s.setSignal g { s.signals[g] with lock := none }) own' (.signal (fun stop => stop) (.inr rfl)) rfl rfl rfl
          (congrArg SignalRec.lock (set_own (v := v.st.signals) g { v.st.signals[g] with lock := none }))
        exact ⟨first.trans gone, fun m after same => ⟨(freed m after same).1, (first.frees.underTrain _) ▸ (freed m after same).2⟩⟩
      | boundary b => exact nomatch lock
    · rw [if_pos mine]
      refine ⟨.refl ref w, fun m there same => ?_⟩
      obtain rfl : l = m := Option.some.inj (lock.symm.trans there)
      exact absurd same mine

end

end Sys2Proof.Machine
end

section
/-! PROOFS. Requirements of a route freed (R112, R116, R121, R122, R128): its local locks, and the RELEASE telegrams to
the owners of its portions. -/

namespace Sys2Proof.Machine

/-! ## Telegrams to the owners -/

/-- What telegrams to owners and requests withdrawn leave of a send queue, at most `n` telegrams being placed. -/
structure Returning (ref : RouteRef) (n : Nat) (s t : State) : Prop where
  frees : Frees ref s t
  kept : ∀ e ∈ s.sendQueue, bodyTag e.telegram.body = none → e ∈ t.sendQueue
  few : s.sendQueue.length + n + 1 ≤ 32 → t.sendQueue.length ≤ s.sendQueue.length + n

/-- The requirements that a release gives back at one owner (R112). -/
def returnedAt (i : RouteInst) (freed : List Nat) (p : Portion) : List Nat :=
  if p.state.holding then p.indices.filter fun k => freed.contains k && !i.released.contains k
  else if p.state = .pending ∧ p.indices.all freed.contains then p.indices else []

section
variable {ref : RouteRef} {n m : Nat} {s t u : State} {r : RouteRecord} {i : RouteInst} {freed : List Nat} {p : Portion}

theorem Returning.refl (ref : RouteRef) (n : Nat) (s : State) : Returning ref n s s :=
  ⟨.refl ref s, fun _ known _ => known, fun _ => Nat.le_add_right _ _⟩

theorem Returning.trans (h : Returning ref n s t) (k : Returning ref m t u) : Returning ref (n + m) s u :=
  ⟨h.frees.trans k.frees, fun e known untagged => k.kept e (h.kept e known untagged) untagged, fun room => by
    have := h.few (by omega)
    have := k.few (by omega)
    omega⟩

theorem post_returning (ref : RouteRef) (s : State) (dest : Nat) {body : Body} (cls : (bodyKind body).cls = 1) :
    Returning ref 1 s (s.post dest body)
      ∧ (s.sendQueue.length + 2 ≤ 32 → s.isPresent dest = true → placed dest body ∈ (s.post dest body).sendQueue) := by
  obtain ⟨more, sent⟩ := (noted_post s dest body).sent
  have posts (room : s.sendQueue.length + 2 ≤ 32) (there : s.isPresent dest = true) :
      s.post dest body = s.enqueue ⟨dest, body⟩ :=
    post_of_room s dest body (fun _ => there) (room_of_le (cls ▸ room))
  refine ⟨⟨.noted (noted_post s dest body), fun e known _ => by rw [sent]; exact List.mem_append_left _ known, fun room => ?_⟩,
    fun room there => ?_⟩
  · by_cases there : s.isPresent dest = true
    · rw [posts room there]
      simp [State.enqueue]
    · have skipped : s.post dest body = s := if_pos (by simp [cls, there])
      rw [skipped]
      omega
  · rw [posts room there]
    exact List.mem_append_right _ (List.mem_singleton.mpr rfl)

theorem dropRequest_kept {e : SendEntry} (known : e ∈ s.sendQueue) (untagged : bodyTag e.telegram.body = none) (tag : Byte) :
    e ∈ (s.dropRequest tag).sendQueue := by
  unfold State.dropRequest
  split
  · exact known
  · dsimp only
    split
    · exact List.mem_filterMap.mpr ⟨e, known, if_neg (by simp [SendEntry.asks, SendEntry.pendingTag, untagged])⟩
    · exact known

theorem dropRequest_returning (ref : RouteRef) (s : State) (tag : Byte) : Returning ref 0 s (s.dropRequest tag) := by
  refine ⟨?_, fun e known untagged => dropRequest_kept known untagged tag, fun _ => ?_⟩
  all_goals
    obtain ⟨es, few, same⟩ := dropRequest_eq s tag
    rw [same]
  · exact .of_fields rfl rfl rfl rfl rfl (fun _ _ => rfl) rfl rfl rfl rfl
  · exact few

theorem releasePortion_returning (ref : RouteRef) (s : State) (r : RouteRecord) (p : Portion) (indices : List Nat) :
    Returning ref 1 s (s.releasePortion r p indices)
      ∧ (s.sendQueue.length + 2 ≤ 32 → s.isPresent p.owner = true → indices ≠ [] →
          placed p.owner (.release (p.tag.getD 0) (s.ownRef r.number) (wireElems r indices))
            ∈ (s.releasePortion r p indices).sendQueue) := by
  unfold State.releasePortion
  by_cases none : indices.isEmpty = true
  · rw [if_pos none]
    exact ⟨.refl ref 1 s, fun _ _ some => absurd (List.isEmpty_iff.mp none) some⟩
  · rw [if_neg none]
    obtain ⟨posts, sends⟩ := post_returning ref s p.owner
      (body := .release (p.tag.getD 0) (s.ownRef r.number) (wireElems r indices)) (show Kind.release.cls = 1 from by decide)
    have images (t : State) : Returning ref 0 t (t.unholdImages r.number p.owner (wireElems r indices)) :=
      ⟨.of_fields rfl rfl rfl rfl rfl (fun _ _ => rfl) rfl rfl rfl rfl, fun _ known _ => known, fun _ => le_refl _⟩
    exact ⟨posts.trans (images _), fun room there _ => sends room there⟩

theorem releaseAt_eq : s.releaseAt r i freed p = s.releasePortion r p (returnedAt i freed p) ∨
    s.releaseAt r i freed p = (p.tag.elim s s.dropRequest).releasePortion r p (returnedAt i freed p) := by
  unfold State.releaseAt returnedAt
  split
  · exact .inl rfl
  · split
    · exact .inr rfl
    · exact .inl rfl

theorem releaseAt_returning (ref : RouteRef) (s : State) (r : RouteRecord) (i : RouteInst) (freed : List Nat) (p : Portion) :
    Returning ref 1 s (s.releaseAt r i freed p)
      ∧ (s.sendQueue.length + 2 ≤ 32 → s.isPresent p.owner = true → returnedAt i freed p ≠ [] →
          placed p.owner (.release (p.tag.getD 0) (s.ownRef r.number) (wireElems r (returnedAt i freed p)))
            ∈ (s.releaseAt r i freed p).sendQueue) := by
  have withdrawn : Returning ref 0 s (p.tag.elim s s.dropRequest) := by
    cases p.tag with
    | none => exact .refl ref 0 s
    | some tag => exact dropRequest_returning ref s tag
  rcases releaseAt_eq (s := s) (r := r) (i := i) (freed := freed) (p := p) with same | same
  · rw [same]
    exact releasePortion_returning ref s r p _
  · rw [same]
    obtain ⟨returns, sends⟩ := releasePortion_returning ref (p.tag.elim s s.dropRequest) r p (returnedAt i freed p)
    refine ⟨Nat.zero_add 1 ▸ withdrawn.trans returns, fun room there some => ?_⟩
    have few := withdrawn.few (by omega)
    rw [withdrawn.frees.ownRef] at sends
    exact sends (by omega) (withdrawn.frees.isPresent p.owner ▸ there) some

/-- One RELEASE to each owner, where the send queue has room for them. -/
theorem releaseAll_returning (ref : RouteRef) (r : RouteRecord) (i : RouteInst) (freed : List Nat) (ps : List Portion) (s : State) :
    let t := ps.foldl (fun s p => s.releaseAt r i freed p) s
    Returning ref ps.length s t
      ∧ (s.sendQueue.length + ps.length + 1 ≤ 32 → ∀ p ∈ ps, s.isPresent p.owner = true → returnedAt i freed p ≠ [] →
          placed p.owner (.release (p.tag.getD 0) (s.ownRef r.number) (wireElems r (returnedAt i freed p))) ∈ t.sendQueue) := by
  induction ps generalizing s with
  | nil => exact ⟨.refl ref 0 s, fun _ p known => nomatch known⟩
  | cons p ps ih =>
    obtain ⟨first, sends⟩ := releaseAt_returning ref s r i freed p
    obtain ⟨rest, send⟩ := ih (s.releaseAt r i freed p)
    refine ⟨?_, fun room q known there some => ?_⟩
    · rw [List.length_cons, Nat.add_comm ps.length 1]
      exact first.trans rest
    · rw [List.length_cons] at room
      rcases List.mem_cons.mp known with rfl | later
      · exact rest.kept _ (sends (by omega) there some) rfl
      · have few := first.few (by omega)
        rw [first.frees.ownRef] at send
        exact send (by omega) q later ((first.frees.isPresent q.owner).trans there) some

end

/-! ## Indices freed -/

section
variable {ref : RouteRef} {g : Fin 8} {i : RouteInst} {r : RouteRecord} {freed : List Nat} {v w : Work}

/-- The instances are not part of what a release leaves. -/
theorem Releases.ofInstance (ref : RouteRef) (s : State) (g : Fin 8) (j : Option RouteInst) : Releases ref s (s.setInstance g j) :=
  ⟨rfl, rfl, rfl, rfl, fun _ _ => rfl, fun _ => rfl, fun _ => .inr ⟨rfl, id⟩, fun _ => rfl, fun _ stop => stop,
    fun e => .inl (by cases e <;> rfl)⟩

/-- The locks of requirements not yet released are freed. -/
theorem freeLocks_frees (released : List Nat) (ks : List Nat) (w : Work) (own : ref.station = w.st.own) :
    let v := ks.foldl (fun w k =>
      match elemAt r k with
      | some e => if released.contains k then w else w.freeLock ref e
      | none => w) w
    LocksFree ref w v ∧ ∀ k ∈ ks, released.contains k = false → ∀ e, elemAt r k = some e → w.st.isFreed ref v.st e := by
  induction ks generalizing w with
  | nil => exact ⟨.refl ref w, fun k known => nomatch known⟩
  | cons k ks ih =>
    rw [List.foldl_cons]
    have first : LocksFree ref w (match elemAt r k with
          | some e => if released.contains k then w else w.freeLock ref e
          | none => w)
        ∧ (released.contains k = false → ∀ e, elemAt r k = some e → w.st.isFreed ref (match elemAt r k with
          | some e => if released.contains k then w else w.freeLock ref e
          | none => w).st e) := by
      cases named : elemAt r k with
      | none => exact ⟨.refl ref w, fun _ e known => nomatch known⟩
      | some e =>
        dsimp only
        by_cases gone : released.contains k = true
        · rw [if_pos gone]
          exact ⟨.refl ref w, fun held => by rw [gone] at held; exact nomatch held⟩
        · rw [if_neg gone]
          obtain ⟨free, freed⟩ := freeLock_frees w e own
          exact ⟨free, fun _ e' same => Option.some.inj same ▸ freed⟩
    generalize (match elemAt r k with
          | some e => if released.contains k then w else w.freeLock ref e
          | none => w) = v at first
    obtain ⟨free, gone⟩ := first
    obtain ⟨rest, later⟩ := ih v (own.trans (own_of_address free.frees.address.symm))
    refine ⟨free.trans rest, fun k' known held e named => ?_⟩
    rcases List.mem_cons.mp known with rfl | known
    · exact (gone held e named).kept rest.frees.toReleases free.frees.underTrain
    · intro l lock mine
      obtain ⟨pending, train⟩ := later k' known held e named l lock mine
      exact ⟨pending, free.frees.underTrain e ▸ train⟩

/-- What freeing requirements of a route does to a work: nothing else is changed but the instance, and the RELEASE
telegrams are placed (R116). -/
structure IndicesFree (g : Fin 8) (i : RouteInst) (r : RouteRecord) (freed : List Nat) (v w : Work) : Prop where
  frees : ∃ u, Frees (v.st.ownRef i.route) v.st u ∧ ∃ m, u.instances[g] = some { i with faultMarks := m }
    ∧ w.st = u.setInstance g (some (markReleased r freed { i with faultMarks := m }))
  gone : ∀ k ∈ freed, i.released.contains k = false → ∀ e, elemAt r k = some e →
    v.st.isFreed (v.st.ownRef i.route) w.st e
  kept : ∀ e ∈ v.st.sendQueue, bodyTag e.telegram.body = none → e ∈ w.st.sendQueue
  few : v.st.sendQueue.length + i.portions.length + 1 ≤ 32 → w.st.sendQueue.length ≤ v.st.sendQueue.length + i.portions.length
  sent : v.st.sendQueue.length + i.portions.length + 1 ≤ 32 → ∀ p ∈ i.portions, v.st.isPresent p.owner = true →
    returnedAt i freed p ≠ [] →
    placed p.owner (.release (p.tag.getD 0) (v.st.ownRef i.route) (wireElems r (returnedAt i freed p))) ∈ w.st.sendQueue
  returns : w.returns = v.returns
  told : ∃ told, w.out = v.out ++ told ∧ ∀ y ∈ told, ofExit y
  quiet : (∀ g : Fin 8, v.st.signals[g].aspect = .stop) → w.out = v.out

theorem freeIndices_free (runs : w.st.running g = some (i, r)) (freed : List Nat) :
    IndicesFree g i r freed w (w.freeIndices g freed) := by
  obtain ⟨there, named⟩ := running_some runs
  have number : r.number = i.route := routeRecord_number named
  let ref := w.st.ownRef i.route
  obtain ⟨locks, gone⟩ := freeLocks_frees (r := r) (ref := ref) i.released freed w rfl
  let v := freed.foldl (fun w k =>
    match elemAt r k with
    | some e => if i.released.contains k then w else w.freeLock ref e
    | none => w) w
  obtain ⟨returns, sent⟩ := releaseAll_returning ref r i freed i.portions v.st
  let u := i.portions.foldl (fun s p => s.releaseAt r i freed p) v.st
  have frees : Frees ref w.st u := locks.frees.trans returns.frees
  obtain ⟨m, marked⟩ := frees.instance_marked there
  have result : w.freeIndices g freed = { v with st := u.setInstance g (some (markReleased r freed { i with faultMarks := m })) } := by
    unfold Work.freeIndices
    rw [runs]
    exact congrArg (fun t : State => { v with st := t }) (changeInstance_some marked)
  rw [result]
  refine ⟨⟨u, frees, m, marked, rfl⟩, fun k known held e at_ => ?_, fun e known untagged => ?_, ?_, ?_, locks.returns, locks.told, locks.quiet⟩
  · exact (gone k known held e at_).kept (returns.frees.toReleases.trans (.ofInstance _ u g _)) locks.frees.underTrain
  · exact returns.kept e (locks.queue ▸ known) untagged
  · rw [← locks.queue]
    exact returns.few
  · intro room p known present some
    rw [number, locks.frees.ownRef] at sent
    exact sent (by rw [locks.queue]; exact room) p known ((locks.frees.isPresent _).trans present) some

end

end Sys2Proof.Machine
end

section
/-! PROOFS. The release of all that a route holds, and the end of its instance (R90, R112, R113, R128, R135): O46. -/

namespace Sys2Proof.Machine

/-! ## Requirements and portions of a route -/

section
variable {i : RouteInst} {r : RouteRecord} {k : Nat} {q : RouteReq} {p : Portion}

theorem reqAt_mem (named : reqAt r k = some q) : (k, q) ∈ reqsOf r := by
  obtain ⟨before, after, split, -⟩ := List.lookup_eq_some_iff.mp named
  rw [split]
  exact List.mem_append_right _ List.mem_cons_self

/-- Indices of requirements begin at 1; 0 is the entry signal's. -/
theorem reqAt_zero (r : RouteRecord) : reqAt r 0 = none := by
  refine Option.eq_none_iff_forall_ne_some.mpr fun q named => ?_
  obtain ⟨x, known, same⟩ := List.mem_map.mp (reqAt_mem named)
  have positive : x.2 ≠ 0 := by
    rcases List.mem_append.mp known with path | overlap
    · have := List.le_snd_of_mem_zipIdx path
      omega
    · have := List.le_snd_of_mem_zipIdx overlap
      omega
  exact positive (congrArg Prod.fst same)

/-- Of the requirements not yet released, those that a full release frees: not those of portions that hold nothing (R112). -/
def dueIndices (i : RouteInst) (r : RouteRecord) : List Nat :=
  (i.left r).filter fun k =>
    !((i.portions.filter fun p => p.state == .none || p.state == .void).flatMap (·.indices)).contains k

theorem mem_left : k ∈ i.left r ↔ k ∈ allIndices r ∧ i.released.contains k = false := by
  simp [RouteInst.left]

theorem mem_dueIndices : k ∈ dueIndices i r ↔ k ∈ i.left r ∧
    ∀ p ∈ i.portions, p.state = .none ∨ p.state = .void → k ∉ p.indices := by
  simp [dueIndices]

/-- A requirement of a portion has an index of the route, and the portion's owner for its station. -/
theorem portionsFit_index (fit : i.portionsFit r) (known : p ∈ i.portions) (own : k ∈ p.indices) :
    k ∈ allIndices r ∧ ∃ q, reqAt r k = some q ∧ q.station = p.owner := by
  obtain ⟨q, named, owner⟩ := (Option.any_eq_true _ _).mp ((fit.2 p known).2 k own)
  exact ⟨List.mem_cons_of_mem 0 (List.mem_map.mpr ⟨_, reqAt_mem named, rfl⟩), q, named, by simpa using owner⟩

/-- No two portions have one requirement. -/
theorem portionsFit_apart {x y : Portion} (fit : i.portionsFit r) (x_known : x ∈ i.portions) (y_known : y ∈ i.portions)
    (x_own : k ∈ x.indices) (y_own : k ∈ y.indices) : x = y := by
  obtain ⟨-, q, named, owner⟩ := portionsFit_index fit x_known x_own
  obtain ⟨-, q', named', owner'⟩ := portionsFit_index fit y_known y_own
  obtain rfl : q = q' := Option.some.inj (named.symm.trans named')
  exact List.inj_on_of_nodup_map fit.1 x_known y_known (owner.symm.trans owner')

/-- A local requirement is in no portion. -/
theorem local_not_portion {e : Elem} (fit : i.portionsFit r) (named : elemAt r k = some e) (known : p ∈ i.portions) :
    k ∉ p.indices := by
  intro own
  obtain ⟨-, q, at_, owner⟩ := portionsFit_index fit known own
  unfold elemAt at named
  split at named
  · next zero =>
    rw [zero, reqAt_zero] at at_
    exact nomatch at_
  · rw [at_, Option.bind_some, localElem, if_neg (owner ▸ (fit.2 p known).1)] at named
    exact nomatch named

/-- What a portion that holds or is PENDING has, is due unless it is released. -/
theorem due_of_portion (fit : i.portionsFit r) (known : p ∈ i.portions) (held : p.state.holding = true ∨ p.state = .pending)
    (own : k ∈ p.indices) : (dueIndices i r).contains k = !i.released.contains k := by
  have due : k ∈ dueIndices i r ↔ i.released.contains k = false := by
    rw [mem_dueIndices, mem_left]
    refine ⟨fun h => h.1.2, fun free => ⟨⟨(portionsFit_index fit known own).1, free⟩, fun y y_known state y_own => ?_⟩⟩
    obtain rfl := portionsFit_apart fit known y_known own y_own
    rcases held with held | held <;> rcases state with state | state <;> rw [state] at held <;> exact absurd held (by decide)
  rw [Bool.eq_iff_iff, List.contains_iff_mem, due, Bool.not_eq_true']

theorem due_of_local {e : Elem} (fit : i.portionsFit r) (named : elemAt r k = some e) (left : k ∈ i.left r) :
    k ∈ dueIndices i r :=
  mem_dueIndices.mpr ⟨left, fun _ known _ => local_not_portion fit named known⟩

/-- A full release gives back at an owner what a held portion has not released (R112). -/
theorem returnedAt_due (fit : i.portionsFit r) (known : p ∈ i.portions) (held : p.state.holding = true) :
    returnedAt i (dueIndices i r) p = p.indices.filter (i.left r).contains := by
  rw [returnedAt, if_pos held]
  refine List.filter_congr fun k own => ?_
  have left : (i.left r).contains k = !i.released.contains k := by
    rw [Bool.eq_iff_iff, List.contains_iff_mem, mem_left, Bool.not_eq_true']
    exact ⟨And.right, fun free => ⟨(portionsFit_index fit known own).1, free⟩⟩
  rw [due_of_portion fit known (.inl held) own, left, Bool.and_self]

/-- It withdraws a portion asked for, whole where nothing has been released yet (R112). -/
theorem returnedAt_pending (fit : i.portionsFit r) (known : p ∈ i.portions) (pending : p.state = .pending)
    (none : i.released = []) : returnedAt i (dueIndices i r) p = p.indices := by
  have all : p.indices.all (dueIndices i r).contains = true := List.all_eq_true.mpr fun k own =>
    (due_of_portion fit known (.inr pending) own).trans (by rw [none]; rfl)
  rw [returnedAt, if_neg (by rw [pending]; decide), if_pos ⟨pending, all⟩]

/-- After it every portion is VOID, but for those never asked for (R122). -/
theorem settled_void (fit : i.portionsFit r) (known : p ∈ i.portions) (asked : p.state ≠ .none) :
    (settledPortion (i.released ++ (dueIndices i r).filter fun k => !i.released.contains k) p).state = .void := by
  unfold settledPortion
  by_cases held : (p.state.holding || p.state == .pending) = true
  · rw [held, Bool.true_and, if_pos (List.all_eq_true.mpr fun k own => ?_)]
    have due := due_of_portion fit known (by simpa using held) own
    rw [List.contains_iff_mem, List.mem_append, List.mem_filter, ← List.contains_iff_mem, ← List.contains_iff_mem, due]
    cases i.released.contains k <;> simp
  · rw [if_neg fun both => held (Bool.and_eq_true_iff.mp both).1]
    cases state : p.state with
    | none => exact absurd state asked
    | void => rfl
    | pending => simp [state] at held
    | granted => simp [state, PortionState.holding] at held
    | proven => simp [state, PortionState.holding] at held
    | lapsed reason => simp [state, PortionState.holding] at held

end

/-! ## Flank and direction -/

section
variable {w : Work} {s : State} {g : Fin 8} {i : RouteInst} {r : RouteRecord}

theorem setInstance_same (there : s.instances[g] = some i) : s.setInstance g (some i) = s := by
  rw [← there]
  simp [State.setInstance]

theorem flankParts_of_record (runs : s.running g = some (i, r)) (none : r.flank = []) : s.flankParts g = [] := by
  unfold State.flankParts
  rw [runs]
  simp [none]

/-- Where no flank portion is there, none is released. -/
theorem releaseFlank_of_none (none : w.st.flankParts g = []) (cause : ReleaseCause)
    (chosen : Nat × FlankEntry × FlankPortion → Bool) : w.releaseFlank g cause chosen = w := by
  unfold Work.releaseFlank
  cases w.st.instances[g] with
  | none => rfl
  | some i => simp [none, Work.on, distinct]

/-- The state with other boundary records. -/
def State.redirected (s : State) (bs : Vector BoundaryRec 4) : State := { s with boundaries := bs }

/-- The boundaries are not part of what a release leaves. -/
theorem Releases.redirected (ref : RouteRef) (s : State) (bs : Vector BoundaryRec 4) : Releases ref s (s.redirected bs) :=
  ⟨rfl, rfl, rfl, rfl, fun _ _ => rfl, fun _ => rfl, fun _ => .inr ⟨rfl, id⟩, fun _ => rfl, fun _ stop => stop,
    fun e => .inl (by cases e <;> rfl)⟩

theorem Releases.routeRecord {ref : RouteRef} {s t : State} (h : Releases ref s t) (n : Nat) : t.routeRecord n = s.routeRecord n := by
  unfold State.routeRecord
  rw [h.cfg]

/-- A route that gives up its direction has none (R112, R163). -/
theorem leaveDirection_writes (runs : s.running g = some (i, r)) (atBoundary : i.directionHeld = true → (exitBoundary r).isSome = true) :
    ∃ bs awaits, s.leaveDirection g =
        (s.redirected bs).setInstance g (some { i with directionHeld := false, awaitingDirection := awaits })
      ∧ (i.directionHeld = false → i.awaitingDirection = false → bs = s.boundaries) := by
  have there := (running_some runs).1
  unfold State.leaveDirection
  rw [runs]
  dsimp only
  cases exit : exitBoundary r with
  | none =>
    have held : i.directionHeld = false := by
      rw [exit] at atBoundary
      simpa using atBoundary
    refine ⟨s.boundaries, i.awaitingDirection, ?_, fun _ _ => rfl⟩
    have same : { i with directionHeld := false, awaitingDirection := i.awaitingDirection } = i := by rw [← held]
    rw [same]
    exact (setInstance_same there).symm
  | some b =>
    dsimp only
    have dropped (f : State → State) (set : ∀ u, ∃ bs, f u = u.redirected bs) (held : Bool) (u : State) :
        ∃ bs, (if held then f u else u) = u.redirected bs ∧ (held = false → bs = u.boundaries) := by
      cases held with
      | false => exact ⟨u.boundaries, rfl, fun _ => rfl⟩
      | true =>
        obtain ⟨bs, same⟩ := set u
        exact ⟨bs, same, fun no => nomatch no⟩
    obtain ⟨bs, first, kept⟩ := dropped (·.dropDirection b i.route) (fun u => ⟨_, rfl⟩) i.directionHeld s
    obtain ⟨bs', second, kept'⟩ := dropped (·.dropWaiting b i.route) (fun u => ⟨_, rfl⟩) i.awaitingDirection (s.redirected bs)
    refine ⟨bs', false, ?_, fun held awaits => (kept' awaits).trans (kept held)⟩
    rw [first, second]
    exact changeInstance_some (s := (s.redirected bs).redirected bs') there

end

/-! ## The whole of a route released -/

section
variable {v w : Work} {s : State} {g : Fin 8} {i : RouteInst} {r : RouteRecord}

/-- All that a route holds is freed: but for its locks under a train it has nothing left (R112, R128). -/
structure WholeFree (g : Fin 8) (i : RouteInst) (r : RouteRecord) (failure : Option Failure) (v w : Work) : Prop where
  releases : Releases (v.st.ownRef i.route) v.st w.st
  inst : ∃ j, w.st.instances[g] = some j ∧ j.route = i.route ∧ j.lastFailure = failure ∧ j.directionHeld = false
    ∧ j.portions.all (·.state == .void) = true ∧ j.flank = i.flank
  gone : ∀ k ∈ i.left r, ∀ e, elemAt r k = some e → v.st.isFreed (v.st.ownRef i.route) w.st e
  kept : ∀ e ∈ v.st.sendQueue, bodyTag e.telegram.body = none → e ∈ w.st.sendQueue
  few : v.st.sendQueue.length + i.portions.length + 1 ≤ 32 → w.st.sendQueue.length ≤ v.st.sendQueue.length + i.portions.length
  sent : v.st.sendQueue.length + i.portions.length + 1 ≤ 32 → ∀ p ∈ i.portions, v.st.isPresent p.owner = true →
    returnedAt i (dueIndices i r) p ≠ [] → placed p.owner
      (.release (p.tag.getD 0) (v.st.ownRef i.route) (wireElems r (returnedAt i (dueIndices i r) p))) ∈ w.st.sendQueue
  boundaries : i.directionHeld = false → i.awaitingDirection = false → w.st.boundaries = v.st.boundaries
  others : ∀ h : Fin 8, h ≠ g → v.st.instances[h] = none → w.st.instances[h] = none
  returns : w.returns = v.returns
  told : ∃ told, w.out = v.out ++ told ∧ ∀ y ∈ told, ofExit y
  quiet : (∀ g : Fin 8, v.st.signals[g].aspect = .stop) → w.out = v.out

/-- A portion never asked for becomes VOID (R112). -/
def voidUnasked (p : Portion) : Portion := if p.state = .none then { p with state := .void } else p

/-- What a full release makes of the portions. -/
theorem portions_void (fit : i.portionsFit r) (m : List Nat) :
    ((markReleased r (dueIndices i r) { i with faultMarks := m }).portions.map voidUnasked).all (·.state == .void) = true := by
  rw [List.all_eq_true]
  intro y member
  obtain ⟨x, settled, rfl⟩ := List.mem_map.mp member
  obtain ⟨p, known, rfl⟩ := List.mem_map.mp settled
  have void : (voidUnasked (settledPortion (i.released ++ (dueIndices i r).filter fun k => !i.released.contains k) p)).state = .void := by
    unfold voidUnasked
    by_cases asked : p.state = .none
    · have same : settledPortion (i.released ++ (dueIndices i r).filter fun k => !i.released.contains k) p = p :=
        if_neg (by rw [asked]; simp [PortionState.holding])
      rw [same, if_pos asked]
    · have settled := settled_void fit known asked
      rw [if_neg (by rw [settled]; decide), settled]
  exact beq_iff_eq.mpr void

/-- With its requirements freed a route gives up what it has not asked for, its flank and its direction. -/
theorem IndicesFree.whole (h : IndicesFree g i r (dueIndices i r) w v) (known : w.st.routeRecord i.route = some r)
    (fit : i.portionsFit r) (atBoundary : i.directionHeld = true → (exitBoundary r).isSome = true)
    (unclaimed : ∀ u : Work, u.st.routeRecord i.route = some r →
      (∃ j, u.st.instances[g] = some j ∧ j.route = i.route ∧ j.flank = i.flank) →
      u.releaseFlank g .whole (fun _ => true) = u) :
    WholeFree g i r i.lastFailure w (((v.on (·.changeInstance g fun i => { i with portions := i.portions.map voidUnasked })).releaseFlank g
      .whole fun _ => true).on (·.leaveDirection g)) := by
  obtain ⟨⟨u, frees, m, marked, st⟩, gone, kept, few, sent, returns, told, quiet⟩ := h
  let j₁ := markReleased r (dueIndices i r) { i with faultMarks := m }
  let j₂ : RouteInst := { j₁ with portions := j₁.portions.map voidUnasked }
  have there₁ : v.st.instances[g] = some j₁ := by rw [st]; exact set_own (v := u.instances) g (some j₁)
  have void : v.on (·.changeInstance g fun i => { i with portions := i.portions.map voidUnasked })
      = v.on (·.setInstance g (some j₂)) := congrArg (fun t : State => { v with st := t }) (changeInstance_some there₁)
  have there₂ : (v.st.setInstance g (some j₂)).instances[g] = some j₂ := set_own (v := v.st.instances) g (some j₂)
  have first : Releases (w.st.ownRef i.route) w.st v.st := st ▸ frees.toReleases.trans (.ofInstance _ u g _)
  have second := first.trans (.ofInstance _ v.st g (some j₂))
  have named := (second.routeRecord i.route).trans known
  obtain ⟨bs, awaits, left, same⟩ := leaveDirection_writes (running_of there₂ named) atBoundary
  let j : RouteInst := { j₂ with directionHeld := false, awaitingDirection := awaits }
  have last : Releases (w.st.ownRef i.route) v.st (((v.st.setInstance g (some j₂)).redirected bs).setInstance g (some j)) :=
    (Releases.ofInstance _ v.st g (some j₂)).trans ((Releases.redirected _ _ bs).trans (.ofInstance _ _ g (some j)))
  rw [void, unclaimed (v.on (·.setInstance g (some j₂))) named ⟨j₂, there₂, rfl, rfl⟩]
  have result : (v.on (·.setInstance g (some j₂))).on (·.leaveDirection g)
      = { v with st := ((v.st.setInstance g (some j₂)).redirected bs).setInstance g (some j) } :=
    congrArg (fun t : State => { v with st := t }) left
  rw [result]
  refine ⟨first.trans last, ⟨j, set_own (v := (v.st.setInstance g (some j₂)).instances) g (some j), rfl, rfl, rfl,
    portions_void fit m, rfl⟩, fun k known e at_ => ?_, kept, few, sent, fun held awaits => ?_, fun h apart empty => ?_, returns, told, quiet⟩
  · by_cases due : k ∈ dueIndices i r
    · exact (gone k due (mem_left.mp known).2 e at_).kept last first.underTrain
    · exact absurd (due_of_local fit at_ known) due
  · have still : v.st.boundaries = w.st.boundaries := by
      rw [st]
      exact frees.boundaries
    exact (same held awaits).trans still
  · have marks := frees.marks h
    have empty' : w.st.instances[h] = none := empty
    rw [empty', Option.map_none, Option.map_eq_none_iff] at marks
    refine (set_other (v := (v.st.setInstance g (some j₂)).instances) _ apart).trans
      ((set_other (v := v.st.instances) _ apart).trans ?_)
    rw [st]
    exact (set_other (v := u.instances) _ apart).trans marks

theorem releaseEverything_whole (runs : w.st.running g = some (i, r)) (fit : i.portionsFit r)
    (atBoundary : i.directionHeld = true → (exitBoundary r).isSome = true)
    (unclaimed : ∀ u : Work, u.st.routeRecord i.route = some r →
      (∃ j, u.st.instances[g] = some j ∧ j.route = i.route ∧ j.flank = i.flank) →
      u.releaseFlank g .whole (fun _ => true) = u) : WholeFree g i r i.lastFailure w (w.releaseEverything g) := by
  have whole := (freeIndices_free runs (dueIndices i r)).whole (running_some runs).2 fit atBoundary unclaimed
  unfold Work.releaseEverything
  rw [runs]
  exact whole

end

/-! ## The end of the instance -/

/-- An instance in EMERGENCY whose timer has expired (R113, R128, R135). -/
def RouteInst.waiting (j : RouteInst) : RouteInst :=
  { j with
    state := .emergency, settingTimer := none, approachTimer := none, overlapTimer := .stopped, emergencyTimer := .expired }

/-- The state in which a signal's instance has ended (R90, R180). -/
def State.endedAt (s : State) (g : Fin 8) (ended : Ended) : State :=
  { s with instances := s.instances.set g none, lastEnded := s.lastEnded.set g (some ended) }

section
variable {v w : Work} {s : State} {g : Fin 8} {i j : RouteInst} {r : RouteRecord} {failure : Option Failure}

theorem endInstance_ends (there : s.instances[g] = some j) : ∃ rs,
    s.endInstance g = (s.endedAt g ⟨j.route, j.lastFailure⟩).reporting rs := by
  unfold State.endInstance
  rw [there]
  exact ⟨((s.endedAt g ⟨j.route, j.lastFailure⟩).place (.route g)).reports, place_reporting (s.endedAt g _) (.route g)⟩

theorem endOrWait_ends (there : s.instances[g] = some j) (nothing : s.holdsNothing j = true) : s.endOrWait g = s.endInstance g := by
  unfold State.endOrWait
  rw [there]
  exact if_pos nothing

theorem endOrWait_waits (there : s.instances[g] = some j) (held : s.holdsNothing j ≠ true) :
    s.endOrWait g = s.setInstance g (some j.waiting) := by
  unfold State.endOrWait
  rw [there]
  exact (if_neg held).trans (changeInstance_some there)

theorem Releases.ended (ref : RouteRef) (s : State) (g : Fin 8) (f : Ended) (rs : List Subject) :
    Releases ref s ((s.endedAt g f).reporting rs) :=
  ⟨rfl, rfl, rfl, rfl, fun _ _ => rfl, fun _ => rfl, fun _ => .inr ⟨rfl, id⟩, fun _ => rfl, fun _ stop => stop,
    fun e => .inl (by cases e <;> rfl)⟩

/-- An instance that has nothing left but locks. -/
def RouteInst.hollow (j : RouteInst) : Prop :=
  j.directionHeld = false ∧ j.portions.all (·.state == .void) = true
    ∧ j.flank.all (fun f => f.state == .void || f.state == .refused) = true

/-- An instance with nothing left but locks holds nothing where no lock of its route stands (R90). -/
theorem RouteInst.hollow.holdsNothing (h : j.hollow) : s.holdsNothing j = !s.holdsLock (s.ownRef j.route) := by
  obtain ⟨held, void, flank⟩ := h
  unfold State.holdsNothing
  rw [held, void, flank]
  simp

/-- From `s` to `t` a route has given up all it held: its instance has ended, or waits in EMERGENCY for locks under a
train (R113, R128, R135). -/
structure RouteOver (g : Fin 8) (i : RouteInst) (r : RouteRecord) (failure : Option Failure) (s t : State) : Prop where
  releases : Releases (s.ownRef i.route) s t
  outcome : t.routeOver s g i failure
  freed : t.locksFreed s i r (i.left r)
  kept : ∀ e ∈ s.sendQueue, bodyTag e.telegram.body = none → e ∈ t.sendQueue
  sent : s.sendQueue.length + i.portions.length + 1 ≤ 32 → ∀ p ∈ i.portions, s.isPresent p.owner = true →
    returnedAt i (dueIndices i r) p ≠ [] → placed p.owner
      (.release (p.tag.getD 0) (s.ownRef i.route) (wireElems r (returnedAt i (dueIndices i r) p))) ∈ t.sendQueue
  boundaries : i.directionHeld = false → i.awaitingDirection = false → t.boundaries = s.boundaries

/-- A work in which a route has given up all it held. -/
structure RouteEnds (g : Fin 8) (i : RouteInst) (r : RouteRecord) (failure : Option Failure) (v w : Work) : Prop where
  ended : RouteOver g i r failure v.st w.st
  few : v.st.sendQueue.length + i.portions.length + 1 ≤ 32 → w.st.sendQueue.length ≤ v.st.sendQueue.length + i.portions.length
  others : ∀ h : Fin 8, h ≠ g → v.st.instances[h] = none → w.st.instances[h] = none
  returns : w.returns = v.returns
  quiet : (∀ g : Fin 8, v.st.signals[g].aspect = .stop) → w.out = v.out

theorem WholeFree.ends (h : WholeFree g i r failure v w) (flank : i.flank.all (fun f => f.state == .void || f.state == .refused) = true) :
    RouteEnds g i r failure v (w.on (·.endOrWait g)) := by
  obtain ⟨releases, ⟨j, there, route, last, held, void, same⟩, gone, kept, few, sent, boundaries, others, returns, -, quiet⟩ := h
  have hollow : j.hollow := ⟨held, void, same ▸ flank⟩
  have ref : w.st.ownRef j.route = v.st.ownRef i.route := by rw [route, releases.ownRef]
  have freed {t : State} (k : Releases (v.st.ownRef i.route) w.st t) : t.locksFreed v.st i r (i.left r) :=
    fun x known e l at_ lock mine => (gone x known e at_).kept k releases.underTrain l lock mine
  by_cases nothing : w.st.holdsNothing j = true
  · obtain ⟨rs, ended⟩ := endInstance_ends there
    have result : w.on (·.endOrWait g) = { w with st := (w.st.endedAt g ⟨j.route, j.lastFailure⟩).reporting rs } :=
      congrArg (fun t : State => { w with st := t }) ((endOrWait_ends there nothing).trans ended)
    have more := Releases.ended (v.st.ownRef i.route) w.st g ⟨j.route, j.lastFailure⟩ rs
    rw [result]
    refine ⟨⟨releases.trans more, .inl ⟨set_own (v := w.st.instances) g none, ?_⟩, freed more, kept, sent, boundaries⟩, few,
      fun h apart empty => (set_other (v := w.st.instances) _ apart).trans (others h apart empty), returns, quiet⟩
    rw [← route, ← last]
    exact set_own (v := w.st.lastEnded) g _
  · have result : w.on (·.endOrWait g) = { w with st := w.st.setInstance g (some j.waiting) } :=
      congrArg (fun t : State => { w with st := t }) (endOrWait_waits there nothing)
    have more := Releases.ofInstance (v.st.ownRef i.route) w.st g (some j.waiting)
    rw [result]
    refine ⟨⟨releases.trans more, .inr ⟨?_, j.waiting, set_own (v := w.st.instances) g (some j.waiting), route, rfl, rfl, last⟩,
      freed more, kept, sent, boundaries⟩, few,
      fun h apart empty => (set_other (v := w.st.instances) _ apart).trans (others h apart empty), returns, quiet⟩
    have stands : w.st.holdsLock (w.st.ownRef j.route) = true := by
      rw [hollow.holdsNothing] at nothing
      simpa using nothing
    rw [← ref]
    exact stands

/-- The failure of a rollback is recorded (R112). -/
theorem WholeFree.failed {before : Option Failure} (h : WholeFree g i r before v w) (failure : Option Failure) :
    WholeFree g i r failure v
      (w.on (·.changeInstance g fun i => { i with lastFailure := failure })) := by
  obtain ⟨releases, ⟨j, there, route, last, held, void, same⟩, gone, kept, few, sent, boundaries, others, returns, told, quiet⟩ := h
  have result : w.on (·.changeInstance g fun i => { i with lastFailure := failure })
      = { w with st := w.st.setInstance g (some { j with lastFailure := failure }) } :=
    congrArg (fun t : State => { w with st := t }) (changeInstance_some there)
  have more := Releases.ofInstance (v.st.ownRef i.route) w.st g (some { j with lastFailure := failure })
  rw [result]
  exact ⟨releases.trans more, ⟨_, set_own (v := w.st.instances) g _, route, rfl, held, void, same⟩,
    fun k known e at_ => (gone k known e at_).kept more releases.underTrain, kept, few, sent, boundaries,
    fun h apart empty => (set_other (v := w.st.instances) _ apart).trans (others h apart empty), returns, told, quiet⟩

/-- The step into OPEN that a route leaves first is of no account (R112, R128). -/
theorem RouteEnds.unstepped (h : RouteEnds g { i with inStep := false } r failure
    (v.on (·.setInstance g (some { i with inStep := false }))) w) : RouteEnds g i r failure v w :=
  ⟨⟨(Releases.ofInstance _ v.st g _).trans h.ended.releases, h.ended.outcome, h.ended.freed, h.ended.kept, h.ended.sent,
    h.ended.boundaries⟩, h.few, fun k apart empty => h.others k apart ((set_other (v := v.st.instances) _ apart).trans empty), h.returns, h.quiet⟩

theorem replaceSignal_of_stop (stop : w.st.signals[g].aspect = .stop) : w.replaceSignal g = w :=
  if_neg (by rw [stop]; decide)

/-- What a route needs for a release to reach all of it. -/
structure Releasable (s : State) (g : Fin 8) (i : RouteInst) (r : RouteRecord) : Prop where
  runs : s.running g = some (i, r)
  fit : i.portionsFit r
  atBoundary : i.directionHeld = true → (exitBoundary r).isSome = true
  stop : ∀ h : Fin 8, s.signals[h].aspect = .stop
  flank : i.flank.all (fun f => f.state == .void || f.state == .refused) = true
  unclaimed : ∀ u : Work, u.st.routeRecord i.route = some r →
    (∃ j, u.st.instances[g] = some j ∧ j.route = i.route ∧ j.flank = i.flank) →
    u.releaseFlank g .whole (fun _ => true) = u

theorem Releasable.unstepped (h : Releasable s g i r) :
    Releasable (s.setInstance g (some { i with inStep := false })) g { i with inStep := false } r :=
  ⟨running_of (set_own (v := s.instances) g _) (running_some h.runs).2, h.fit, h.atBoundary, h.stop, h.flank, h.unclaimed⟩

theorem Releasable.whole (h : Releasable w.st g i r) : WholeFree g i r i.lastFailure w (w.releaseEverything g) :=
  releaseEverything_whole h.runs h.fit h.atBoundary h.unclaimed

/-- The signal of the route stands at STOP: only the step into OPEN is left. -/
theorem Releasable.replaced (h : Releasable w.st g i r) :
    (w.replaceSignal g).on (·.changeInstance g fun i => { i with inStep := false })
      = w.on (·.setInstance g (some { i with inStep := false })) := by
  rw [replaceSignal_of_stop (h.stop g)]
  exact congrArg (fun t : State => { w with st := t }) (changeInstance_some (running_some h.runs).1)

theorem fullRelease_ends (h : Releasable w.st g i r) : RouteEnds g i r i.lastFailure w (w.fullRelease g) := by
  unfold Work.fullRelease
  dsimp only
  rw [h.replaced]
  have stepped : Releasable (w.on (·.setInstance g (some { i with inStep := false }))).st g _ r := h.unstepped
  exact (stepped.whole.ends h.flank).unstepped

theorem rollback_ends (h : Releasable w.st g i r) (set : i.beingSet = true) (failure : Failure) :
    RouteEnds g i r (some failure) w (w.rollback g (some failure)) := by
  unfold Work.rollback
  rw [(running_some h.runs).1]
  dsimp only
  rw [if_pos set, h.replaced]
  have stepped : Releasable (w.on (·.setInstance g (some { i with inStep := false }))).st g _ r := h.unstepped
  exact ((stepped.whole.failed (some failure)).ends h.flank).unstepped

theorem emergencyExpires_ends (h : Releasable w.st g i r) (state : i.state = .emergency) (timer : i.emergencyTimer.isRunning = true) :
    RouteEnds g i r i.lastFailure w (w.emergencyExpires g) := by
  unfold Work.emergencyExpires
  rw [(running_some h.runs).1]
  dsimp only
  rw [if_pos ⟨state, timer⟩]
  exact h.whole.ends h.flank

end

/-! ## Events that end a route -/

section
variable {c : Instr} {s t u start : State} {g : Fin 8} {i : RouteInst} {r : RouteRecord} {failure : Option Failure}
variable {w : Work} {work : Work → Work} {P : State → Prop}

/-- What the end of an event makes of a state, with the tasks left over. -/
def State.ending (start u : State) (n : Notes) (left : List Task := []) : State := (start.keep { u with agenda := left }).noting n

/-- An event without tasks. -/
theorem Completes.of_quiet (ready : s.ready) (row : exec c s = s.event start work) (begun : start.agenda = s.agenda)
    (reaches : work (Work.begin start) = w) (out : w.out = []) (returns : w.returns = [])
    (h : ∀ n : Notes, n.After w.st → P (start.ending w.st n)) : Completes c s P := by
  subst reaches
  obtain ⟨u, ends, noted⟩ := event_noted (start := start) (work := work) ready.1
  rw [settled_of_quiet (begun.trans ready.2) out returns] at noted
  refine .of_noted (b := start.keep { (work (Work.begin start)).st with agenda := [] }) ⟨u, row.trans ends, noted⟩ fun n after => h n ?_
  exact ⟨after.sent, after.counts, after.rises, after.kept⟩

/-- The end of an event is no release. -/
theorem Releases.ending (ref : RouteRef) {n : Notes} {left : List Task} (cfg : start.cfg = u.cfg) (address : start.address = u.address) (after : n.After u) :
    Releases ref u (start.ending u n left) :=
  ⟨cfg, address, rfl, rfl, after.counts, fun _ => rfl, fun _ => .inr ⟨rfl, id⟩, fun _ => rfl, fun _ stop => stop,
    fun e => .inl (by cases e <;> rfl)⟩

theorem RouteOver.ending {n : Notes} {left : List Task} (h : RouteOver g i r failure s u) (cfg : start.cfg = s.cfg) (address : start.address = s.address)
    (after : n.After u) : RouteOver g i r failure s (start.ending u n left) := by
  have stays := Releases.ending (left := left) (s.ownRef i.route) (cfg.trans h.releases.cfg.symm) (address.trans h.releases.address.symm) after
  have locks (e : Elem) : (start.ending u n left).lockOf e = u.lockOf e := by cases e <;> rfl
  have holds : (start.ending u n left).holdsLock (s.ownRef i.route) = u.holdsLock (s.ownRef i.route) := by
    unfold State.holdsLock
    exact congrArg allElems.any (funext fun e => by rw [locks])
  obtain ⟨more, sent⟩ := after.sent
  have queued (e : SendEntry) (known : e ∈ u.sendQueue) : e ∈ (start.ending u n left).sendQueue := by
    show e ∈ n.sendQueue
    rw [sent]
    exact List.mem_append_left _ known
  refine ⟨h.releases.trans stays, h.outcome.imp id fun ⟨stands, there⟩ => ⟨holds.trans stands, there⟩, fun k known e l at_ lock mine => ?_,
    fun e known untagged => queued e (h.kept e known untagged),
    fun room p known present some => queued _ (h.sent room p known present some), h.boundaries⟩
  exact h.freed k known e l at_ ((locks e).symm.trans lock) mine

/-- An event whose work ends a route at once, with no signal to replace. -/
theorem Completes.of_routeEnds (ready : s.ready) (row : exec c s = s.event s work) (stop : ∀ h : Fin 8, s.signals[h].aspect = .stop)
    (ends : RouteEnds g i r failure (Work.begin s) (work (Work.begin s))) (h : ∀ t, RouteOver g i r failure s t → P t) :
    Completes c s P :=
  .of_quiet ready row rfl rfl (ends.quiet stop) ends.returns fun _ after => h _ (ends.ended.ending rfl rfl after)

theorem releasable_of_plain (plain : s.plainRoute g i r) : Releasable s g i r := by
  obtain ⟨runs, record, none, fit, atBoundary, stop⟩ := plain
  refine ⟨runs, fit, atBoundary, stop, by simp [none], fun u named ⟨j, there, route, flank⟩ => releaseFlank_of_none ?_ _ _⟩
  exact flankParts_of_record (running_of there (route ▸ named)) record

/-- What a held portion gives back is what it has not released. -/
theorem RouteOver.releasesPlaced (h : RouteOver g i r failure s t) (fit : i.portionsFit r) : t.releasesPlaced s i r (i.left r) := by
  intro room p known held present some
  have due := returnedAt_due fit known held
  rw [← due] at some ⊢
  exact h.sent room p known present some

theorem Releases.drives {ref : RouteRef} (h : Releases ref s t) : t.points.map (·.drive) = s.points.map (·.drive) := by
  refine Vector.ext fun k bound => ?_
  rw [Vector.getElem_map, Vector.getElem_map]
  exact h.drive ⟨k, bound⟩

/-- Settles O46: each of the three timers has its route release all that it holds, and end or wait in EMERGENCY. -/
theorem expiredTimersEndRoutes : Obligations.ExpiredTimersEndRoutes := by
  unfold Obligations.ExpiredTimersEndRoutes
  intro s g i r ready plain
  have releasable : Releasable (Work.begin s).st g i r := releasable_of_plain plain
  have there := (running_some plain.1).1
  have completes {c : Instr} {work : Work → Work} {failure : Option Failure} (row : exec c s = s.event s work)
      (ends : RouteEnds g i r failure (Work.begin s) (work (Work.begin s))) : Completes c s fun t =>
        t.routeOver s g i failure ∧ t.locksFreed s i r (i.left r) ∧ t.releasesPlaced s i r (i.left r)
          ∧ t.points.map (·.drive) = s.points.map (·.drive) ∧ t.reservations = s.reservations :=
    .of_routeEnds ready row releasable.stop ends fun t h =>
      ⟨h.outcome, h.freed, h.releasesPlaced releasable.fit, h.releases.drives, h.releases.reservations⟩
  refine ⟨fun set timer => completes (work := _) rfl ?_, fun state timer => completes (work := _) rfl ?_,
    fun state timer => completes (work := _) rfl (emergencyExpires_ends releasable state timer)⟩
  · have expires := rollback_ends releasable set ⟨.notProven, s.limitIndex g i r⟩
    rw [show (Work.begin s).st.running g = some (i, r) from plain.1]
    dsimp only
    rw [if_pos timer]
    exact expires
  · have expires := fullRelease_ends releasable
    rw [show (Work.begin s).st.instances[g] = some i from there]
    dsimp only
    rw [if_pos ⟨state, timer⟩]
    exact expires

end

end Sys2Proof.Machine
end

section
/-! PROOFS. The overlap timer's expiry (O47). -/

namespace Sys2Proof.Machine

section
variable {v w : Work} {s : State} {g : Fin 8} {i j : RouteInst} {r : RouteRecord} {k : Nat}

/-- What is held of an overlap has not been released. -/
theorem heldOverlap_left (known : k ∈ heldOverlap i r) : i.released.contains k = false := by
  obtain ⟨x, held, rfl⟩ := List.mem_map.mp known
  have holds := (List.mem_filter.mp held).2
  simp only [RouteInst.holds, Bool.and_eq_true, Bool.not_eq_true'] at holds
  exact holds.2.1

theorem mem_markReleased {freed : List Nat} (known : k ∈ freed) : k ∈ (markReleased r freed i).released := by
  by_cases before : k ∈ i.released
  · exact List.mem_append_left _ before
  · exact List.mem_append_right _ (List.mem_filter.mpr ⟨known, by simpa using before⟩)

theorem endIfEmpty_ends (there : s.instances[g] = some j) (nothing : s.holdsNothing j = true) :
    s.endIfEmpty g = s.endInstance g := by
  unfold State.endIfEmpty
  rw [there]
  exact if_pos nothing

theorem endIfEmpty_stays (there : s.instances[g] = some j) (held : s.holdsNothing j = false) : s.endIfEmpty g = s := by
  unfold State.endIfEmpty
  rw [there]
  exact if_neg (by rw [held]; decide)

/-- The instance that the overlap timer has expired for. -/
def RouteInst.overlapOver (i : RouteInst) : RouteInst := { i with overlapTimer := .expired }

/-- The expiry frees nothing under a fault mark (R125). -/
theorem overlapExpires_marked (runs : w.st.running g = some (i, r)) (marked : i.faultMarks ≠ []) :
    w.overlapExpires g = w.on (·.setInstance g (some i.overlapOver)) := by
  have expired : w.on (·.changeInstance g fun i => { i with overlapTimer := .expired }) = w.on (·.setInstance g (some i.overlapOver)) :=
    congrArg (fun t : State => { w with st := t }) (changeInstance_some (running_some runs).1)
  unfold Work.overlapExpires
  rw [runs]
  dsimp only
  rw [if_pos (by simpa using marked), expired]

/-- It frees the overlap without one. -/
theorem overlapExpires_frees (runs : w.st.running g = some (i, r)) (unmarked : i.faultMarks = []) (plain : r.flank = []) :
    ∃ v, w.overlapExpires g = v.on (·.endIfEmpty g) ∧ v.st.routeRecord i.route = some r
      ∧ IndicesFree g i.overlapOver r (heldOverlap i r) (w.on (·.setInstance g (some i.overlapOver))) v := by
  obtain ⟨there, named⟩ := running_some runs
  have expired : w.on (·.changeInstance g fun i => { i with overlapTimer := .expired }) = w.on (·.setInstance g (some i.overlapOver)) :=
    congrArg (fun t : State => { w with st := t }) (changeInstance_some there)
  have begun : (w.on (·.setInstance g (some i.overlapOver))).st.running g = some (i.overlapOver, r) :=
    running_of (set_own (v := w.st.instances) g _) named
  have free := freeIndices_free begun (heldOverlap i r)
  obtain ⟨u, frees, m, -, st⟩ := free.frees
  let v := (w.on (·.setInstance g (some i.overlapOver))).freeIndices g (heldOverlap i r)
  have record : v.st.routeRecord i.route = some r := by
    rw [show v.st = _ from st]
    exact ((frees.toReleases.trans (.ofInstance _ u g _)).routeRecord _).trans named
  have unprotected : v.releaseProtecting g .overlap (heldOverlap i r) = v := by
    have there' : v.st.instances[g] = some (markReleased r (heldOverlap i r) { i.overlapOver with faultMarks := m }) := by
      rw [show v.st = _ from st]
      exact set_own (v := u.instances) g _
    exact releaseFlank_of_none (flankParts_of_record (running_of there' record) plain) _ _
  refine ⟨v, ?_, record, free⟩
  unfold Work.overlapExpires
  rw [runs]
  dsimp only
  rw [if_neg (by simp [unmarked]), expired]
  exact congrArg (Work.on · (·.endIfEmpty g)) unprotected

/-- What is still held of an overlap goes back to its owners. -/
theorem returnedAt_overlap {p : Portion} (held : p.state.holding = true) :
    returnedAt i.overlapOver (heldOverlap i r) p = p.indices.filter (heldOverlap i r).contains := by
  rw [returnedAt, if_pos held]
  refine List.filter_congr fun k _ => ?_
  by_cases known : k ∈ heldOverlap i r
  · have left : i.overlapOver.released.contains k = false := heldOverlap_left known
    rw [left, Bool.not_false, Bool.and_true]
  · rw [show (heldOverlap i r).contains k = false from by simpa using known, Bool.false_and]

/-- The instance has ended with nothing held, or is there with something held (R90). -/
def State.endedOrHolds (t : State) (g : Fin 8) (ref : RouteRef) (j : RouteInst) : Prop :=
  t.instances[g] = none ∧ t.lastEnded[g] = some ⟨j.route, j.lastFailure⟩ ∧ t.holdsLock ref = false
    ∨ t.instances[g] = some j ∧ t.holdsNothing j = false

theorem endIfEmpty_outcome (there : s.instances[g] = some j) : Releases (s.ownRef j.route) s (s.endIfEmpty g)
    ∧ (s.endIfEmpty g).sendQueue = s.sendQueue ∧ (s.endIfEmpty g).endedOrHolds g (s.ownRef j.route) j := by
  cases nothing : s.holdsNothing j with
  | false =>
    rw [endIfEmpty_stays there nothing]
    exact ⟨(Frees.refl _ s).toReleases, rfl, .inr ⟨there, nothing⟩⟩
  | true =>
    obtain ⟨rs, ended⟩ := endInstance_ends there
    rw [endIfEmpty_ends there nothing, ended]
    refine ⟨.ended _ s g _ rs, rfl, .inl ⟨set_own (v := s.instances) g none, set_own (v := s.lastEnded) g _, ?_⟩⟩
    have unlocked : s.holdsLock (s.ownRef j.route) = false := by
      unfold State.holdsNothing at nothing
      simp only [Bool.and_eq_true, Bool.not_eq_true'] at nothing
      exact nothing.1.1.1
    exact unlocked

theorem State.endedOrHolds.ending {start u : State} {n : Notes} {ref : RouteRef} (h : u.endedOrHolds g ref j)
    (address : start.address = u.address) : (start.ending u n).endedOrHolds g ref j := by
  have locks (ref : RouteRef) : (start.ending u n).holdsLock ref = u.holdsLock ref := by
    unfold State.holdsLock
    exact congrArg allElems.any (funext fun e => by cases e <;> rfl)
  have own : (start.ending u n).ownRef j.route = u.ownRef j.route := by
    unfold State.ownRef
    rw [own_of_address (s := u) (t := start.ending u n) address]
  refine h.imp (fun ⟨gone, last, unlocked⟩ => ⟨gone, last, (locks ref).trans unlocked⟩) fun ⟨there, held⟩ => ⟨there, ?_⟩
  unfold State.holdsNothing at held ⊢
  rw [own, locks]
  exact held

end

/-- The event of an overlap timer that runs. -/
theorem overlapTimerExpiry_works {s : State} {g : Fin 8} {i : RouteInst} (there : s.instances[g] = some i)
    (timer : i.overlapTimer.isRunning = true) : ∃ work : Work → Work,
      exec (.overlapTimerExpiry g) s = s.event s work ∧ work (Work.begin s) = (Work.begin s).overlapExpires g := by
  refine ⟨_, rfl, ?_⟩
  rw [show (Work.begin s).st.instances[g] = some i from there]
  exact if_pos timer

/-- Settles O47: under a fault mark only the timer is written; without one the overlap's requirements are freed, and a
route that then holds nothing more ends. -/
theorem overlapExpiryReleasesOverlap : Obligations.OverlapExpiryReleasesOverlap := by
  unfold Obligations.OverlapExpiryReleasesOverlap
  intro s g i r ready runs timer plain stop
  obtain ⟨there, named⟩ := running_some runs
  obtain ⟨work, row, begun⟩ := overlapTimerExpiry_works there timer
  by_cases unmarked : i.faultMarks = []
  · obtain ⟨v, result, -, free⟩ := overlapExpires_frees (w := Work.begin s) runs unmarked plain
    obtain ⟨u, frees, m, -, st⟩ := free.frees
    let j := markReleased r (heldOverlap i r) { i.overlapOver with faultMarks := m }
    have there' : v.st.instances[g] = some j := by rw [st]; exact set_own (v := u.instances) g _
    have first : Releases (s.ownRef i.route) s v.st :=
      (Releases.ofInstance _ s g (some i.overlapOver)).trans (st ▸ frees.toReleases.trans (.ofInstance _ u g _))
    have own : v.st.ownRef j.route = s.ownRef i.route := first.ownRef i.route
    obtain ⟨second, queue, outcome⟩ := endIfEmpty_outcome there'
    rw [own] at second outcome
    refine .of_quiet ready row rfl (begun.trans result) (free.quiet stop) free.returns fun n after => ?_
    have ends := Releases.ending (start := s) (left := []) (s.ownRef i.route) (second.cfg.trans first.cfg).symm
      (second.address.trans first.address).symm after
    refine ⟨fun marked => absurd unmarked marked, fun _ => ⟨?_, fun k known e l at_ lock mine => ?_, fun room p known held present some => ?_⟩⟩
    · rcases outcome.ending (start := s) (n := n) (second.address.trans first.address).symm with gone | ⟨stays, held⟩
      · exact .inl gone
      · exact .inr ⟨j, stays, rfl, rfl, held, fun k known => mem_markReleased known⟩
    · exact (free.gone k known (heldOverlap_left known) e at_).kept (second.trans ends) first.underTrain l lock mine
    · obtain ⟨more, sent⟩ := after.sent
      show _ ∈ n.sendQueue
      rw [sent]
      refine List.mem_append_left _ ?_
      show _ ∈ (v.st.endIfEmpty g).sendQueue
      rw [queue, ← returnedAt_overlap held]
      exact free.sent room p known present (by rw [returnedAt_overlap held]; exact some)
  · have result := overlapExpires_marked (w := Work.begin s) runs unmarked
    exact .of_quiet ready row rfl (begun.trans result) rfl rfl fun n _ =>
      ⟨fun _ => ⟨set_own (v := s.instances) g _, rfl, rfl, rfl⟩, fun marked => absurd marked unmarked⟩

end Sys2Proof.Machine
end

section
/-! PROOFS. Requests that fail at their owner when the answer deadline passes (O27). -/

namespace Sys2Proof.Machine

/-! ## Events with tasks -/

section
variable {c : Instr} {s s' t u start : State} {g : Fin 8} {i : RouteInst} {r : RouteRecord} {failure : Option Failure} {k : Nat}
variable {v w : Work} {work : Work → Work} {P : State → Prop} {Q : Work → Prop}

/-- An event whose tasks arrive where `Q` holds ends there, with the FLANK RELEASE telegrams it has kept. -/
theorem Completes.of_settling (ready : s.ready) (row : exec c s = s.event start work) (begun : start.agenda = s.agenda)
    (reaches : work (Work.begin start) = w) (few : k < taskBound) (arrives : Arrives start k w.out { w with out := [] } Q)
    (h : ∀ v, Q v → ∀ n : Notes, n.After v.returnFlank.st → P (start.ending v.returnFlank.st n)) : Completes c s P := by
  subst reaches
  obtain ⟨v, done, holds⟩ := arrives taskBound few
  rw [taskBound, ← List.append_nil (Work.out _), ← settle_out start 4095] at done
  obtain ⟨u, ends, noted⟩ := event_noted (start := start) (work := work) ready.1
  have settled : (start.settled work).st = start.keep { v.returnFlank.st with agenda := [] } := by
    unfold State.settled
    dsimp only
    rw [begun, ready.2, List.nil_append, taskBound, ← List.append_nil (Work.out _), done]
    rfl
  rw [settled] at noted
  refine .of_noted ⟨u, row.trans ends, noted⟩ fun n after => h v holds n ?_
  exact ⟨after.sent, after.counts, after.rises, after.kept⟩

/-- A route given up from a state that differs only in what is no release, and in telegrams withdrawn. -/
theorem RouteOver.since (h : RouteOver g i r failure s' t) (k : Releases (s.ownRef i.route) s s')
    (kept : ∀ e ∈ s.sendQueue, bodyTag e.telegram.body = none → e ∈ s'.sendQueue)
    (few : s'.sendQueue.length ≤ s.sendQueue.length) (boundaries : s'.boundaries = s.boundaries) :
    RouteOver g i r failure s t := by
  have own : s'.ownRef i.route = s.ownRef i.route := k.ownRef _
  obtain ⟨releases, outcome, freed, kept', sent, boundaries'⟩ := h
  unfold State.routeOver at outcome
  unfold State.locksFreed at freed
  rw [own] at releases outcome freed sent
  refine ⟨k.trans releases, outcome, fun x known e l at_ lock mine => ?_, fun e known untagged => kept' e (kept e known untagged) untagged,
    fun room p known present => ?_, fun held awaits => (boundaries' held awaits).trans boundaries⟩
  · obtain ⟨pending, train⟩ := freed x known e l at_ lock mine
    exact ⟨pending, k.underTrain e ▸ train⟩
  · exact sent (by omega) p known ((k.isPresent _).trans present)

theorem Releases.reporting (ref : RouteRef) (s : State) (rs : List Subject) : Releases ref s (s.reporting rs) :=
  (Frees.of_fields (s := s) (t := s.reporting rs) rfl rfl rfl rfl rfl (fun _ _ => rfl) rfl rfl rfl rfl).toReleases

theorem running_of_same (cfg : t.cfg = s.cfg) (instances : t.instances = s.instances) : t.running g = s.running g := by
  unfold State.running State.routeRecord
  rw [cfg, instances]

theorem Releasable.of_same (h : Releasable s g i r) (cfg : t.cfg = s.cfg) (instances : t.instances = s.instances)
    (signals : t.signals = s.signals) : Releasable t g i r :=
  ⟨(running_of_same cfg instances).trans h.runs, h.fit, h.atBoundary, by rw [signals]; exact h.stop, h.flank, h.unclaimed⟩

/-- A rollback as a task (R112). -/
theorem arrives_rollback {f : Failure} {ts : List Task} (h : Releasable w.st g i r) (quiet : w.out = []) (set : i.beingSet = true)
    (rest : ∀ v rs, v.out = [] → RouteEnds g i r (some f) (w.reporting rs) v → Arrives start k ts v Q) :
    Arrives start (k + 1) (.rollback g (some f) :: ts) w Q := by
  refine .step fun rs => ?_
  have cleared : ({ w with out := [] } : Work) = w := by rw [← quiet]
  rw [cleared]
  have ends : RouteEnds g i r (some f) (w.reporting rs) ((w.reporting rs).take (.rollback g (some f))) :=
    rollback_ends (h.of_same (t := w.st.reporting rs) rfl rfl rfl) set f
  have out : ((w.reporting rs).take (.rollback g (some f))).out = [] := (ends.quiet h.stop).trans quiet
  dsimp only
  have same : ({ (w.reporting rs).take (.rollback g (some f)) with out := [] } : Work) = (w.reporting rs).take (.rollback g (some f)) := by
    rw [← out]
  rw [out, List.nil_append, same]
  exact rest _ rs out ends

/-- More may be noted once a route is given up. -/
theorem RouteOver.noted (h : RouteOver g i r failure s t) (k : Noted t u) : RouteOver g i r failure s u := by
  have stays := (Frees.noted (ref := s.ownRef i.route) k).toReleases
  obtain ⟨more, sent⟩ := k.sent
  have queued (e : SendEntry) (known : e ∈ t.sendQueue) : e ∈ u.sendQueue := by
    rw [sent]
    exact List.mem_append_left _ known
  have same := k.noting
  generalize u.notes = n at same
  subst same
  exact ⟨h.releases.trans stays, h.outcome, h.freed, fun e known untagged => queued e (h.kept e known untagged),
    fun room p known present some => queued _ (h.sent room p known present some), h.boundaries⟩

theorem RouteEnds.reporting (h : RouteEnds g i r failure v w) (rs : List Subject) : RouteEnds g i r failure v (w.reporting rs) :=
  ⟨⟨h.ended.releases.trans (.reporting _ _ rs), h.ended.outcome, h.ended.freed, h.ended.kept, h.ended.sent, h.ended.boundaries⟩,
    h.few, h.others, h.returns, h.quiet⟩

theorem RouteEnds.few_of {j : RouteInst} (h : RouteEnds g i r failure v w) (queue : v.st.sendQueue = s.sendQueue)
    (portions : i.portions = j.portions) (room : s.sendQueue.length + j.portions.length + 1 ≤ 32) :
    w.st.sendQueue.length ≤ s.sendQueue.length + j.portions.length := by
  rw [← queue, ← portions] at room ⊢
  exact h.few room

/-- The proof of a route that is given up is assessed no more (R105). -/
theorem RouteEnds.assess (h : RouteEnds g i r failure v w) : w.assess g = w := by
  rcases h.ended.outcome with ⟨gone, -⟩ | ⟨-, j, there, -, emergency, -⟩
  · unfold Work.assess
    rw [running_of_none gone]
  · exact assess_idle there (by rw [emergency]; decide)

/-! ## The answer deadline (R79) -/

variable {q : Request} {left : Nat}

/-- The deadline of a request that waits takes its entry away and has it fail (R79). -/
theorem deadline_fails (unique : (w.st.requests.map (·.tag)).Nodup) (known : q ∈ w.st.requests) (waits : q.state = .waiting left) :
    w.deadline q.tag = (w.on fun s => s.asking (s.requests.filter (·.tag != q.tag)) s.sendQueue).emit [.requestFailed q] := by
  have found : w.st.requests.find? (fun x => x.tag == q.tag && x.isWaiting) = some q := by
    rw [List.find?_eq_some_iff_append]
    obtain ⟨_, before, after, split, early⟩ := List.find?_eq_some_iff_append.mp (find_of_tag unique known)
    refine ⟨by simp [Request.isWaiting, waits], before, after, split, fun x member => ?_⟩
    have other := early x member
    simp only [Bool.not_eq_true', beq_eq_false_iff_ne] at other
    simp [other]
  unfold Work.deadline
  rw [found]
  rfl

/-- The state without the pending entry under a tag. -/
def State.unasked (s : State) (tag : Byte) : State := s.asking (s.requests.filter (·.tag != tag)) s.sendQueue

theorem Releases.unasked (ref : RouteRef) (s : State) (tag : Byte) : Releases ref s (s.unasked tag) :=
  (Frees.of_fields (s := s) (t := s.unasked tag) rfl rfl rfl rfl rfl (fun _ _ => rfl) rfl rfl rfl rfl).toReleases

/-- A deadline after which the request's failure is all that happens. -/
theorem CompletesDraining.of_deadline {b : State} (ready : s.ready) (holds : s.requestsHold) (known : q ∈ s.requests)
    (waits : q.state = .waiting left)
    (fails : ∀ rs, ((Work.begin (s.unasked q.tag)).reporting rs).requestFailed q = (Work.begin b).reporting rs)
    (kept : s.keep b = b) (agenda : b.agenda = []) (signals : b.signals = s.signals) (sections : b.sections = s.sections)
    (h : ∀ rs, P (b.reporting rs)) : CompletesDraining (.answerDeadline q.tag) s P := by
  have begun : (Work.begin s).deadline q.tag = (Work.begin (s.unasked q.tag)).emit [.requestFailed q] :=
    deadline_fails (w := Work.begin s) holds.2 known waits
  obtain ⟨u, ends, rs, rfl⟩ := event_arrives (Q := fun u => ∃ rs, u = b.reporting rs) (before := s) (start := s)
    (work := fun _ => (Work.begin (s.unasked q.tag)).emit [.requestFailed q]) ready rfl (k := 1) (by decide)
    (Follows.step (w := Work.begin (s.unasked q.tag)) (w₁ := Work.begin b) (x := .requestFailed q) (fun rs => fails rs)
      (.done fun rs => Rests.reporting kept agenda signals sections rs) s.reports)
  exact .of_placed ((event_congr (work := fun w => w.deadline q.tag) begun).trans ends) fun rs' => h rs'

/-- A RESERVE that fails has its route rolled back with PEER_ABSENT (R96). -/
theorem requestFailed_portion {x : Portion} (subject : q.subject = .portion g i.route) (runs : w.st.running g = some (i, r))
    (fit : i.portionsFit r) (known : x ∈ i.portions) (owner : x.owner = q.dest) (pending : x.state = .pending)
    (tagged : x.tag = some q.tag) :
    w.requestFailed q = w.emit [.rollback g (some ⟨.peerAbsent, x.indices.headD 0⟩)] := by
  unfold Work.requestFailed
  rw [subject]
  dsimp only
  rw [runs]
  dsimp only
  cases found : i.portions.find? fun p => p.owner == q.dest && p.state == .pending && p.tag == some q.tag with
  | none =>
    have missed := List.find?_eq_none.mp found x known
    simp [owner, pending, tagged] at missed
  | some p =>
    have fits := List.find?_some found
    simp only [Bool.and_eq_true, beq_iff_eq] at fits
    obtain rfl : p = x := List.inj_on_of_nodup_map fit.1 (List.mem_of_find?_eq_some found) known (fits.1.1.trans owner.symm)
    exact if_pos rfl

/-- A route that is given up as the last thing an event does, after what is no release (R112). -/
theorem RouteOver.after {v : Work} {n : Notes} (h : RouteEnds g i r failure w v) (k : Releases (s.ownRef i.route) s w.st)
    (kept : ∀ e ∈ s.sendQueue, bodyTag e.telegram.body = none → e ∈ w.st.sendQueue)
    (few : w.st.sendQueue.length ≤ s.sendQueue.length) (boundaries : w.st.boundaries = s.boundaries)
    (none : w.returns = []) (after : n.After v.returnFlank.st) : RouteOver g i r failure s (s.ending v.returnFlank.st n) := by
  rw [returnFlank_of_nil (h.returns.trans none)] at after ⊢
  exact (h.ended.since k kept few boundaries).ending rfl rfl after

theorem deadline_rolls {x : Portion} (subject : q.subject = .portion g i.route) (plain : s.plainRoute g i r)
    (set : i.beingSet = true) (known : x ∈ i.portions) (owner : x.owner = q.dest) (pending : x.state = .pending)
    (tagged : x.tag = some q.tag) :
    Arrives s 2 [.requestFailed q] (Work.begin (s.unasked q.tag)) fun v => ∃ rs,
      RouteEnds g i r (some ⟨.peerAbsent, x.indices.headD 0⟩) (Work.begin ((s.unasked q.tag).reporting rs)) v := by
  have releasable := releasable_of_plain plain
  refine .step fun rs => ?_
  have fails : ((Work.begin (s.unasked q.tag)).reporting rs).take (.requestFailed q) = _ :=
    requestFailed_portion (w := (Work.begin (s.unasked q.tag)).reporting rs) subject plain.1 releasable.fit known owner pending tagged
  rw [show ({ Work.begin (s.unasked q.tag) with out := [] } : Work) = Work.begin (s.unasked q.tag) from rfl, fails]
  exact arrives_rollback (w := Work.begin ((s.unasked q.tag).reporting rs)) (releasable.of_same rfl rfl rfl) rfl set
    fun v rs' _ ends => .done ⟨rs', ends⟩

/-! ## A FLANK CLAIM that fails (R146) -/

variable {f : FlankEntry} {x : FlankPortion} {elems : List Nat}

/-- A flank portion refused for an absent peer, with no substitute. -/
def FlankPortion.unanswered (x : FlankPortion) : FlankPortion := { x with state := .refused, reason := some (.refusal .peerAbsent) }

/-- The route whose one flank portion is refused. -/
def RouteInst.unflanked (i : RouteInst) (x : FlankPortion) : RouteInst := { i with flank := [x.unanswered] }

theorem refuseFlank_single (runs : s.running g = some (i, r)) (entries : r.flank = [f]) (parts : i.flank = [x])
    (single : f.substitute = none) : s.refuseFlank g 0 .peerAbsent = s.setInstance g (some (i.unflanked x)) := by
  have refused : refusedPortion f .peerAbsent x = x.unanswered := by
    unfold refusedPortion
    rw [single]
    obtain ⟨inUse, owner, state, tag, reason⟩ := x
    cases inUse <;> rfl
  unfold State.refuseFlank
  rw [flankParts_of_single runs entries parts]
  show s.changeFlank g 0 (refusedPortion f .peerAbsent) = _
  refine (changeInstance_some (running_some runs).1).trans ?_
  rw [parts]
  show s.setInstance g (some { i with flank := [refusedPortion f .peerAbsent x] }) = _
  rw [refused]
  rfl

/-- A route whose one flank portion is refused fails by it (R145). -/
theorem claimFlank_fails (runs : w.st.running g = some (i.unflanked x, r)) (entries : r.flank = [f]) (state : i.state = .positioning) :
    w.claimFlank g = w.emit [.rollback g (some ⟨.peerAbsent, 21⟩)] := by
  have parts := flankParts_of_single runs entries (x := x.unanswered) rfl
  have failure : w.st.flankFailure g = some ⟨.peerAbsent, 21⟩ := by
    unfold State.flankFailure
    rw [parts]
    rfl
  have due : ((w.st.flankParts g).filter fun y => y.2.2.state == .none) = [] := by
    rw [parts]
    rfl
  unfold Work.claimFlank Work.flankRounds
  rw [(running_some runs).1]
  dsimp only
  rw [if_neg (not_not_intro (show (i.unflanked x).state = .positioning from state)), due, failure]
  rfl

/-- A FLANK CLAIM that fails rolls its route back, and goes back whole (R146, R152). -/
theorem flankFailed_rolls {dest : Nat} {tag : Byte} (runs : w.st.running g = some (i, r)) (entries : r.flank = [f])
    (parts : i.flank = [x]) (pending : x.state = .pending) (tagged : x.tag = some tag) (single : f.substitute = none)
    (state : i.state = .positioning) : w.flankFailed g i.route dest tag elems =
      { w with
        st := w.st.setInstance g (some (i.unflanked x))
        returns := w.returns ++ [⟨.failed, dest, tag, w.st.ownRef i.route, elems⟩]
        out := w.out ++ [.rollback g (some ⟨.peerAbsent, 21⟩)] ++ [.assess g] } := by
  have due : ((w.st.flankParts g).filter fun y => y.2.2.state == .pending && y.2.2.tag == some tag) = [(0, f, x)] := by
    rw [flankParts_of_single runs entries parts]
    simp [pending, tagged]
  let v := (w.on (·.setInstance g (some (i.unflanked x)))).giveBack ⟨.failed, dest, tag, w.st.ownRef i.route, elems⟩
  have refused : w.on (fun s => [(0, f, x)].foldl (fun s x => s.refuseFlank g x.1 .peerAbsent) s)
      = w.on (·.setInstance g (some (i.unflanked x))) :=
    congrArg (fun t : State => { w with st := t }) (refuseFlank_single runs entries parts single)
  have fails : v.claimFlank g = v.emit [.rollback g (some ⟨.peerAbsent, 21⟩)] :=
    claimFlank_fails (w := v) (running_of (set_own (v := w.st.instances) g _) (running_some runs).2) entries state
  unfold Work.flankFailed
  dsimp only
  rw [due, refused]
  exact congrArg (Work.emit · [.assess g]) fails

theorem returnFlank_single {y : FlankReturn} (returns : w.returns = [y]) :
    w.returnFlank = { w with st := w.st.post y.owner (.flankRelease y.tag y.ref y.elems), returns := [] } := by
  unfold Work.returnFlank
  rw [returns]
  rfl

/-- A flank portion that is refused has nothing to be released (R152). -/
theorem releaseFlank_refused {cause : ReleaseCause} (runs : w.st.running g = some (i, r)) (entries : r.flank = [f])
    (parts : i.flank = [x]) (refused : x.state = .refused) : w.releaseFlank g cause (fun _ => true) = w := by
  have there := (running_some runs).1
  have kept : w.st.changeFlank g 0 releasedPortion = w.st := by
    refine (changeInstance_some there).trans ?_
    have same : releasedPortion x = x := if_pos refused
    have whole : ({ i with flank := i.flank.modify 0 releasedPortion } : RouteInst) = i := by
      rw [parts]
      show ({ i with flank := [releasedPortion x] } : RouteInst) = i
      rw [same, ← parts]
    rw [whole]
    exact setInstance_same there
  unfold Work.releaseFlank
  rw [there]
  dsimp only
  rw [flankParts_of_single runs entries parts]
  cases place : localFlankElem (partReq (0, f, x)) <;> cases tag : x.tag <;>
    simp [place, tag, refused, kept, FlankState.holding, Work.on, distinct]

/-- The work in which the one flank claim of a route has failed. -/
def State.unclaimed (s : State) (g : Fin 8) (i : RouteInst) (x : FlankPortion) (y : FlankReturn) : Work :=
  { Work.begin (s.setInstance g (some (i.unflanked x))) with returns := [y] }

theorem releasable_unclaimed (runs : s.running g = some (i, r)) (fit : i.portionsFit r)
    (atBoundary : i.directionHeld = true → (exitBoundary r).isSome = true) (stop : ∀ h : Fin 8, s.signals[h].aspect = .stop)
    (entries : r.flank = [f]) (y : FlankReturn) : Releasable (s.unclaimed g i x y).st g (i.unflanked x) r := by
  refine ⟨running_of (set_own (v := s.instances) g _) (running_some runs).2, fit, atBoundary, stop, rfl,
    fun u named ⟨j, there, route, flank⟩ => releaseFlank_refused (running_of there ?_) entries flank rfl⟩
  rw [route]
  exact named

/-- After the deadline of a FLANK CLAIM its route is rolled back (R112, R146). -/
theorem deadline_unflanks (subject : q.subject = .flank g i.route elems) (runs : s.running g = some (i, r)) (entries : r.flank = [f])
    (parts : i.flank = [x]) (pending : x.state = .pending) (tagged : x.tag = some q.tag) (single : f.substitute = none)
    (state : i.state = .positioning) (fit : i.portionsFit r) (atBoundary : i.directionHeld = true → (exitBoundary r).isSome = true)
    (stop : ∀ h : Fin 8, s.signals[h].aspect = .stop) :
    Arrives s 3 [.requestFailed q] (Work.begin (s.unasked q.tag)) fun v => ∃ rs rs',
      RouteEnds g (i.unflanked x) r (some ⟨.peerAbsent, 21⟩) ((((s.unasked q.tag).reporting rs).unclaimed g i x
        ⟨.failed, q.dest, q.tag, s.ownRef i.route, elems⟩).reporting rs') v := by
  refine .step fun rs => ?_
  let y : FlankReturn := ⟨.failed, q.dest, q.tag, s.ownRef i.route, elems⟩
  let w := ((s.unasked q.tag).reporting rs).unclaimed g i x y
  have fails : ((Work.begin (s.unasked q.tag)).reporting rs).take (.requestFailed q)
      = { w with out := [.rollback g (some ⟨.peerAbsent, 21⟩), .assess g] } := by
    show ((Work.begin (s.unasked q.tag)).reporting rs).requestFailed q = _
    unfold Work.requestFailed
    rw [subject]
    exact flankFailed_rolls (w := (Work.begin (s.unasked q.tag)).reporting rs) runs entries parts pending tagged single state
  rw [show ({ Work.begin (s.unasked q.tag) with out := [] } : Work) = Work.begin (s.unasked q.tag) from rfl, fails]
  have releasable : Releasable w.st g (i.unflanked x) r := releasable_unclaimed (s := (s.unasked q.tag).reporting rs) runs fit atBoundary stop entries y
  have set : (i.unflanked x).beingSet = true := by
    show i.beingSet = true
    simp [RouteInst.beingSet, state]
  show Arrives s 2 [.rollback g (some ⟨.peerAbsent, 21⟩), .assess g] w _
  refine arrives_rollback releasable rfl set fun v rs' out ends => ?_
  refine .step fun rs'' => ?_
  have cleared : ({ v with out := [] } : Work) = v := by rw [← out]
  have idle : (v.reporting rs'').take (.assess g) = v.reporting rs'' := (ends.reporting rs'').assess
  rw [cleared, idle]
  have still : (v.reporting rs'').out = [] := out
  have same : ({ v.reporting rs'' with out := [] } : Work) = v.reporting rs'' := by rw [← still]
  dsimp only
  rw [still, List.nil_append, same]
  exact .done ⟨rs, rs', ends.reporting rs''⟩

/-- What a route has given up does not depend on its flank portions. -/
theorem RouteOver.unflanked (h : RouteOver g (i.unflanked x) r failure s t) : RouteOver g i r failure s t :=
  ⟨h.releases, h.outcome, h.freed, h.kept, h.sent, h.boundaries⟩

end

/-- Settles O27: the entry goes, and what fails by it is told: a boundary at once, a route by its rollback. -/
theorem passedDeadlineLeavesOfferUnanswered : Obligations.PassedDeadlineLeavesOfferUnanswered := by
  unfold Obligations.PassedDeadlineLeavesOfferUnanswered
  intro s q left ready holds known waits
  have begun : (Work.begin s).deadline q.tag = (Work.begin (s.unasked q.tag)).emit [.requestFailed q] :=
    deadline_fails (w := Work.begin s) holds.2 known waits
  have away (ref : RouteRef) (rs : List Subject) : Releases ref s ((s.unasked q.tag).reporting rs) :=
    (Releases.unasked ref s q.tag).trans (.reporting ref _ rs)
  refine ⟨fun b offer => ?_, fun b previous direction asks nobody => ?_, fun g i r x subject plain set member owner pending tagged => ?_, ?_⟩
  · refine .of_deadline (b := (s.unasked q.tag).offerAnswered b q.tag (.unanswered none)) ready holds known waits (fun rs => ?_) ?_ ready.2
      rfl rfl fun rs => ⟨rfl, ⟨rfl, rfl, rfl⟩, ⟨rfl, rfl, rfl, rfl, rfl⟩, rfl, ?_⟩
    · unfold Work.requestFailed
      rw [offer]
      rfl
    · rfl
    · exact congrArg BoundaryRec.outbound (set_own (v := s.boundaries) b (s.boundaries[b].answered q.tag (.unanswered none)))
  · have returns (w : Work) (same : w.st.boundaries = s.boundaries) : w.requestFailed q =
        w.on (·.setBoundary b { s.boundaries[b] with direction := returned previous }) := by
      unfold Work.requestFailed
      rw [direction]
      dsimp only
      rw [returnDirection_of_asking (previous := previous) (by rw [same]; exact asks),
        settleDirection_of_none (by rw [same]; exact nobody), same]
    exact .of_deadline (b := (s.unasked q.tag).setBoundary b { s.boundaries[b] with direction := returned previous }) ready holds known
      waits (fun rs => returns _ rfl) rfl ready.2 rfl rfl fun rs => ⟨rfl, ⟨rfl, rfl, rfl⟩, ⟨rfl, rfl, rfl, rfl, rfl⟩, rfl,
        set_own (v := s.boundaries) b _⟩
  · have releasable := releasable_of_plain plain
    refine .of_settling (work := fun w => w.deadline q.tag) ready rfl rfl begun (k := 2) (by decide)
      (deadline_rolls subject plain set member owner pending tagged) fun v ⟨rs, ends⟩ n after => ?_
    have given := RouteOver.after ends (away _ rs) (fun e known _ => known) (le_refl _) rfl rfl after
    refine ⟨given.outcome, given.freed, given.releasesPlaced releasable.fit, given.releases.reservations, fun none some present room => ?_⟩
    have sent := given.sent (by omega) x member (by rw [owner]; exact present)
    rw [returnedAt_pending releasable.fit member pending none, owner, tagged] at sent
    exact sent some
  · intro g i r f x elems subject runs _ state entries single parts pending _ tagged fit atBoundary stop
    refine .of_settling (work := fun w => w.deadline q.tag) ready rfl rfl begun (k := 3) (by decide)
      (deadline_unflanks subject runs entries parts pending tagged single state fit atBoundary stop) fun v ⟨rs, rs', ends⟩ n after => ?_
    rw [returnFlank_single ends.returns] at after ⊢
    dsimp only at after ⊢
    have queue : ((((s.unasked q.tag).reporting rs).unclaimed g i x ⟨.failed, q.dest, q.tag, s.ownRef i.route, elems⟩).reporting
        rs').st.sendQueue = s.sendQueue := by simp [Work.reporting, State.unclaimed, State.unasked]
    have changed := (away (s.ownRef i.route) rs).trans
      ((Releases.ofInstance _ _ g (some (i.unflanked x))).trans (.reporting _ _ rs'))
    have given : RouteOver g i r (some ⟨.peerAbsent, 21⟩) s v.st :=
      (ends.ended.since changed (fun e known _ => by rw [queue]; exact known) (le_of_eq (congrArg List.length queue))
        (by simp [Work.reporting, State.unclaimed, State.unasked])).unflanked
    have ended := (given.noted (noted_post v.st q.dest (.flankRelease q.tag (s.ownRef i.route) elems))).ending (left := []) rfl rfl after
    refine ⟨ended.outcome, ended.freed, fun present room => ?_⟩
    have few : v.st.sendQueue.length ≤ s.sendQueue.length + i.portions.length :=
      ends.few_of (s := s) (j := i) queue rfl (by omega)
    obtain ⟨-, posts⟩ := post_returning (s.ownRef i.route) v.st q.dest
      (body := .flankRelease q.tag (s.ownRef i.route) elems) (show Kind.flankRelease.cls = 1 from by decide)
    have last := posts (by omega) ((given.releases.isPresent _).trans present)
    obtain ⟨more, sent⟩ := after.sent
    show _ ∈ n.sendQueue
    rw [sent]
    exact List.mem_append_left more last

end Sys2Proof.Machine
end

section
/-! PROOFS. The answers of neighbours at a boundary, and the route that waits there (O37). -/

namespace Sys2Proof.Machine

section
variable {s start u : State} {w : Work} {g : Fin 8} {b : Fin 4} {i : RouteInst} {r : RouteRecord} {q : Request} {index k : Nat}
variable {reason : Option Reason} {previous : PreviousDirection} {rest : List RawTelegram} {es : List SendEntry}

/-! ## Answers taken -/

/-- The state in which an answer has been taken at a boundary: its pending entry is gone, and the record written (R80). -/
def State.turning (s : State) (tag : Byte) (es : List SendEntry) (b : Fin 4) (r : BoundaryRec) : State :=
  (s.asking (s.requests.filter (·.tag != tag)) es).setBoundary b r

/-- The direction that an answer gives an ASKING boundary (R162). -/
def answeredDirection (reason : Option Reason) (previous : PreviousDirection) : Direction :=
  if reason = none then .out else returned previous

/-- What an answer tells the routes that wait (R93). -/
def answerTold : Option Reason → DirectionTold
  | none => .granted
  | some x => if x = .contended then .contended else .refused

/-- An ASKING boundary takes the direction that its answer gives, and the routes that wait are told (R162). -/
theorem directionAnswered_settles (asks : w.st.boundaries[b].direction = .asking previous) :
    w.directionAnswered b reason = w.settleDirection b (answeredDirection reason previous) (answerTold reason) := by
  unfold Work.directionAnswered
  rw [asks]
  split
  · rfl
  · exact returnDirection_of_asking asks
  · rename_i given _ _ contended granted
    cases given with
    | none => exact (granted previous rfl rfl).elim
    | some x =>
      have other : x ≠ .contended := fun same => contended (congrArg some same)
      rw [answerTold, if_neg other]
      exact returnDirection_of_asking asks

theorem takeDirectionAnswer_matched (unique : (w.st.requests.map (·.tag)).Nodup) (known : q ∈ w.st.requests)
    (subject : q.subject = .direction b) (echo : w.st.echoes b index = true) :
    w.takeDirectionAnswer q.dest q.tag index reason = (w.on (·.dropRequest q.tag)).directionAnswered b reason := by
  unfold Work.takeDirectionAnswer
  dsimp only
  rw [matching_of_tag unique known rfl (by rw [subject]; exact echo)]
  obtain ⟨_, _, _, _⟩ := q
  obtain rfl := subject
  rfl

/-- What an answer makes of an outbound record (R169). -/
def answeredOffer : Option Reason → OutboundState
  | none => .accepted
  | some r => .unanswered (some r)

theorem takeOfferAnswer_matched (unique : (w.st.requests.map (·.tag)).Nodup) (known : q ∈ w.st.requests)
    (subject : q.subject = .offer b) (echo : w.st.echoes b index = true) :
    w.takeOfferAnswer q.dest q.tag index reason = (w.on (·.dropRequest q.tag)).on fun s =>
      s.offerAnswered b q.tag (answeredOffer reason) := by
  unfold Work.takeOfferAnswer
  dsimp only
  rw [matching_of_tag unique known rfl (by rw [subject]; exact echo)]
  obtain ⟨_, _, _, _⟩ := q
  obtain rfl := subject
  cases reason <;> rfl

/-- The record of a boundary that has been answered for the routes that wait there (R162). -/
def BoundaryRec.turned (x : BoundaryRec) (reason : Option Reason) (previous : PreviousDirection) : BoundaryRec :=
  { x with
    direction := answeredDirection reason previous
    waiting := []
    claims := if answerTold reason = .granted then x.claims ++ x.waiting else x.claims }

/-- A DIRECTION ANSWER to a pending entry (R80, R162). -/
theorem takeDirectionAnswer_turns (unique : (s.requests.map (·.tag)).Nodup) (known : q ∈ s.requests)
    (subject : q.subject = .direction b) (echo : s.echoes b index = true) (asks : s.boundaries[b].direction = .asking previous) :
    ∃ es, es.length ≤ s.sendQueue.length ∧ (Work.begin s).takeDirectionAnswer q.dest q.tag index reason
      = (Work.begin (s.turning q.tag es b (s.boundaries[b].turned reason previous))).emit
          (s.boundaries[b].waiting.map (.directionTold · b (answerTold reason))) := by
  obtain ⟨es, few, dropped⟩ := dropRequest_eq s q.tag
  refine ⟨es, few, (takeDirectionAnswer_matched (w := Work.begin s) unique known subject echo).trans ?_⟩
  have begun : (Work.begin s).on (·.dropRequest q.tag) = Work.begin (s.asking (s.requests.filter (·.tag != q.tag)) es) :=
    congrArg Work.begin dropped
  rw [begun]
  exact directionAnswered_settles asks

/-! ## The route that waits (R93) -/

/-- The instance that is told the outcome of its wait (R93). -/
def RouteInst.awaited (i : RouteInst) (told : DirectionTold) : RouteInst :=
  { i with awaitingDirection := false, directionHeld := told == .granted }

/-- What the route that is told goes on with (R93). -/
def afterTold (g : Fin 8) (r : RouteRecord) : DirectionTold → Task
  | .granted => .goOn g
  | .contended => .rollback g (some ⟨.contended, boundaryIndex r⟩)
  | .broken => .rollback g (some ⟨.peerAbsent, boundaryIndex r⟩)
  | _ => .rollback g (some ⟨.directionRefused, boundaryIndex r⟩)

theorem directionTold_tells (found : w.st.instanceOf i.route = some (g, i)) (named : w.st.routeRecord i.route = some r)
    (setting : i.state = .setting) (awaits : i.awaitingDirection = true) (told : DirectionTold) :
    w.directionTold i.route told = (w.on (·.setInstance g (some (i.awaited told)))).emit [afterTold g r told] := by
  have there := (instanceOf_get found).1
  have awaited : w.on (·.changeInstance g fun i => { i with awaitingDirection := false, directionHeld := told == .granted })
      = w.on (·.setInstance g (some (i.awaited told))) := congrArg (fun t : State => { w with st := t }) (changeInstance_some there)
  unfold Work.directionTold
  rw [found, named]
  dsimp only
  rw [if_pos ⟨setting, awaits⟩, awaited]
  cases told <;> rfl

/-- A route with no portion to ask for enters POSITIONING (R95). -/
theorem goOn_positions (runs : w.st.running g = some (i, r)) (setting : i.state = .setting) (none : i.portions = []) :
    w.goOn g = w.emit [.position g] := by
  unfold Work.goOn
  rw [runs]
  dsimp only
  rw [if_neg (not_not_intro setting), none]
  rfl

/-- A route without flank entries enters POSITIONING and has its proof assessed (R105). -/
theorem enterPositioning_assesses (runs : w.st.running g = some (i, r)) (setting : i.state = .setting) (plain : r.flank = []) :
    w.enterPositioning g = (w.on (·.setInstance g (some { i with state := .positioning }))).emit [.assess g] := by
  have there := (running_some runs).1
  let v := w.on (·.setInstance g (some { i with state := .positioning }))
  have parts : v.st.flankParts g = [] :=
    flankParts_of_record (running_of (set_own (v := w.st.instances) g _) (running_some runs).2) plain
  have claims : v.claimFlank g = v := by
    unfold Work.claimFlank Work.flankRounds
    rw [show v.st.instances[g] = some { i with state := .positioning } from set_own (v := w.st.instances) g _]
    dsimp only
    rw [State.flankFailure, parts]
    rfl
  have positions : w.on (·.changeInstance g fun i => { i with state := .positioning }) = v :=
    congrArg (fun t : State => { w with st := t }) (changeInstance_some there)
  unfold Work.enterPositioning
  rw [there]
  dsimp only
  rw [if_neg (not_not_intro setting), positions, claims]

/-- What an assessment may do to a route in POSITIONING: nothing, or it is told a refusal, or it asks for PROCEED (R57,
R105). -/
theorem assess_cases (runs : w.st.running g = some (i, r)) (dark : w.st.signals[g].proceedInput = false) :
    w.assess g = w ∨ (∃ n, w.assess g = w.emit [.clearRefused g n]) ∨ ∃ x, w.assess g =
      (w.turn g).on fun s => (s.setInstance g (some { i with inStep := true })).setSignal g x := by
  by_cases due : i.state = .positioning ∧ !i.inStep ∧ w.st.firstMissing g i r = none
  · cases refusal : w.st.clearRefusal g (w.st.ownRef i.route) with
    | none => exact .inr (.inr ⟨_, assess_clears runs due.1 (by simpa using due.2.1) due.2.2 refusal dark⟩)
    | some n =>
      refine .inr (.inl ⟨n, ?_⟩)
      unfold Work.assess
      rw [runs]
      dsimp only
      rw [if_pos due, refusal]
  · refine .inl ?_
    unfold Work.assess
    rw [runs]
    exact if_neg due

/-- Of a work: sections, points and boundaries are as in a state, and the route that waited is in POSITIONING. -/
structure Positioned (u : State) (g : Fin 8) (i : RouteInst) (v : Work) : Prop where
  returns : v.returns = []
  sections : v.st.sections = u.sections
  points : v.st.points = u.points
  boundaries : v.st.boundaries = u.boundaries
  inst : ∃ j, v.st.instances[g] = some j ∧ j.route = i.route ∧ j.state = .positioning ∧ j.awaitingDirection = false
    ∧ j.directionHeld = true

theorem Positioned.reporting (h : Positioned u g i w) (rs : List Subject) : Positioned u g i (w.reporting rs) :=
  ⟨h.returns, h.sections, h.points, h.boundaries, h.inst⟩

/-- An assessment of a route in POSITIONING leaves it there. -/
theorem arrives_assess (positioned : Positioned u g i w) (quiet : w.out = []) (named : w.st.routeRecord i.route = some r)
    (dark : w.st.signals[g].proceedInput = false) : Arrives start 2 [.assess g] w (Positioned u g i) := by
  refine .step fun rs => ?_
  have cleared : ({ w.reporting rs with out := [] } : Work) = w.reporting rs := by
    have still : (w.reporting rs).out = [] := quiet
    rw [← still]
  have begun : ({ w with out := [] } : Work).reporting rs = w.reporting rs := cleared
  obtain ⟨returns, sections, points, boundaries, j, there, route, state, awaits, held⟩ := positioned.reporting rs
  have runs : (w.reporting rs).st.running g = some (j, r) := running_of there (by rw [route]; exact named)
  have stays : Arrives start 1 [] (w.reporting rs) (Positioned u g i) := .done (positioned.reporting rs)
  rw [begun]
  dsimp only
  have quiet' : (w.reporting rs).out = [] := quiet
  rcases assess_cases runs dark with same | ⟨n, told⟩ | ⟨x, steps⟩
  · rw [show (w.reporting rs).take (.assess g) = w.reporting rs from same, quiet', cleared]
    exact stays
  · rw [show (w.reporting rs).take (.assess g) = _ from told]
    show Arrives start 1 ((w.reporting rs).out ++ [.clearRefused g n] ++ []) { w.reporting rs with out := [] } _
    rw [quiet', cleared]
    refine .step fun rs' => .done ?_
    rw [cleared]
    exact ⟨returns, sections, points, boundaries, j, there, route, state, awaits, held⟩
  · rw [show (w.reporting rs).take (.assess g) = _ from steps]
    show Arrives start 1 ((w.reporting rs).out ++ []) _ _
    rw [quiet']
    exact .done ⟨returns, sections, points, boundaries, { j with inStep := true }, set_own (v := w.st.instances) g _, route, state, awaits, held⟩

/-- A route that is told GRANTED, with no portion to ask for, enters POSITIONING (R93, R105). -/
theorem arrives_granted (found : u.instanceOf i.route = some (g, i)) (named : u.routeRecord i.route = some r) (plain : r.flank = [])
    (setting : i.state = .setting) (awaits : i.awaitingDirection = true) (none : i.portions = [])
    (dark : u.signals[g].proceedInput = false) (rs : List Subject) :
    Arrives start 5 [.directionTold i.route b .granted] (Work.begin (u.reporting rs)) (Positioned u g i) := by
  let j := i.awaited .granted
  let u₁ := u.setInstance g (some j)
  let u₂ := u₁.setInstance g (some { j with state := .positioning })
  have there₁ : u₁.instances[g] = some j := set_own (v := u.instances) g _
  have told (rs : List Subject) : ((Work.begin u).reporting rs).take (.directionTold i.route b .granted)
      = ((Work.begin u₁).emit [.goOn g]).reporting rs :=
    directionTold_tells (w := (Work.begin u).reporting rs) found named setting awaits .granted
  have goes (rs : List Subject) : ((Work.begin u₁).reporting rs).take (.goOn g) = ((Work.begin u₁).emit [.position g]).reporting rs :=
    goOn_positions (w := (Work.begin u₁).reporting rs) (running_of there₁ named) setting none
  have enters (rs : List Subject) : ((Work.begin u₁).reporting rs).take (.position g) = ((Work.begin u₂).emit [.assess g]).reporting rs :=
    enterPositioning_assesses (w := (Work.begin u₁).reporting rs) (running_of there₁ named) setting plain
  have last : Follows start 2 [.assess g] (Work.begin u₂) (Positioned u g i) := fun rs =>
    arrives_assess ⟨rfl, rfl, rfl, rfl, { j with state := .positioning }, set_own (v := u₁.instances) g _, rfl, rfl, rfl, rfl⟩ rfl named dark
  exact (Follows.step (w := Work.begin u) told (.step goes (.step enters last))) rs

/-- A route that is told a refusal is rolled back (R93, R112). -/
theorem arrives_refused {x : Reason} (releasable : Releasable u g i r) (found : u.instanceOf i.route = some (g, i))
    (setting : i.state = .setting) (awaits : i.awaitingDirection = true) (rs : List Subject) :
    Arrives start 2 [.directionTold i.route b (answerTold (some x))] (Work.begin (u.reporting rs)) fun v => v.returns = []
      ∧ ∃ t : State, t.boundaries = u.boundaries ∧ t.cfg = u.cfg ∧ t.address = u.address ∧ t.sections = u.sections
        ∧ RouteOver g (i.awaited .refused) r (some ⟨if x = .contended then .contended else .directionRefused, boundaryIndex r⟩)
            t v.st := by
  let j := i.awaited .refused
  let u₁ := u.setInstance g (some j)
  have there : u₁.instances[g] = some j := set_own (v := u.instances) g _
  have named := (running_some releasable.runs).2
  have after : (Releasable u₁ g j r) :=
    ⟨running_of there named, releasable.fit, (fun held => nomatch held), releasable.stop, releasable.flank, releasable.unclaimed⟩
  have told (rs : List Subject) : ((Work.begin u).reporting rs).take (.directionTold i.route b (answerTold (some x)))
      = ((Work.begin u₁).emit [.rollback g (some ⟨if x = .contended then .contended else .directionRefused, boundaryIndex r⟩)]).reporting rs := by
    refine (directionTold_tells (w := (Work.begin u).reporting rs) found named setting awaits _).trans ?_
    by_cases contended : x = .contended
    · rw [answerTold, if_pos contended, if_pos contended]
      rfl
    · rw [answerTold, if_neg contended, if_neg contended]
      rfl
  have last : Follows start 1 [.rollback g (some ⟨if x = .contended then .contended else .directionRefused, boundaryIndex r⟩)]
      (Work.begin u₁) _ := fun rs =>
    arrives_rollback (w := (Work.begin u₁).reporting rs) (after.of_same rfl rfl rfl) rfl (by simp [RouteInst.beingSet, j, RouteInst.awaited, setting])
      fun v rs' _ ends => .done (P := fun v => v.returns = [] ∧ ∃ t : State, t.boundaries = u.boundaries ∧ t.cfg = u.cfg
        ∧ t.address = u.address ∧ t.sections = u.sections ∧ RouteOver g j r (some ⟨if x = .contended then .contended else .directionRefused,
          boundaryIndex r⟩) t v.st) ⟨ends.returns, ((u₁.reporting rs).reporting rs'), rfl, rfl, rfl, rfl, ends.ended⟩
  exact (Follows.step (w := Work.begin u) told last) rs

/-- The row of a telegram whose owner's tasks settle where `Q` holds. -/
theorem Completes.of_handed {c : Instr} {source : Nat} {body : Body} {owner : Nat → Body → Work → Work} {P : State → Prop}
    {Q : Work → Prop} (row : exec c s = s.takeTelegram (·.isKind (bodyKind body)) owner) (ready : s.ready)
    (hands : s.hands source body rest) (few : k < taskBound)
    (arrives : ∀ x, ∃ w, owner source body (Work.begin (s.taking x rest)) = w
      ∧ Arrives { s with recvQueue := rest } k w.out { w with out := [] } Q)
    (h : ∀ v, Q v → ∀ n : Notes, n.After v.returnFlank.st → P (({ s with recvQueue := rest } : State).ending v.returnFlank.st n)) :
    Completes c s P := by
  obtain ⟨x, -, done⟩ := exec_hands row hands
  obtain ⟨w, taken, arrives⟩ := arrives x
  exact .of_settling (work := fun w => owner source body (w.on (·.handed x))) ready done rfl taken few arrives h

end

/-- Settles O37: the answer settles the boundary's record, and the route that waits there goes on, or is rolled back. -/
theorem boundaryAnswersAreTaken : Obligations.BoundaryAnswersAreTaken := by
  unfold Obligations.BoundaryAnswersAreTaken
  intro s q b index reason rest c ready holds known boundary echo
  have echoes (x : RawTelegram) : (s.taking x rest).echoes b index = true := by
    show s.cfg.boundaries[b].any _ = true
    rw [boundary]
    simpa using echo
  have turns {previous : PreviousDirection} (subject : q.subject = .direction b) (asks : s.boundaries[b].direction = .asking previous)
      (x : RawTelegram) := takeDirectionAnswer_turns (s := s.taking x rest) (reason := reason) holds.2 known subject (echoes x) asks
  refine ⟨fun previous subject asks nobody hands => ?_, fun previous g i r subject asks waits plain found setting awaits exit hands =>
    ⟨fun granted none dark => ?_, fun x refused => ?_⟩, fun subject hands => ?_⟩
  · choose es few taken using turns subject asks
    refine .of_hands rfl ready hands (fun x => (s.taking x rest).turning q.tag (es x) b (s.boundaries[b].turned reason previous))
      (fun x => .of_eq ((taken x).trans ?_)) (fun x => by simp [State.turning]) (fun x => by simp [State.turning]) fun x n _ => ?_
    · rw [show (s.taking x rest).boundaries[b].waiting = [] from nobody, List.map_nil, emit_nil]
      rfl
    · refine ⟨by simp [State.turning], by simp [State.turning], ⟨by simp [State.turning], by simp [State.turning],
        by simp [State.turning]⟩, ⟨by simp [State.turning], by simp [State.turning], by simp [State.turning], by simp [State.turning],
        by simp [State.turning]⟩, (set_own (v := s.boundaries) b _).trans ?_⟩
      unfold BoundaryRec.turned answeredDirection
      rw [nobody, List.append_nil, ite_self, ← nobody]
  · refine .of_handed (k := 5) (Q := fun v => Positioned (s.setBoundary b { s.boundaries[b] with
      direction := .out, waiting := [], claims := s.boundaries[b].claims ++ [i.route] }) g i v) rfl ready hands (by decide)
      (fun x => ?_) fun v positioned n _ => ?_
    · obtain ⟨es, -, taken⟩ := turns subject asks x
      rw [show (s.taking x rest).boundaries[b].waiting = [i.route] from waits, granted] at taken
      rw [granted]
      refine ⟨_, taken, ?_⟩
      let u := (s.taking x rest).turning q.tag es b (s.boundaries[b].turned Option.none previous)
      have told := arrives_granted (b := b) (start := { s with recvQueue := rest }) (u := u) found (running_some plain.1).2 plain.2.1
        setting awaits none dark u.reports
      refine fun fuel enough => (told fuel enough).imp fun v => And.imp_right fun positioned => ?_
      obtain ⟨returns, sections, points, boundaries, inst⟩ := positioned
      refine ⟨returns, sections, points, boundaries.trans ?_, inst⟩
      refine congrArg (s.boundaries.set b) ?_
      rw [← waits]
      rfl
    · rw [returnFlank_of_nil positioned.returns]
      exact ⟨rfl, positioned.sections, positioned.points, (congrArg (fun v : Vector BoundaryRec 4 => v[b]) positioned.boundaries).trans
        (set_own (v := s.boundaries) b _), positioned.inst⟩
  · let failure : Failure := ⟨if x = .contended then .contended else .directionRefused, boundaryIndex r⟩
    let record : BoundaryRec := { s.boundaries[b] with direction := returned previous, waiting := [] }
    have own {t : State} (address : t.address = s.address) : t.ownRef i.route = s.ownRef i.route := by
      unfold State.ownRef
      rw [own_of_address address]
    refine .of_handed (k := 2) (Q := fun v => v.returns = [] ∧ ∃ t : State, t.boundaries = s.boundaries.set b record ∧ t.cfg = s.cfg
      ∧ t.address = s.address ∧ t.sections = s.sections ∧ RouteOver g (i.awaited .refused) r (some failure) t v.st) rfl ready hands
      (by decide) (fun y => ?_) fun v ⟨returns, t, boundaries, cfg, address, sections, given⟩ n after => ?_
    · obtain ⟨es, -, taken⟩ := turns subject asks y
      rw [show (s.taking y rest).boundaries[b].waiting = [i.route] from waits, refused] at taken
      rw [refused]
      refine ⟨_, taken, ?_⟩
      let u := (s.taking y rest).turning q.tag es b (s.boundaries[b].turned (some x) previous)
      have record_eq : s.boundaries[b].turned (some x) previous = record := by
        have other : answerTold (some x) ≠ .granted := by
          unfold answerTold
          dsimp only
          split <;> exact DirectionTold.noConfusion
        unfold BoundaryRec.turned
        rw [if_neg other]
        rfl
      have told := arrives_refused (b := b) (start := { s with recvQueue := rest }) (u := u) (x := x)
        ((releasable_of_plain plain).of_same rfl rfl rfl) found setting awaits u.reports
      refine fun fuel enough => (told fuel enough).imp fun v => And.imp_right fun ⟨returns, t, boundaries, cfg, address, sections, given⟩ => ?_
      exact ⟨returns, t, boundaries.trans (congrArg (s.boundaries.set b) record_eq), cfg, address, sections, given⟩
    · rw [returnFlank_of_nil returns] at after ⊢
      have ended := given.ending (start := { s with recvQueue := rest }) (left := []) cfg.symm address.symm after
      have freed := ended.freed
      unfold State.locksFreed at freed
      rw [show (i.awaited .refused).route = i.route from rfl, own address] at freed
      refine ⟨rfl, ?_, ?_, fun k left e l at_ lock mine => ?_⟩
      · rw [ended.boundaries rfl rfl, boundaries]
        exact set_own (v := s.boundaries) b record
      · have outcome := ended.outcome
        unfold State.routeOver at outcome
        rw [show (i.awaited .refused).route = i.route from rfl, own address] at outcome
        exact outcome
      · obtain ⟨pending, train⟩ := freed k left e l at_ lock mine
        exact ⟨pending, underTrain_of (s := s) (t := t) cfg (fun i => by rw [sections]) e ▸ train⟩
  · choose es few dropped using fun x : RawTelegram => dropRequest_eq (s.taking x rest) q.tag
    refine .of_hands rfl ready hands (fun x => (s.taking x rest).turning q.tag (es x) b (s.boundaries[b].answered q.tag (answeredOffer reason)))
      (fun x => .of_eq ((takeOfferAnswer_matched (w := Work.begin (s.taking x rest)) holds.2 known subject (echoes x)).trans ?_))
      (fun x => by simp [State.turning]) (fun x => by simp [State.turning]) fun x n _ => ?_
    · refine congrArg Work.begin ?_
      show State.offerAnswered ((s.taking x rest).dropRequest q.tag) b q.tag (answeredOffer reason) = _
      rw [dropped]
      rfl
    · refine ⟨by simp [State.turning], by simp [State.turning], ⟨by simp [State.turning], by simp [State.turning],
        by simp [State.turning]⟩, ⟨by simp [State.turning], by simp [State.turning], by simp [State.turning], by simp [State.turning],
        by simp [State.turning]⟩, (congrArg BoundaryRec.outbound (set_own (v := s.boundaries) b _)).trans ?_⟩
      cases reason <;> rfl

end Sys2Proof.Machine
end

section
/-! PROOFS. The silence of a peer (O26). Where an event's tasks are not bounded in number, `Lands` says what holds of the
work in which they are taken as far as they are. -/

namespace Sys2Proof.Machine

/-! ## Tasks taken as far as they are -/

/-- Whatever number of tasks above `k` is taken, `P` holds of the work. -/
def Lands (start : State) (k : Nat) (ts : List Task) (w : Work) (P : Work → Prop) : Prop :=
  ∀ fuel, k < fuel → P (Work.settle start fuel ts w).1

section
variable {start s u : State} {k : Nat} {x : Task} {ts : List Task} {w : Work} {P Q : Work → Prop} {c : Instr}
variable {work : Work → Work}

theorem Lands.step (h : ∀ rs, let w₁ := ({ w with out := [] }.reporting rs).take x
    Lands start k (w₁.out ++ ts) { w₁ with out := [] } P) : Lands start (k + 1) (x :: ts) w P := by
  intro fuel enough
  obtain ⟨fuel, rfl⟩ : ∃ m, fuel = m + 1 + 1 := ⟨fuel - 2, by omega⟩
  rw [settle_cons]
  dsimp only
  rw [settle_out]
  have begun : w.on (State.placeChanged start) = w.reporting (State.placeChanged start w.st).reports :=
    congrArg (fun t : State => { w with st := t }) (placeChanged_same start w.st)
  rw [begun]
  exact h _ _ (by omega)

/-- Tasks that change nothing are passed over. -/
theorem Lands.idle (xs : List Task) (quiet : w.out = []) (idle : ∀ x ∈ xs, ∀ rs, (w.reporting rs).take x = w.reporting rs)
    (rest : ∀ rs, Lands start k ts (w.reporting rs) P) : Lands start (k + xs.length) (xs ++ ts) w P := by
  have same : ({ w with out := [] } : Work) = w := by rw [← quiet]
  have all (rs : List Subject) : Lands start (k + xs.length) (xs ++ ts) (w.reporting rs) P := by
    induction xs generalizing rs with
    | nil => exact rest rs
    | cons x xs ih =>
      refine .step fun rs' => ?_
      have again : ({ w.reporting rs with out := [] } : Work).reporting rs' = ({ w with out := [] } : Work).reporting rs' := rfl
      rw [again, same, idle x List.mem_cons_self rs']
      dsimp only
      rw [show (w.reporting rs').out = [] from quiet, List.nil_append]
      have still : ({ w.reporting rs' with out := [] } : Work) = w.reporting rs' := by
        show ({ w with out := [] } : Work).reporting rs' = _
        rw [same]
      rw [still]
      exact ih (fun y known => idle y (List.mem_cons_of_mem x known)) rs'
  exact all w.st.reports

/-- What every task of a class keeps, with the tasks that it gives rise to in the class, holds wherever they end. -/
theorem Lands.of_invariant (ofClass : Task → Prop)
    (each : ∀ (v : Work) x rs, P v → ofClass x → P (({ v with out := [] }.reporting rs).take x)
      ∧ ∀ y ∈ (({ v with out := [] }.reporting rs).take x).out, ofClass y)
    (tasks : ∀ x ∈ ts, ofClass x) (holds : P w) : Lands start 0 ts w P := by
  intro fuel enough
  clear enough
  induction fuel generalizing ts w with
  | zero => cases ts <;> exact holds
  | succ fuel ih =>
    cases ts with
    | nil => exact holds
    | cons x ts =>
      have begun : w.on (State.placeChanged start) = w.reporting (State.placeChanged start w.st).reports :=
        congrArg (fun t : State => { w with st := t }) (placeChanged_same start w.st)
      obtain ⟨kept, more⟩ := each w x (State.placeChanged start w.st).reports holds (tasks x List.mem_cons_self)
      rw [settle_cons]
      dsimp only
      rw [begun]
      exact ih (fun y known => (List.mem_append.mp known).elim (more y) fun old => tasks y (List.mem_cons_of_mem x old)) kept

theorem Lands.mono {k' : Nat} (h : Lands start k ts w P) (more : k ≤ k') (weaker : ∀ v, P v → Q v) : Lands start k' ts w Q :=
  fun fuel enough => weaker _ (h fuel (by omega))

/-- An event whose tasks land where `Q` holds ends there, with the FLANK RELEASE telegrams it has kept. -/
theorem Completes.of_landing {R : State → Prop} (ready : s.ready) (row : exec c s = s.event start work) (begun : start.agenda = s.agenda)
    (reaches : work (Work.begin start) = w) (few : k < taskBound) (lands : Lands start k w.out { w with out := [] } Q)
    (h : ∀ v, Q v → ∀ (n : Notes) left, n.After v.returnFlank.st → R (start.ending v.returnFlank.st n left)) :
    Completes c s R := by
  subst reaches
  have holds := lands taskBound few
  rw [taskBound, ← List.append_nil (Work.out _), ← settle_out start 4095] at holds
  obtain ⟨u, ends, noted⟩ := event_noted (start := start) (work := work) ready.1
  let done := Work.settle start taskBound ((work (Work.begin start)).out) (work (Work.begin start))
  have settled : (start.settled work).st = start.keep { done.1.returnFlank.st with agenda := done.2 } := by
    unfold State.settled
    dsimp only
    rw [begun, ready.2, List.nil_append]
    rfl
  rw [settled] at noted
  refine .of_noted ⟨u, row.trans ends, noted⟩ fun n after => h done.1 ?_ n done.2 ?_
  · rw [List.append_nil] at holds
    exact holds
  · exact ⟨after.sent, after.counts, after.rises, after.kept⟩

end

/-! ## A break with one route standing (R87, R114, R136) -/

section
variable {s u start : State} {a : Nat} {g : Fin 8} {v w : Work} {i : RouteInst} {r : RouteRecord} {x : Portion}

/-- What a break leaves as it is once the routes have been told. -/
structure State.stands (t u : State) : Prop where
  instances : t.instances = u.instances
  lastEnded : t.lastEnded = u.lastEnded
  sections : t.sections = u.sections
  points : t.points = u.points
  signals : t.signals = u.signals
  cfg : t.cfg = u.cfg
  address : t.address = u.address

theorem State.stands.refl (u : State) : u.stands u := ⟨rfl, rfl, rfl, rfl, rfl, rfl, rfl⟩

theorem State.stands.breakAt {t : State} (h : t.stands u) (station : Nat) (b : Fin 4) : (t.breakAt station b).stands u := by
  unfold State.breakAt
  split
  · exact ⟨h.instances, h.lastEnded, h.sections, h.points, h.signals, h.cfg, h.address⟩
  · exact h

theorem State.stands.recordFault {t : State} (h : t.stands u) (k : FaultKind) (e : Subject) (n : Option Nat) :
    (t.recordFault k e n).stands u := by
  have made := (noted_recordFault t k e n).same
  rw [made]
  exact ⟨h.instances, h.lastEnded, h.sections, h.points, h.signals, h.cfg, h.address⟩

theorem State.stands.reporting {t : State} (h : t.stands u) (rs : List Subject) : (t.reporting rs).stands u :=
  ⟨h.instances, h.lastEnded, h.sections, h.points, h.signals, h.cfg, h.address⟩

/-- The tasks of a break with a station that reach no route on a signal. -/
def breaksNoRoute (u : State) (a : Nat) : Task → Prop
  | .breakRoute h station => station = a ∧ u.instances[h] = none
  | .breakBoundary _ station => station = a
  | .directionTold _ _ told => told = .broken
  | .recordBreak _ => True
  | _ => False

/-- A route that is not being set waits for no direction. -/
theorem directionTold_of_unset (h : ∀ (g : Fin 8) j, w.st.instances[g] = some j → j.state ≠ .setting) (route : Nat) (told : DirectionTold) :
    w.directionTold route told = w := by
  unfold Work.directionTold
  split
  · next g j _ found _ => exact if_neg fun both => h g j (instanceOf_get found).1 both.1
  · rfl

/-- Boundaries and fault counts apart, the rest of a break leaves all as it is. -/
theorem lands_rest {ts : List Task} (unset : ∀ (g : Fin 8) j, u.instances[g] = some j → j.state ≠ .setting)
    (tasks : ∀ x ∈ ts, breaksNoRoute u a x) (returns : w.returns = []) (stands : w.st.stands u) :
    Lands start 0 ts w fun v => v.returns = [] ∧ v.st.stands u := by
  refine .of_invariant (breaksNoRoute u a) (fun v x rs ⟨returns, stands⟩ known => ?_) tasks ⟨returns, stands⟩
  let v' : Work := { v with out := [] }.reporting rs
  have stands' : v'.st.stands u := stands.reporting rs
  have idle (same : v'.take x = v') : ((v'.take x).returns = [] ∧ (v'.take x).st.stands u)
      ∧ ∀ y ∈ (v'.take x).out, breaksNoRoute u a y := by
    rw [same]
    exact ⟨⟨returns, stands'⟩, fun _ none => nomatch none⟩
  cases x with
  | breakRoute h station =>
    have empty : v'.st.instances[h] = none := (congrArg (fun v : Vector (Option RouteInst) 8 => v[h]) stands.instances).trans known.2
    exact idle (breakRoute_of_none empty station)
  | breakBoundary b station =>
    have broken : v'.take (.breakBoundary b station) = _ := boundaryBroken_eq v' b station
    rw [broken]
    refine ⟨⟨returns, stands'.breakAt station b⟩, fun y told => ?_⟩
    rcases List.mem_append.mp told with none | told
    · exact nomatch none
    · obtain ⟨_, -, rfl⟩ := List.mem_map.mp told
      rfl
  | directionTold route b told =>
    refine idle (directionTold_of_unset (fun g j there => unset g j ?_) route told)
    rw [← stands'.instances]
    exact there
  | recordBreak station => exact ⟨⟨returns, stands'.recordFault ..⟩, fun _ none => nomatch none⟩
  | _ => exact known.elim

theorem cutOff_reporting (s : State) (a : Nat) (rs : List Subject) : (s.reporting rs).cutOff a = (s.cutOff a).reporting rs := rfl

theorem cutOff_instances (s : State) (a : Nat) : (s.cutOff a).instances = s.instances := rfl

/-- A break with the one route that stands, which it takes out of the setting (R87). -/
theorem lands_break {Q : State → Prop} (one : ∀ h : Fin 8, h ≠ g → s.instances[h] = none)
    (taken : ∀ rs, let v := (Work.begin ((s.cutOff a).reporting rs)).breakRoute g a
      v.out = [] ∧ v.returns = [] ∧ (∀ h : Fin 8, h ≠ g → v.st.instances[h] = none)
        ∧ (∀ j, v.st.instances[g] = some j → j.state ≠ .setting) ∧ Q v.st) :
    Lands start 10 [.breakWith a] (Work.begin s) fun v => ∃ u, Q u ∧ v.returns = [] ∧ v.st.stands u := by
  refine .step (k := 9) fun rs => ?_
  obtain ⟨before, after, split⟩ := List.append_of_mem ((by decide : ∀ g : Fin 8, g ∈ allEight) g)
  have once : (before ++ g :: after).Nodup := split ▸ by decide
  obtain ⟨-, tail, apart⟩ := List.nodup_append.mp once
  have short : before.length ≤ 8 := by
    have all := congrArg List.length split
    rw [List.length_append, show allEight.length = 8 from rfl] at all
    omega
  let rest : List Task := after.map (.breakRoute · a) ++ (allBoundaries.map (.breakBoundary · a) ++ [.recordBreak a])
  show Lands start 9 (allEight.map (.breakRoute · a) ++ allBoundaries.map (.breakBoundary · a) ++ [.recordBreak a] ++ [])
    (Work.begin ((s.reporting rs).cutOff a)) _
  rw [← cutOff_instances s a] at one
  rw [cutOff_reporting]
  generalize s.cutOff a = u at one taken ⊢
  rw [split, List.map_append, List.map_cons, List.append_nil, List.append_assoc, List.append_assoc]
  have idle : Lands start (1 + (before.map (Task.breakRoute · a)).length) (before.map (.breakRoute · a) ++ (.breakRoute g a :: rest))
      (Work.begin (u.reporting rs)) fun v => ∃ u, Q u ∧ v.returns = [] ∧ v.st.stands u := by
    refine .idle _ rfl (fun y known rs' => ?_) fun rs' => .step fun rs'' => ?_
    · obtain ⟨h, early, rfl⟩ := List.mem_map.mp known
      exact breakRoute_of_none (one h fun same => apart h early g List.mem_cons_self same) a
    · obtain ⟨out, returns, others, unset, holds⟩ := taken rs''
      have reached : (({ (Work.begin (u.reporting rs)).reporting rs' with out := [] } : Work).reporting rs'').take
          (.breakRoute g a) = (Work.begin (u.reporting rs'')).breakRoute g a := rfl
      rw [reached]
      generalize (Work.begin (u.reporting rs'')).breakRoute g a = v at out returns others unset holds ⊢
      dsimp only
      rw [out, List.nil_append]
      have every : ∀ (h : Fin 8) j, v.st.instances[h] = some j → j.state ≠ .setting := fun h j there => by
        rcases eq_or_ne h g with rfl | other
        · exact unset j there
        · exact nomatch (others h other).symm.trans there
      refine Lands.mono (lands_rest (a := a) (u := v.st) every (fun y known => ?_) returns (.refl v.st)) (Nat.le_refl 0)
        fun v' ⟨empty, stands⟩ => ⟨v.st, holds, empty, stands⟩
      rcases List.mem_append.mp known with route | known
      · obtain ⟨h, late, rfl⟩ := List.mem_map.mp route
        exact ⟨rfl, others h fun same => (List.nodup_cons.mp tail).1 (same ▸ late)⟩
      · rcases List.mem_append.mp known with boundary | last
        · obtain ⟨b, -, rfl⟩ := List.mem_map.mp boundary
          rfl
        · rw [List.mem_singleton.mp last]
          trivial
  exact idle.mono (by rw [List.length_map]; omega) fun _ holds => holds

/-! ### The route that has a portion at the station -/

theorem voidFlank_of_none (none : i.flank = []) (a : Nat) : i.voidFlank a = (i, false) := by
  unfold RouteInst.voidFlank
  rw [none]
  exact congrArg (fun f : List FlankPortion => (({ i with flank := f } : RouteInst), false)) none.symm

/-- The instance whose one portion is lost. -/
def RouteInst.severed (i : RouteInst) (x : Portion) : RouteInst := { i with portions := [{ x with state := .void }] }

/-- The loss of the portion fails a route being set, and takes one past setting to EMERGENCY (R114, R136). -/
theorem breakRoute_severs (there : w.st.instances[g] = some i) (none : i.flank = []) (parts : i.portions = [x]) (owner : x.owner = a)
    (lost : x.state = .pending ∨ x.state.holding = true) : w.breakRoute g a =
      let w' := w.on (·.setInstance g (some (i.severed x)))
      if !i.beingSet then (w'.breakToEmergency g).on (·.endIfEmpty g)
      else w'.rollback g (some ⟨.peerAbsent, x.indices.headD 0⟩) := by
  have gone : (x.owner == a && (x.state == .pending || x.state.holding)) = true := by
    rcases lost with pending | holding
    · simp [owner, pending]
    · simp [owner, holding]
  have mapped : (i.portions.map fun p => if p.owner == a && (p.state == .pending || p.state.holding) then { p with state := .void } else p)
      = [{ x with state := .void }] := by
    rw [parts, List.map_singleton, if_pos gone]
  have found : i.portions.find? (fun p => p.owner == a && (p.state == .pending || p.state.holding)) = some x := by
    rw [parts, List.find?_cons, gone]
  have owned : i.portions.any (·.owner == a) = true := by simp [parts, owner]
  unfold Work.breakRoute
  rw [there]
  dsimp only
  rw [voidFlank_of_none none, mapped, found, owned, Bool.and_true]
  rfl

/-- The instance that a break has taken to EMERGENCY for the orphan time. -/
def RouteInst.brokenFor (i : RouteInst) (n : Nat) : RouteInst :=
  { i with
    inStep := false
    approachTimer := none
    overlapTimer := if i.state = .entered then .stopped else i.overlapTimer
    emergencyTimer := .running n
    state := .emergency }

theorem breakRoute_emergency (there : w.st.instances[g] = some i) (none : i.flank = []) (parts : i.portions = [x]) (owner : x.owner = a)
    (holding : x.state.holding = true) (past : i.beingSet = false) (calm : i.state ≠ .emergency) (stop : w.st.signals[g].aspect = .stop)
    (locked : w.st.holdsLock (w.st.ownRef i.route) = true) :
    w.breakRoute g a = w.on (·.setInstance g (some ((i.severed x).brokenFor w.st.cfg.orphanTime))) := by
  have emergency : (w.on (·.setInstance g (some (i.severed x)))).breakToEmergency g
      = w.on (·.setInstance g (some ((i.severed x).brokenFor w.st.cfg.orphanTime))) := by
    unfold Work.breakToEmergency
    rw [replaceSignal_of_stop (w := w.on (·.setInstance g (some (i.severed x)))) stop]
    refine congrArg (fun t : State => { w with st := t }) ?_
    dsimp only [Work.on]
    rw [changeInstance_some (set_own (v := w.st.instances) g (some (i.severed x))), if_neg (show (i.severed x).state ≠ _ from calm)]
    simp [State.setInstance, RouteInst.brokenFor]
  have stands : (w.st.setInstance g (some ((i.severed x).brokenFor w.st.cfg.orphanTime))).holdsNothing
      ((i.severed x).brokenFor w.st.cfg.orphanTime) = false := by
    unfold State.holdsNothing
    rw [show (w.st.setInstance g (some ((i.severed x).brokenFor w.st.cfg.orphanTime))).holdsLock (State.ownRef
      (w.st.setInstance g _) ((i.severed x).brokenFor w.st.cfg.orphanTime).route) = true from locked]
    rfl
  rw [breakRoute_severs there none parts owner (.inr holding)]
  dsimp only
  rw [past, Bool.not_false, if_pos rfl, emergency]
  exact congrArg (fun t : State => { w with st := t })
    (endIfEmpty_stays (set_own (v := w.st.instances) g _) stands)

theorem plainRoute_severed (plain : s.plainRoute g i r) (parts : i.portions = [x]) :
    (s.setInstance g (some (i.severed x))).plainRoute g (i.severed x) r := by
  obtain ⟨runs, record, none, fit, atBoundary, stop⟩ := plain
  refine ⟨running_of (set_own (v := s.instances) g _) (running_some runs).2, record, none, ⟨by simp [RouteInst.severed], fun p known => ?_⟩,
    atBoundary, stop⟩
  rw [List.mem_singleton.mp known]
  exact fit.2 x (parts ▸ List.mem_singleton_self x)

theorem breakRoute_rolls (plain : w.st.plainRoute g i r) (parts : i.portions = [x]) (owner : x.owner = a)
    (lost : x.state = .pending ∨ x.state.holding = true) (set : i.beingSet = true) :
    RouteEnds g (i.severed x) r (some ⟨.peerAbsent, x.indices.headD 0⟩) (w.on (·.setInstance g (some (i.severed x)))) (w.breakRoute g a) := by
  have releasable := releasable_of_plain (plainRoute_severed plain parts)
  obtain ⟨runs, -, none, -⟩ := plain
  rw [breakRoute_severs (running_some runs).1 none parts owner lost]
  dsimp only
  rw [set, Bool.not_true, if_neg Bool.false_ne_true]
  exact rollback_ends (w := w.on (·.setInstance g (some (i.severed x)))) releasable set _

/-! ### The end of the event -/

theorem State.stands.ending {t : State} {n : Notes} {left : List Task} (h : t.stands u) (cfg : start.cfg = u.cfg)
    (address : start.address = u.address) : (start.ending t n left).stands u :=
  ⟨h.instances, h.lastEnded, h.sections, h.points, h.signals, cfg, address⟩

theorem State.stands.lockOf {t : State} (h : t.stands u) (e : Elem) : t.lockOf e = u.lockOf e := by
  cases e with
  | track k => exact congrArg (fun v : Vector SectionRec 16 => v[k].lock) h.sections
  | points k => exact congrArg (fun v : Vector PointRec 8 => v[k].lock) h.points
  | signal k => exact congrArg (fun v : Vector SignalRec 8 => v[k].lock) h.signals
  | boundary k => rfl

theorem cutOff_stands (s : State) (a : Nat) : (s.cutOff a).stands s := ⟨rfl, rfl, rfl, rfl, rfl, rfl, rfl⟩

theorem losing_stands (s : State) (a : Nat) : (s.losing a).stands s := ⟨rfl, rfl, rfl, rfl, rfl, rfl, rfl⟩

theorem State.stands.trans {t : State} (h : t.stands u) (k : u.stands s) : t.stands s :=
  ⟨h.instances.trans k.instances, h.lastEnded.trans k.lastEnded, h.sections.trans k.sections, h.points.trans k.points,
    h.signals.trans k.signals, h.cfg.trans k.cfg, h.address.trans k.address⟩

theorem State.stands.ownRef {t : State} (h : t.stands u) (n : Nat) : t.ownRef n = u.ownRef n := by
  unfold State.ownRef
  rw [own_of_address h.address]

theorem State.stands.holdsLock {t : State} (h : t.stands u) (ref : RouteRef) : t.holdsLock ref = u.holdsLock ref :=
  congrArg allElems.any (funext fun e => by rw [h.lockOf])

theorem State.stands.instanceAt {t : State} (h : t.stands u) (k : Fin 8) : t.instances[k] = u.instances[k] :=
  congrArg (fun v : Vector (Option RouteInst) 8 => v[k]) h.instances

theorem State.stands.aspect {t : State} (h : t.stands u) (k : Fin 8) : t.signals[k].aspect = u.signals[k].aspect :=
  congrArg (fun v : Vector SignalRec 8 => v[k].aspect) h.signals

theorem State.stands.underTrain {t : State} (h : t.stands u) (e : Elem) : t.underTrain e = u.underTrain e :=
  underTrain_of h.cfg (fun i => congrArg (fun v : Vector SectionRec 16 => v[i].filter) h.sections) e

theorem State.stands.plainRoute {t : State} (h : t.stands u) (plain : u.plainRoute g i r) : t.plainRoute g i r := by
  obtain ⟨runs, record, none, fit, atBoundary, stop⟩ := plain
  exact ⟨(running_of_same h.cfg h.instances).trans runs, record, none, fit, atBoundary, fun k => (h.aspect k).trans (stop k)⟩

/-- A route past setting stands in EMERGENCY after the break with its portion's owner (R136). -/
theorem breakRoute_stands (stands : u.stands s) (plain : s.plainRoute g i r) (one : ∀ h : Fin 8, h ≠ g → s.instances[h] = none)
    (parts : i.portions = [x]) (owner : x.owner = a) (past : i.beingSet = false) (calm : i.state ≠ .emergency)
    (holding : x.state.holding = true) (locked : s.holdsLock (s.ownRef i.route) = true) :
    let v := (Work.begin u).breakRoute g a
    v.out = [] ∧ v.returns = [] ∧ (∀ h : Fin 8, h ≠ g → v.st.instances[h] = none)
      ∧ (∀ j, v.st.instances[g] = some j → j.state ≠ .setting)
      ∧ (v.st.sections = s.sections ∧ v.st.points = s.points ∧ v.st.signals = s.signals
        ∧ v.st.instances[g] = some ((i.severed x).brokenFor s.cfg.orphanTime)) ∧ v.st.cfg = s.cfg ∧ v.st.address = s.address := by
  obtain ⟨runs, -, none, -, -, stop⟩ := plain
  have broken := breakRoute_emergency (w := Work.begin u) ((stands.instanceAt g).trans (running_some runs).1) none parts
    owner holding past calm ((stands.aspect g).trans (stop g))
    ((stands.holdsLock _).trans ((congrArg s.holdsLock (stands.ownRef i.route)).trans locked))
  dsimp only
  rw [broken]
  refine ⟨rfl, rfl, fun h apart => (set_other (v := u.instances) _ apart).trans ((stands.instanceAt h).trans (one h apart)), fun j known => ?_,
    ⟨stands.sections, stands.points, stands.signals, ?_⟩, stands.cfg, stands.address⟩
  · rw [← Option.some.inj ((set_own (v := u.instances) g _).symm.trans known)]
    exact RouteState.noConfusion
  · refine (set_own (v := u.instances) g _).trans ?_
    rw [← stands.cfg]
    rfl

/-- A route being set is over after the break with its portion's owner (R114). -/
theorem breakRoute_over (stands : u.stands s) (plain : s.plainRoute g i r) (one : ∀ h : Fin 8, h ≠ g → s.instances[h] = none)
    (parts : i.portions = [x]) (owner : x.owner = a) (set : i.beingSet = true) (lost : x.state = .pending ∨ x.state.holding = true) :
    let v := (Work.begin u).breakRoute g a
    v.out = [] ∧ v.returns = [] ∧ (∀ h : Fin 8, h ≠ g → v.st.instances[h] = none)
      ∧ (∀ j, v.st.instances[g] = some j → j.state ≠ .setting)
      ∧ (v.st.routeOver s g i (some ⟨.peerAbsent, x.indices.headD 0⟩) ∧ v.st.locksFreed s i r (i.left r))
      ∧ v.st.cfg = s.cfg ∧ v.st.address = s.address := by
  have plain' := stands.plainRoute plain
  have ends := breakRoute_rolls (w := Work.begin u) plain' parts owner lost set
  obtain ⟨-, -, -, -, -, stop⟩ := plain'
  dsimp only
  generalize (Work.begin u).breakRoute g a = v at ends ⊢
  have ref : State.ownRef (u.setInstance g (some (i.severed x))) i.route = s.ownRef i.route := stands.ownRef i.route
  have outcome := ends.ended.outcome
  have freed := ends.ended.freed
  unfold State.routeOver at outcome
  unfold State.locksFreed at freed
  refine ⟨ends.quiet stop, ends.returns, fun h apart => ends.others h apart
    ((set_other (v := u.instances) _ apart).trans ((stands.instanceAt h).trans (one h apart))), fun j known => ?_,
    ⟨outcome.imp id fun ⟨holds, there⟩ => ⟨ref ▸ holds, there⟩, fun k left e l at_ lock mine => ?_⟩,
    ends.ended.releases.cfg.trans stands.cfg, ends.ended.releases.address.trans stands.address⟩
  · rcases outcome with ⟨gone, -⟩ | ⟨-, j', there', -, emergency, -⟩
    · exact nomatch gone.symm.trans known
    · rw [← Option.some.inj (there'.symm.trans known), emergency]
      exact RouteState.noConfusion
  · obtain ⟨pending, train⟩ := freed k left e l at_ lock (mine.trans ref.symm)
    exact ⟨pending, (stands.underTrain e).symm.trans train⟩

/-- The loss of a PRESENT peer begins as a break (R84, R87). -/
theorem Completes.of_silence {p : PeerEntry} {Q : State → Prop} {R : State → Prop} (ready : s.ready) (there : s.peer a = some p)
    (watched : p.silence.isSome = true) (present : p.state = .present) (one : ∀ h : Fin 8, h ≠ g → s.instances[h] = none)
    (taken : ∀ u, u.stands s → let v := (Work.begin u).breakRoute g a
      v.out = [] ∧ v.returns = [] ∧ (∀ h : Fin 8, h ≠ g → v.st.instances[h] = none)
        ∧ (∀ j, v.st.instances[g] = some j → j.state ≠ .setting) ∧ Q v.st ∧ v.st.cfg = s.cfg ∧ v.st.address = s.address)
    (h : ∀ u t, Q u → t.stands u → R t) : Completes (.silenceTimerExpiry a) s R := by
  refine .of_landing (start := s) (k := 10) (work := fun w => w.silenceExpires a) (w := (Work.begin (s.losing a)).emit [.breakWith a])
    (Q := fun v => ∃ u, (Q u ∧ u.cfg = s.cfg ∧ u.address = s.address) ∧ v.returns = [] ∧ v.st.stands u) ready rfl rfl
    (silence_of_present there watched present) (by decide)
    (lands_break one fun rs => taken _ (((cutOff_stands _ a).trans (losing_stands s a)).reporting rs)) ?_
  rintro v ⟨u, ⟨holds, cfg, address⟩, none, stands⟩ n left -
  rw [returnFlank_of_nil none]
  exact h u _ holds (stands.ending cfg.symm address.symm)

end

/-- Settles O26: from PRESENT the silence is a break, which reaches the boundaries and the one route with a portion there. -/
theorem silenceLosesPeerAndOrphans : Obligations.SilenceLosesPeerAndOrphans := by
  unfold Obligations.SilenceLosesPeerAndOrphans
  intro a s p ready there watched
  have lostPeer : (s.losing a).peer a = some { p with state := .lost, silence := none } := changePeer_of_peer there fun _ => rfl
  refine ⟨fun absent => ?_, fun present other vacant silent few => ?_,
    fun g i r x present plain one parts owner => ⟨fun past calm holding locked => ?_, fun set lost => ?_⟩⟩
  · refine .of_noted (b := s.losing a) ?_ fun n _ => ⟨lostPeer, ⟨rfl, rfl, rfl⟩, ⟨rfl, rfl, rfl, rfl, rfl⟩, rfl⟩
    exact event_within (start := s) (work := fun w => w.silenceExpires a) ready rfl (.of_eq (silence_of_absent there watched absent))
      rfl ready.2
  · obtain ⟨b, done, off⟩ := event_arrives (Q := (·.brokenOff (s.losing a) a)) (start := s)
      (work := fun w => w.silenceExpires a) ready rfl (k := 31) (by decide) (by
        rw [silence_of_present there watched present]
        exact follows_break (s := s.losing a) (before := s) vacant (fun b _ => (Nat.le_add_left ..).trans (few b)) rfl ready.2 rfl rfl
          (s.losing a).reports)
    have off := off.ended s
    refine ⟨_, done, fun b c named => (off.boundary b).trans ?_, (off.peer a).trans lostPeer, off.sameElements, off.requests,
      off.unsent silent other, off.reservations, off.remote, off.counted⟩
    rw [show (s.losing a).cfg.boundaries[b] = some c from named]
    by_cases near : c.neighbour = a
    · rw [if_pos near, if_pos (by simp [near])]
      show s.boundaries[b].broken = _
      obtain ⟨direction, _⟩ := s.boundaries[b]
      cases direction <;> rfl
    · rw [if_neg near, if_neg (by simp [near])]
      rfl
  · exact .of_silence (Q := fun u => u.sections = s.sections ∧ u.points = s.points ∧ u.signals = s.signals
        ∧ u.instances[g] = some ((i.severed x).brokenFor s.cfg.orphanTime)) ready there watched present one
      (fun u stands => breakRoute_stands stands plain one parts owner past calm holding locked)
      fun u t ⟨sections, points, signals, inst⟩ stands => ⟨⟨by rw [stands.sections, sections], stands.points.trans points,
        stands.signals.trans signals⟩, (stands.instanceAt g).trans inst⟩
  · refine .of_silence (Q := fun u => u.routeOver s g i (some ⟨.peerAbsent, x.indices.headD 0⟩) ∧ u.locksFreed s i r (i.left r)) ready there
      watched present one (fun u stands => breakRoute_over stands plain one parts owner set lost)
      fun u t ⟨outcome, freed⟩ stands => ⟨?_, fun k left e l at_ lock mine => freed k left e l at_ ((stands.lockOf e).symm.trans lock) mine⟩
    unfold State.routeOver
    rw [stands.instances, stands.lastEnded, stands.holdsLock]
    exact outcome

end Sys2Proof.Machine
end

section
/-! PROOFS. A refutation: a train entry whose consequences take the route on to EMERGENCY (O11). -/

namespace Sys2Proof.Machine

/-- Whether a command answers a next state of which `p` holds. -/
def State.answers (s : State) (c : Instr) (p : State → Bool) : Bool :=
  match exec c s with
  | .next t => p t
  | _ => false

theorem answers_of_completes {c : Instr} {s : State} {P : State → Prop} {p : State → Bool} (h : Completes c s P)
    (same : ∀ t, P t → p t = false) : s.answers c p = false := by
  obtain ⟨t, done, holds⟩ := h
  unfold State.answers
  rw [done]
  exact same t holds

/-! ## The state

An OPEN route with a portion at station 2, its first section about to be taken. Two reservations have one route
reference, which the statement does not exclude: one names that section, and the one that is found under the
reference names no element, and is proven. With the send queue full its PROVEN cannot be placed, which forces the
break with station 2 (R73, R86), and the break takes the entered route to EMERGENCY (R136). -/

/-- A route over section 0 here and section 0 of station 2. -/
def brokenEntryRoute : RouteRecord where
  number := 1
  entry := 0
  exit := .remoteSignal 2 24
  path := [⟨0, 0, .path, .clear, 1⟩, ⟨2, 0, .path, .clear, 2⟩]
  overlap := []
  flank := []
  distant := ⟨2, 1⟩
  approach := 1
  distantLength := 800
  decel := 60
  margin := 15
  tMin := 30
  tMax := 180
  tOverlap := 30

/-- The route is OPEN, its portion at station 2 GRANTED. -/
def brokenEntryInst : RouteInst where
  route := 1
  state := .open
  inStep := false
  awaitingDirection := false
  directionHeld := false
  progress := [.notReached, .notReached]
  faultMarks := []
  released := []
  portions := [⟨2, [2], .granted, some 1⟩]
  flank := []
  settingTimer := none
  approachTimer := none
  overlapTimer := .stopped
  emergencyTimer := .stopped
  delay := none
  speedUsed := none
  lastFailure := none

def brokenEntryArea : AreaConfig := { AreaConfig.empty with
  sections := AreaConfig.empty.sections.set 0 (some ⟨1, 0, []⟩)
  routes := [brokenEntryRoute] }

def brokenEntry : State := { State.reset with
  resetHeld := false
  service := .inService
  address := some 1
  cfg := brokenEntryArea
  sections := State.reset.sections.set 0 { SectionRec.initial with filter := .clear, lock := some ⟨⟨1, 1⟩, .path, none, false⟩ }
  instances := State.reset.instances.set 0 (some brokenEntryInst)
  reservations :=
    [⟨⟨2, 1⟩, 0, [], none, .none, .active⟩, ⟨⟨2, 1⟩, 0, [⟨.track 0, .path, .clear⟩], none, .none, .active⟩]
  peers := [⟨2, .neighbour, .present, some 150, none, .absent⟩]
  sendQueue := List.replicate 32 (placed 2 (.proven 0 ⟨2, 2⟩ none)) }

/-- The sample that makes section 0 OCCUPIED ends with the route in EMERGENCY. -/
theorem brokenEntry_emergency :
    brokenEntry.answers (.sectionSample 0 true) (fun t => t.instances[0].any (·.state == .emergency)) = true := by
  decide +kernel

/-- Refutes O11 by its first clause: where a forced break follows the train entry, the route is not left ENTERED. -/
theorem not_trainEntryEntersOpenRoute : ¬ Obligations.TrainEntryEntersOpenRoute := by
  unfold Obligations.TrainEntryEntersOpenRoute
  rintro ⟨entry, -⟩
  have others : ∀ h : Fin 8, h ≠ 0 → brokenEntry.instances[h] = none := by decide +kernel
  have entered := entry 0 brokenEntry ⟨1, 0, []⟩ 0 brokenEntryInst brokenEntryRoute [.notReached] ⟨⟨1, 1⟩, .path, none, false⟩
    ⟨rfl, rfl⟩ rfl rfl rfl (by decide) (by decide +kernel) others rfl rfl rfl (by decide +kernel) rfl rfl (by decide +kernel)
  have unbroken := answers_of_completes (p := fun t => t.instances[0].any (·.state == .emergency)) entered
    fun t ⟨_, _, _, _, j, there, _, state, _⟩ => by
      rw [show t.instances[0] = some j from there]
      simp [state]
  exact Bool.false_ne_true (unbroken.symm.trans brokenEntry_emergency)

end Sys2Proof.Machine
end
